-- ==== Sys2Proof/Word.lean ====
section
/-! DEFINITION. Word.lean: the word types of the Kolfosia pair and the sparse-table type that State uses. -/

namespace Sys2Proof

/-- One byte of a memory (00 R3). -/
abbrev Byte := BitVec 8

/-- A 32-bit word: registers (19 R449), setting values (05), Q1.31 samples (07). -/
abbrev Word := BitVec 32

/-- A sparse table: (key, entry) pairs with rising keys; an absent key reads as the table's default. -/
abbrev Map (α : Type) := List (Nat × α)

/-- One multichannel audio frame: a sample for each channel (00, Glossary 'Slip'). -/
abbrev Frame := List Word

/-- Sparse memory: (address, byte) pairs, strictly rising, none equal to what an unlisted byte reads as. -/
abbrev Mem := Map Byte

end Sys2Proof
end

