-- ==== Sys2Proof/Machine/Table.lean ====
section
/-! DEFINITION. Machine/Table.lean: reading and writing sparse tables and memories, byte order (00 R3), bit fields,
two's complement and saturation helpers. -/

namespace Sys2Proof.Machine

/-- Entry of `m` at key `k`; `d` when none is listed. -/
def tget {α : Type} (d : α) : Map α → Nat → α
  | [], _ => d
  | (j, v) :: r, k => if j = k then v else tget d r k

/-- `m` without key `k`. -/
def tdel {α : Type} : Map α → Nat → Map α
  | [], _ => []
  | (j, v) :: r, k => if j = k then tdel r k else (j, v) :: tdel r k

/-- Put `(k, v)` before the first larger key. -/
def tins {α : Type} (k : Nat) (v : α) : Map α → Map α
  | [] => [(k, v)]
  | (j, w) :: r => if k < j then (k, v) :: (j, w) :: r else (j, w) :: tins k v r

/-- `m` with `v` at key `k`: an entry equal to the default is not listed. -/
def tset {α : Type} [DecidableEq α] (d : α) (m : Map α) (k : Nat) (v : α) : Map α :=
  if v = d then tdel m k else tins k v (tdel m k)

/-- Change the entry at `k` by `f`. -/
def tmod {α : Type} [DecidableEq α] (d : α) (m : Map α) (k : Nat) (f : α → α) : Map α :=
  tset d m k (f (tget d m k))

/-- The keys of a table are strictly rising and no entry equals the default. -/
def tableOk {α : Type} [DecidableEq α] (d : α) : Map α → Bool
  | [] => true
  | [(_, v)] => v != d
  | (j, v) :: (k, w) :: r => v != d && decide (j < k) && tableOk d ((k, w) :: r)

/-- The byte of memory at `a`; an unlisted byte reads 0. -/
def byteAt (m : Mem) (a : Nat) : Byte := tget 0 m a

/-- `n` bytes from address `a` upwards. -/
def memBytes (m : Mem) (a n : Nat) : List Byte := (List.range n).map fun i => byteAt m (a + i)

/-- Store bytes from address `a` upwards. -/
def memPut (m : Mem) (a : Nat) : List Byte → Mem
  | [] => m
  | b :: r => memPut (tset 0 m a b) (a + 1) r

/-- The canonical form of a memory. -/
abbrev Memory.wf (m : Mem) : Bool := tableOk 0 m

/-- Little-endian value of bytes (00 R3). -/
def leNat : List Byte → Nat
  | [] => 0
  | b :: r => b.toNat + 256 * leNat r

/-- Big-endian value of bytes: fields of published standards on the wire (00 R3). -/
def beNat (l : List Byte) : Nat := leNat l.reverse

/-- `n` little-endian bytes of `v`. -/
def leBytes : Nat → Nat → List Byte
  | 0, _ => []
  | n + 1, v => BitVec.ofNat 8 v :: leBytes n (v / 256)

/-- `n` big-endian bytes of `v`. -/
def beBytes (n v : Nat) : List Byte := (leBytes n v).reverse

/-- `n` bytes of `l` from offset `o`. -/
def sub (l : List Byte) (o n : Nat) : List Byte := (l.drop o).take n

/-- Little-endian value of `n` bytes of `l` from offset `o`. -/
def leAt (l : List Byte) (o n : Nat) : Nat := leNat (sub l o n)

/-- The same, as a signed number of `n` bytes. -/
def leIntAt (l : List Byte) (o n : Nat) : Int := (BitVec.ofNat (8 * n) (leAt l o n)).toInt

/-- Bits [lo + n - 1 : lo] of `w`. -/
def fld (w lo n : Nat) : Nat := (w >>> lo) % 2 ^ n

/-- Bit `b` of `w`. -/
def bit (w b : Nat) : Bool := Nat.testBit w b

/-- 0 or 1. -/
def b2n (b : Bool) : Nat := if b then 1 else 0

/-- Number of bits set below bit `n`. -/
def popcount (w : Nat) : Nat → Nat
  | 0 => 0
  | n + 1 => b2n (bit w n) + popcount w n

/-- Lowest `k < n` with `p k`. -/
def firstFrom (p : Nat → Bool) (n : Nat) : Option Nat := (List.range n).find? p

/-- Clamp an integer to [lo, hi]. -/
def clampI (lo hi v : Int) : Int := if v < lo then lo else if hi < v then hi else v

/-- Saturate an exact result to signed 32 bits. -/
def sat32 (v : Int) : Int := clampI (-2147483648) 2147483647 v

/-- Saturate to signed 16 bits. -/
def sat16 (v : Int) : Int := clampI (-32768) 32767 v

/-- The 32-bit word of an integer. -/
def wOf (v : Int) : Word := BitVec.ofInt 32 v

/-- Add to a counter that saturates at 0xFFFF_FFFF. -/
def satAdd32 (w : Word) (n : Nat) : Word := BitVec.ofNat 32 (min (w.toNat + n) 0xFFFFFFFF)

/-- ⌈a / b⌉. -/
def ceilDiv (a b : Nat) : Nat := (a + b - 1) / b

/-- Round half up: ⌊(v + 2^(n-1)) / 2^n⌋. -/
def rshr (v : Int) (n : Nat) : Int := if n = 0 then v else (v + 2 ^ (n - 1)) / 2 ^ n

/-- Element `k` of a list, `d` past its end. -/
def nth {α : Type} (d : α) (l : List α) (k : Nat) : α := l.getD k d

/-- Sum over a list. -/
def sumOf {α : Type} (f : α → Nat) (l : List α) : Nat := l.foldl (fun a x => a + f x) 0

/-- Stable insertion by key: first among equals stays first. -/
def insBy {α : Type} (key : α → Nat) (x : α) : List α → List α
  | [] => [x]
  | y :: r => if key x < key y then x :: y :: r else y :: insBy key x r

/-- Stable sort by key. -/
def sortBy {α : Type} (key : α → Nat) (l : List α) : List α := l.foldl (fun acc x => insBy key x acc) []

end Sys2Proof.Machine
end

