-- ==== Sys2Proof/Syntax.lean ====
section
/-! DEFINITION. Syntax.lean: the commands of the block, one constructor per row of spec/opcode_table.json,
and the types of their operands. -/

namespace Sys2Proof

/-- The result of reading a protected word (08 R209, 09 R238, 10 R254, 11 R288). -/
inductive Ecc where
  | ok
  | corrected
  | uncorrectable
deriving DecidableEq, Repr

/-- The predicate of a Churn instruction word: PINV and PSEL (08 R185). -/
structure Pred where
  inv : Bool := false
  sel : BitVec 3 := 0
deriving DecidableEq, Repr

/-- What port A does to the Vat word of a port B access in the same cycle (10 R251). -/
inductive Collision where
  | none
  | read
  | write
deriving DecidableEq, Repr

/-- What a core's access is; every other master's is plain (11 R270). -/
inductive CoreOp where
  | plain
  /-- an instruction fetch -/
  | fetch
  /-- a load-reserved -/
  | lr
  /-- a store-conditional -/
  | sc
  /-- an atomic memory operation, its written bytes given -/
  | amo
deriving DecidableEq, Repr

/-- One access of a bus-side master in a cycle (01 R15). -/
structure Access where
  /-- MASTER code (01, Bus masters). -/
  master : BitVec 4
  /-- The function on whose behalf the ring engine or PCIe acts. -/
  func : BitVec 4
  addr : BitVec 40
  write : Bool
  /-- Length of a read in bytes. -/
  len : Nat
  /-- Data of a write. -/
  bytes : List Byte
  /-- What port A does to one of its Vat words in the cycle of that word. -/
  portA : Collision
  /-- What the check of the first word or line read finds at least. -/
  ecc : Ecc
  /-- What a core's access is. -/
  op : CoreOp := .plain
  /-- The word of the access, counted from its first, that port A meets. -/
  portAt : Nat := 0
deriving DecidableEq, Repr

/-- The path of a register access (19 R451). -/
inductive Path where
  /-- The PF's BAR0. -/
  | pf
  /-- VF f's BAR0; the offset counts within its function page. -/
  | vf (f : Nat)
  | core (c : Nat)
  | debug
deriving DecidableEq, Repr

/-- The three classes of audio port (06 R122). -/
inductive PortCls where
  | pdmi
  | pdmo
  | tdm
deriving DecidableEq, Repr

/-- What the pins of a port carry over one frame, or one PDM sample. Bit k of a line is its level at the edge of the k-th clock period: of a TDM
frame from the BCLK of its marker on, that of the following marker included (06 R123, R128, R131). -/
structure PinFrame where
  /-- Data lines at the rising edges. -/
  rise : List Nat := []
  /-- Data lines at the falling edges. -/
  fall : List Nat := []
  /-- FS at the rising and at the falling edges of BCLK. -/
  fsRise : Nat := 0
  fsFall : Nat := 0
  /-- BCLK periods from its marker to the next. -/
  len : Nat := 0
  /-- Its length in cy. -/
  cy : Nat := 0
deriving DecidableEq, Repr

/-- An audio port: its class and number. -/
structure PortId where
  cls : PortCls
  idx : Nat
deriving DecidableEq, Repr

/-- The stores whose reads Churn protects (08 R209). -/
inductive ChurnMem where
  | prog
  | coef
  | data
deriving DecidableEq, Repr

/-- A protected read of a program unit that is not clean, in a slot of this tick (08 R209). -/
structure ChurnErr where
  pu : Nat
  slot : Nat
  mem : ChurnMem
  ecc : Ecc
deriving DecidableEq, Repr

/-- What the checks of one Separator beat find in a tile group (09 R238). -/
structure SepErr where
  /-- (model, layer, 64-bit word of the layer's weights, finding) of each weight word read that is not clean. -/
  weights : List (Nat × Nat × Nat × Ecc) := []
  /-- (model, 64-bit word of the staging buffer, finding) of each staging word that has come to hold wrong cells. -/
  staging : List (Nat × Nat × Ecc) := []
deriving DecidableEq, Repr

/-- What a tick meets from outside: protected reads that are not clean, and the measurements of H5. -/
structure TickEnv where
  churn : List ChurnErr := []
  /-- (tile, findings) of the Separator beats still to be made. -/
  sep : List (Nat × SepErr) := []
deriving DecidableEq, Repr

/-- What a sweep meets from outside (04 R86, R97). -/
structure SweepEnv where
  /-- Functions whose record had not been read when the next sweep's tick came. -/
  unread : List Nat := []
  /-- Functions whose record read returned an error. -/
  dbErr : List Nat := []
  /-- Rings whose descriptor fetch returned an error. -/
  fetchErr : List Nat := []
deriving DecidableEq, Repr

/-- The result of testing one Vat word (10 R258, R259). -/
structure MarchRes where
  /-- (place of a read among the operations made on the word, cells that it reads wrong). -/
  bad : List (Nat × BitVec 72) := []
  /-- The content read into the lock register cannot be corrected. -/
  uncorr : Bool := false
deriving DecidableEq, Repr

/-- What the boot ROM finds outside the chip at a release of chip reset or a boot load (17 R417 to R421, R433). -/
structure BootEnv where
  /-- BOOT_MODE[2:0] balls. -/
  mode : BitVec 3 := 0
  /-- Capacity in MiB that the fitted flash answers with; 0 = none answers. -/
  flashMib : Nat := 0
  /-- LPDDR5 training ends with READY (11 R289). -/
  memOk : Bool := true
  /-- The APLL locks within the boot time. -/
  apllOk : Bool := true
deriving DecidableEq, Repr

/-- What a trigger matches on (17 R428). -/
inductive TrigKind where
  | execute
  | load
  | store
deriving DecidableEq, Repr


/-- Why a core asks for a line to read (11 R272, R285). -/
inductive ReadKind where
  | load
  | fetch
  /-- a load-reserved -/
  | lr
  /-- a next-line prefetch into the data cache -/
  | prefetch
deriving DecidableEq, Repr

/-- Why a core asks for ownership of a line (11 R272, R285). -/
inductive StoreKind where
  | store
  /-- a store-conditional -/
  | sc
  /-- an atomic memory operation, its written bytes given -/
  | amo
deriving DecidableEq, Repr

/-- An ownership request that reaches the home slice in the same cycle as another for the line (11 R284). -/
structure Rival where
  /-- MASTER code: a core, or the master that the IO-coherent port serves -/
  master : BitVec 4
  /-- the function on whose behalf the ring engine acts -/
  func : BitVec 4 := 0
  /-- offset in the line of the bytes that it stores -/
  off : Nat
  bytes : List Byte
  kind : StoreKind := .store
deriving DecidableEq, Repr

/-- A place in memory: a line and an offset in it (11 R271). -/
structure LineLoc where
  line : Nat
  off : Nat := 0
deriving DecidableEq, Repr

/-- Who asks at the IO-coherent port: a MASTER code, and the function on whose behalf it acts (01 Bus masters, 11 R274). -/
structure IoMaster where
  code : Nat
  func : Nat := 0
deriving DecidableEq, Repr

/-- How a received frame ends: its FCS matches (12 R303, 13 R325), and whether what the receive buffer holds has been delivered before the next
command (log 100). -/
structure RxCheck where
  fcsOk : Bool := true
  soon : Bool := false
deriving DecidableEq, Repr

/-- What the fetch of a commit meets: its reads return data (04 R95), and the retention cells that take its tuples hold them (05 R109). -/
structure CommitRead where
  ok : Bool := true
  cells : Bool := true
deriving DecidableEq, Repr

/-- The list of a QUERY: the ring that dispatched it, and whether the read of the list returns data (04 R78, R95). -/
structure QueryRead where
  ring : Nat
  ok : Bool := true
deriving DecidableEq, Repr

/-- What the self-test of a Separator tile counts: failing weight words and failing accumulators (17 R426). -/
structure TileFails where
  weights : BitVec 32 := 0
  accs : BitVec 32 := 0
deriving DecidableEq, Repr


/-- The commands: the rows of spec/opcode_table.json in its order. -/
inductive Instr where
  /-- TICK (R21). One tick of 20,480 cy runs the program slots and then the housekeeping phases H0 to H8 in fixed order. -/
  | tick (env : TickEnv)
  /-- AON_TICK (R25). While CK_E is stopped the AON tick keeper advances TICK at 48 kHz from XO divided by 512. -/
  | aonTick
  /-- BLOCK_FLIP (R22). In H1 of the last tick of each block the host-audio and streamer block buffers flip. -/
  | blockFlip
  /-- CAPTURE_BLOCK_WRITTEN (R89). When the DMA write of a captured block ends, the AUDIO_IN completion is written with RESULT equal to the flip tick. -/
  | captureBlockWritten (ring : Nat) (ok : Bool)
  /-- STAGING_FLIP (R222). In H6 of the last tick of a hop the Separator staging buffers exchange roles. -/
  | stagingFlip
  /-- SEP_RESULT_WRITTEN (R232). When the write of a publication into a SEP_RESULT buffer ends, its completion is written with the flip tick. -/
  | sepResultWritten (model : Nat) (ok : Bool)
  /-- SEP_BEAT (R223). Each 2,048 cy beat of a tile group reads staged inputs, advances each layer by one step and writes outputs to staging. -/
  | sepBeat (tile : Nat) (err : SepErr)
  /-- CHURN_NOP (R187). Churn no-operation instruction. -/
  | churnNop (pu : BitVec 3) (p : Pred)
  /-- INB (R198). D takes an input bus channel loaded in the previous tick. -/
  | inb (pu : BitVec 3) (p : Pred) (d : BitVec 6) (ch : BitVec 8)
  /-- OUTB (R198). An output bus register takes A. -/
  | outb (pu : BitVec 3) (p : Pred) (a : BitVec 6) (ch : BitVec 8)
  /-- PBR (R199). D takes a patch register from the read bank. -/
  | pbr (pu : BitVec 3) (p : Pred) (d : BitVec 6) (reg : BitVec 10)
  /-- PBW (R199). A patch register of the write bank takes A. -/
  | pbw (pu : BitVec 3) (p : Pred) (a : BitVec 6) (reg : BitVec 10)
  /-- LDC (R195). D takes a glided coefficient. -/
  | ldc (pu : BitVec 3) (p : Pred) (d : BitVec 6) (idx : BitVec 12)
  /-- LDI (R187). D takes an immediate 32-bit value. -/
  | ldi (pu : BitVec 3) (p : Pred) (d : BitVec 6) (imm : BitVec 32)
  /-- MOV (R187). D takes A. -/
  | mov (pu : BitVec 3) (p : Pred) (d : BitVec 6) (a : BitVec 6)
  /-- UNPKL (R187). D takes the low half of A shifted up by 16. -/
  | unpkl (pu : BitVec 3) (p : Pred) (d : BitVec 6) (a : BitVec 6)
  /-- UNPKH (R187). D takes the high half of A. -/
  | unpkh (pu : BitVec 3) (p : Pred) (d : BitVec 6) (a : BitVec 6)
  /-- PACK (R187). D takes A and B rounded to Q1.15 in its two halves. -/
  | pack (pu : BitVec 3) (p : Pred) (d : BitVec 6) (a : BitVec 6) (b : BitVec 6)
  /-- DWR (R192). A delay line position WP takes A. -/
  | dwr (pu : BitVec 3) (p : Pred) (a : BitVec 6) (line : BitVec 6)
  /-- DRD (R191). D takes a delay line sample at a fixed delay, or 0 when older than FILL. -/
  | drd (pu : BitVec 3) (p : Pred) (d : BitVec 6) (line : BitVec 6) (delay : BitVec 21) (ecc : Ecc)
  /-- DRDX (R192). D takes a delay line sample at delay B plus an offset, clamped to LEN − 1. -/
  | drdx (pu : BitVec 3) (p : Pred) (d : BitVec 6) (b : BitVec 6) (line : BitVec 6) (off : BitVec 21) (ecc : Ecc)
  /-- VRD (R194). D takes a Vat table word at index B plus an offset, clamped to LEN − 1. -/
  | vrd (pu : BitVec 3) (p : Pred) (d : BitVec 6) (b : BitVec 6) (tab : BitVec 3) (off : BitVec 21) (ecc : Ecc)
  /-- LUT (R197). D takes a lookup-table value at A, interpolated or nearest. -/
  | lut (pu : BitVec 3) (p : Pred) (d : BitVec 6) (a : BitVec 6) (tab : BitVec 4)
  /-- ADD (R187). D takes the rounded, saturated sum of A and B. -/
  | add (pu : BitVec 3) (p : Pred) (d : BitVec 6) (a : BitVec 6) (b : BitVec 6)
  /-- SUB (R187). D takes the rounded, saturated difference of A and B. -/
  | sub (pu : BitVec 3) (p : Pred) (d : BitVec 6) (a : BitVec 6) (b : BitVec 6)
  /-- NEG (R187). D takes the saturated negation of A. -/
  | neg (pu : BitVec 3) (p : Pred) (d : BitVec 6) (a : BitVec 6)
  /-- ABS (R187). D takes the saturated magnitude of A. -/
  | abs (pu : BitVec 3) (p : Pred) (d : BitVec 6) (a : BitVec 6)
  /-- MIN (R187). D takes the signed smaller of A and B. -/
  | min (pu : BitVec 3) (p : Pred) (d : BitVec 6) (a : BitVec 6) (b : BitVec 6)
  /-- MAX (R187). D takes the signed larger of A and B. -/
  | max (pu : BitVec 3) (p : Pred) (d : BitVec 6) (a : BitVec 6) (b : BitVec 6)
  /-- MULR (R187). D takes the rounded product of A and B. -/
  | mulr (pu : BitVec 3) (p : Pred) (d : BitVec 6) (a : BitVec 6) (b : BitVec 6)
  /-- ASH (R187). D takes A arithmetically shifted by a signed count. -/
  | ash (pu : BitVec 3) (p : Pred) (d : BitVec 6) (a : BitVec 6) (sh : BitVec 6)
  /-- AND (R187). D takes A AND B. -/
  | and (pu : BitVec 3) (p : Pred) (d : BitVec 6) (a : BitVec 6) (b : BitVec 6)
  /-- OR (R187). D takes A OR B. -/
  | or (pu : BitVec 3) (p : Pred) (d : BitVec 6) (a : BitVec 6) (b : BitVec 6)
  /-- XOR (R187). D takes A XOR B. -/
  | xor (pu : BitVec 3) (p : Pred) (d : BitVec 6) (a : BitVec 6) (b : BitVec 6)
  /-- SEL (R187). D takes A or B according to a predicate. -/
  | sel (pu : BitVec 3) (p : Pred) (d : BitVec 6) (a : BitVec 6) (b : BitVec 6) (pr : BitVec 3) (inv : Bool)
  /-- CMP (R189). A predicate takes a comparison of A against B. -/
  | cmp (pu : BitVec 3) (p : Pred) (pd : BitVec 3) (a : BitVec 6) (b : BitVec 6) (cond : BitVec 3)
  /-- CMPI (R189). A predicate takes a comparison of A against an immediate. -/
  | cmpi (pu : BitVec 3) (p : Pred) (pd : BitVec 3) (a : BitVec 6) (cond : BitVec 3) (imm : BitVec 32)
  /-- PLOG (R187). A predicate takes a logic combination of two predicates. -/
  | plog (pu : BitVec 3) (p : Pred) (pd : BitVec 3) (pa : BitVec 3) (pb : BitVec 3) (lop : BitVec 2)
  /-- MAC (R188). An accumulator adds A times B. -/
  | mac (pu : BitVec 3) (p : Pred) (acc : BitVec 2) (a : BitVec 6) (b : BitVec 6)
  /-- MSU (R188). An accumulator subtracts A times B. -/
  | msu (pu : BitVec 3) (p : Pred) (acc : BitVec 2) (a : BitVec 6) (b : BitVec 6)
  /-- MACC (R188). An accumulator adds A times a glided coefficient. -/
  | macc (pu : BitVec 3) (p : Pred) (acc : BitVec 2) (a : BitVec 6) (idx : BitVec 12)
  /-- MPY (R188). An accumulator takes A times B. -/
  | mpy (pu : BitVec 3) (p : Pred) (acc : BitVec 2) (a : BitVec 6) (b : BitVec 6)
  /-- MPYC (R188). An accumulator takes A times a glided coefficient. -/
  | mpyc (pu : BitVec 3) (p : Pred) (acc : BitVec 2) (a : BitVec 6) (idx : BitVec 12)
  /-- ACCST (R187). D takes a scaled, rounded accumulator value, optionally clearing the accumulator. -/
  | accst (pu : BitVec 3) (p : Pred) (d : BitVec 6) (acc : BitVec 2) (clear : Bool) (sh : BitVec 5)
  /-- ACCLD (R187). An accumulator takes the value of A. -/
  | accld (pu : BitVec 3) (p : Pred) (acc : BitVec 2) (a : BitVec 6)
  /-- ACCADD (R187). An accumulator adds another accumulator. -/
  | accadd (pu : BitVec 3) (p : Pred) (acc : BitVec 2) (src : BitVec 2)
  /-- SWEEP (R86). Every P ticks the ring engine reads doorbell records, updates indices, fetches descriptors and dispatches those that pass the checks. -/
  | sweep (env : SweepEnv)
  /-- FENCE_RELEASE (R87). A FENCE descriptor is dispatched once every earlier descriptor of its ring has completed. -/
  | fenceRelease (ring : Nat)
  /-- VECTOR_MESSAGE (R84). At the end of a tick a vector with pending entries sends its MSI-X message or raises its PLIC source when the moderation count or time is met. -/
  | vectorMessage (fn : Nat) (vec : Nat)
  /-- NOP (R78). The NOP descriptor completes with TICK in RESULT. -/
  | nop (ring : Nat)
  /-- COMMIT (R92). A COMMIT descriptor is handled by its token and, when new, its commit block and blobs are fetched for checking. -/
  | commit (ring : Nat) (got : CommitRead)
  /-- COMMIT_CHECK (R108). Once fetched and with all commits ahead checked, the commit unit runs checks C1 to C8 and queues or rejects the commit. -/
  | commitCheck
  /-- COMMIT_RECHECK (R107). When the projection ahead of a pending commit changes, it and every commit behind are checked again, rejecting with SHED or LATE where they fail. -/
  | commitRecheck
  /-- COMMIT_LOAD (R111). In H5 of the tick the commit ahead applies, the head commit starts loading its contents into shadow state and starts its power-ups. -/
  | commitLoad
  /-- COMMIT_APPLY (R112). In H4 of tick A − 1 every shadow copy of a ready commit becomes active at once and its completion is written. -/
  | commitApply
  /-- QUIESCE_START (R424). Step 1 of a quiesce is taken at its scheduled tick and new requests to the unit are refused with UNIT_OFFLINE. -/
  | quiesceStart
  /-- QUIESCE_ABORT (R423). Requests still outstanding by the fourth tick after step 1 are aborted with UNIT_RESET. -/
  | quiesceAbort (cls : Nat) (inst : Nat)
  /-- REQUEST_REPLY (R423). A reply carrying an epoch other than the unit's current one is dropped and EPOCH_DROP increments. -/
  | requestReply (cls : Nat) (inst : Nat) (ep : BitVec 4)
  /-- DIVERGE (R118). When a unit's intent has been up and its condition down for more than 8 T, DIVERGE is posted once. -/
  | diverge (cls : Nat) (inst : Nat)
  /-- CONVERGE (R118). When the condition has been up again for more than 8 T, or a commit sets the intent down, CONVERGE closes the episode. -/
  | converge (cls : Nat) (inst : Nat)
  /-- QUERY (R115). QUERY fills setting values from the active copies, stopping at the first unreadable ID. -/
  | query (list : QueryRead)
  /-- BLOB_LOAD (R110). BLOB_LOAD loads, replaces or releases a held blob after its checks. -/
  | blobLoad (ring : Nat) (ok : Bool)
  /-- AUDIO_IN (R89). An AUDIO_IN descriptor posts a buffer to a CAPTURE ring. -/
  | audioIn (ring : Nat)
  /-- AUDIO_OUT (R88). An AUDIO_OUT descriptor posts a buffer to a PLAY ring for staging. -/
  | audioOut (ring : Nat) (ok : Bool)
  /-- NET_TX (R307). A NET_TX descriptor is judged for length and owner and enters its transmit queue. -/
  | netTx (ring : Nat)
  /-- NET_RX_POST (R306). A NET_RX_POST descriptor posts a receive buffer for a port. -/
  | netRxPost (ring : Nat)
  /-- HERD_TX (R325). A HERD_TX descriptor queues a raw frame or a reliable-channel message on a Herdline port. -/
  | herdTx (ring : Nat)
  /-- HERD_RX_POST (R340). A HERD_RX_POST descriptor posts a raw or reliable-channel receive buffer. -/
  | herdRxPost (ring : Nat)
  /-- SEP_STEP (R231). A SEP_STEP is assigned to a host step of a hop and its data copied into staging. -/
  | sepStep (ring : Nat) (ok : Bool)
  /-- SEP_RESULT (R232). A SEP_RESULT posts a buffer for the model's next publication. -/
  | sepResult (ring : Nat)
  /-- METER_SNAP (R169). METER_SNAP writes the meters of one H3 latch and clears CLIP for the owner. -/
  | meterSnap (ring : Nat)
  /-- STATS_SNAP (R78). STATS_SNAP returns the counters of a class and unit number, clearing them only for function 0. -/
  | statsSnap (ring : Nat)
  /-- NV_WRITE (R401). NV_WRITE checks rights and length, fetches the data and starts a journal write. -/
  | nvWrite (ring : Nat) (ok : Bool)
  /-- NV_READ (R406). NV_READ copies a record from the active slot. -/
  | nvRead (ring : Nat)
  /-- VAT_MARCH (R261). The TEST kind VAT_MARCH starts a destructive or preserving March H11 on a bank after its checks. -/
  | vatMarch (ring : Nat)
  /-- MARCH_WORD (R259). A preserving test locks one word, runs the 11 elements on it in idle port B cycles and writes it back. -/
  | marchWord (res : MarchRes)
  /-- MARCH_END (R261). When a March H11 test ends or is aborted, its result buffer and completion are written. -/
  | marchEnd (abort : Bool)
  /-- SEP_TILE (R426). The TEST kind SEP_TILE starts the built-in self-test of an unused tile. -/
  | sepTile (ring : Nat)
  /-- SEP_TILE_END (R426). When the tile self-test ends, its words read 0 and the result and completion are written. -/
  | sepTileEnd (tile : Nat) (fails : TileFails) (pass : Bool)
  /-- APLL_CAL (R425). The TEST kind APLL_CAL completes IN_USE while CK_E runs. -/
  | apllCal (ring : Nat)
  /-- HERD_CAL (R426). The TEST kind HERD_CAL requests a PHY calibration at the next occasion R329 allows. -/
  | herdCal (ring : Nat)
  /-- CHURN_PEEK (R426). The TEST kind CHURN_PEEK requests a PU register snapshot. -/
  | churnPeek (ring : Nat)
  /-- CHURN_PEEK_SNAPSHOT (R426). After slot 16,383 of the first tick after dispatch, the PU state is copied to the result buffer. -/
  | churnPeekSnapshot (pu : BitVec 3)
  /-- SEP_PEEK (R426). The TEST kind SEP_PEEK requests a row state snapshot of a tile. -/
  | sepPeek (ring : Nat)
  /-- SEP_PEEK_SNAPSHOT (R426). When every span on the tile has ended in the first hop after dispatch, the row accumulators are copied out. -/
  | sepPeekSnapshot (tile : Nat)
  /-- BUS_ACCESS (R15). A bus master's fabric access is performed or refused. -/
  | busAccess (accs : List Access)
  /-- SCRUB_WRITE_BACK (R254). A corrected Vat word is written back in the next otherwise unused port B cycle. -/
  | scrubWriteBack (bank : Nat)
  /-- BANK_POWER_UP_END (R256). A bank power-up and clear ends, letting the commit become ready. -/
  | bankPowerUpEnd (bank : Nat)
  /-- DOMAIN_POWER_UP_END (R354). After power good and the 5 µs switch close, the domain leaves power-up in its reset state. -/
  | domainPowerUpEnd (dom : Nat) (ok : Bool)
  /-- REF_MEASURE (R45). At each 16-block window a source is measured and qualified or refused, posting CLK_REF_REFUSED for a selected one. -/
  | refMeasure (src : Nat) (ppb : Int)
  /-- CLK_REF_LOST (R59). A source without edges for its loss time is declared lost and CLK_REF_LOST is posted. -/
  | clkRefLost (src : Nat)
  /-- BUILD_OUT_CAPTURE (R47). When the slew brings the frequency error to 0.5 ppm or below, the phase difference is captured into the build-out. -/
  | buildOutCapture (phase : Int)
  /-- CLK_LOCK (R48). After 32 blocks meeting the lock test the APLL enters LOCKED and posts CLK_LOCK. -/
  | clkLock
  /-- APLL_LOCK_LOSS (R48). A phase error above 2 µs takes the APLL out of LOCKED. -/
  | apllLockLoss (phaseNs : Int)
  /-- REVERT_TO_PRIMARY (R46). With REVERT = 1 the APLL returns to the primary once it has stayed qualified for 1,024 blocks. -/
  | revertToPrimary
  /-- DISC_LOST (R51). DISC is lost after DISC_TIMEOUT blocks without a FREQ_TRIM commit. -/
  | discLost
  /-- XO_FAIL (R62). After 10 µs without XO edges the APLL enters holdover, the PLLs take CK_E ÷ 40 and XO_FAIL is posted. -/
  | xoFail
  /-- XO_RECOVER (R59). After 4,096 good XO cycles the PLLs return to XO and the APLL re-acquires. -/
  | xoRecover
  /-- ASRC_MODE_SWITCH (R50). In the housekeeping window after a change of lock condition, a port's converter moves between SYNC and TRACK keeping its fill. -/
  | asrcModeSwitch (ep : Nat)
  /-- CPLL_LOCK (R55). The CPLL locks and after 2 µs the cores switch back from the bypass. -/
  | cpllLock
  /-- CPLL_FAIL (R63). If the CPLL does not lock within 100 µs, the cores stay on the bypass and CPLL_FAIL is posted. -/
  | cpllFail
  /-- PORT_FRAME (R134). A whole port frame is exchanged at the pins, repeating or dropping whole frames when the port FIFO is empty or full. -/
  | portFrame (port : PortId) (pins : PinFrame)
  /-- SETTLE (R138). A slave port enters SETTLE from WAIT_CLK after its count of valid periods and frames. -/
  | settle (port : PortId) (periodCy : Nat) (highCy : Nat)
  /-- PORT_CLK_OK (R137). At the first H1 with ASRC lock, STARTUP_T expired and a valid clock, the port enters RAMP_UP and posts PORT_CLK_OK. -/
  | portClkOk (port : PortId)
  /-- RAMP_UP_END (R132). When the mute gain reaches 32 the port enters RUN. -/
  | rampUpEnd (port : PortId)
  /-- RAMP_DOWN_END (R132). When the mute gain reaches 0 the port enters WAIT_CLK and its converter goes IDLE. -/
  | rampDownEnd (port : PortId)
  /-- PORT_CLK_LOST (R141). A slave port without clock edges for 3,932 cy, or with four framing errors, declares clock loss and ramps down. -/
  | portClkLost (port : PortId)
  /-- PORT_FRAME_ERR (R143). A slave TDM frame that is not correctly framed is counted, resynchronised and slipped. -/
  | portFrameErr (port : PortId)
  /-- PDM_STUCK (R145). A PDM channel whose last 1,024 bits are equal posts PDM_STUCK the first time. -/
  | pdmStuck (port : PortId) (line : Nat) (odd : Bool)
  /-- ASRC_LOCK (R156). A tracking converter meeting the lock test enters TRACK and posts ASRC_LOCK. -/
  | asrcLock (ep : Nat)
  /-- ASRC_UNLOCK (R159). A FIFO fill outside 2 T to 6 T in TRACK unlocks the converter and posts ASRC_UNLOCK. -/
  | asrcUnlock (ep : Nat)
  /-- GAIN_ZC_STEP (R163). A ZC gain steps at the first tick whose sample crosses zero. -/
  | gainZcStep (ep : Nat) (ch : Nat)
  /-- ZC_TIMEOUT (R163). With no crossing by A + ZC_TIMEOUT the gain steps and ZC_TIMEOUTS increments. -/
  | zcTimeout (ep : Nat) (ch : Nat)
  /-- PEAK_HOLD_EXPIRY (R168). After HOLD_T ticks without a new peak, PEAK starts decaying at DECAY. -/
  | peakHoldExpiry (meter : Nat)
  /-- READ_SHARED (R272). A load or fetch miss asks the home slice for the line, which snoops an M owner and grants E or S. -/
  | readShared (core : Nat) (loc : LineLoc) (kind : ReadKind) (ecc : Ecc) (victim : Option Nat)
  /-- READ_UNIQUE (R272). A store, AMO or SC miss invalidates other copies and grants M. -/
  | readUnique (core : Nat) (loc : LineLoc) (bytes : List Byte) (kind : StoreKind) (ecc : Ecc) (victim : Option Nat) (rivals : List Rival)
  /-- UPGRADE (R272). A store to an S line invalidates other copies and grants M, or is handled as ReadUnique. -/
  | upgrade (core : Nat) (loc : LineLoc) (bytes : List Byte) (kind : StoreKind) (ecc : Ecc) (rivals : List Rival)
  /-- CLEAN_EVICT (R272). A replaced E or S line clears the sender's presence bit. -/
  | cleanEvict (core : Nat) (line : Nat)
  /-- WRITE_BACK (R283). A replaced M line is written into L2 and its token acknowledged, or discarded as absorbed. -/
  | writeBack (core : Nat) (entry : Nat)
  /-- IO_READ (R274). An IO-coherent read takes data from an M owner, L2 or LPDDR5. -/
  | ioRead (port : IoMaster) (line : Nat) (ecc : Ecc)
  /-- IO_WRITE (R274). An IO-coherent write invalidates L1 copies and writes L2 or LPDDR5. -/
  | ioWrite (port : IoMaster) (line : Nat) (off : Nat) (bytes : List Byte)
  /-- REPLAY (R284). A losing ownership request is replayed after the winner's grant and snoops the new owner. -/
  | replay (line : Nat)
  /-- MACHINE_TIMER (R275). MTIP of a core rises when mtime reaches its SYS_MTIMECMP. -/
  | machineTimer (core : Nat) (slot : Nat)
  /-- PATROL_SCRUB (R282). The patrol scrubber reads the next LPDDR5 line and writes back a corrected one. -/
  | patrolScrub (ecc : Ecc)
  /-- MR4_POLL (R280). Every 16 ms the controller reads MR4 and adjusts the refresh rate. -/
  | mr4Poll (code : BitVec 4)
  /-- PLIC_CLAIM (R276). A claim read returns the highest pending source of a context and marks it claimed. -/
  | plicClaim (ctx : Nat)
  /-- PLIC_COMPLETE (R276). A completion write ends the claim of a source. -/
  | plicComplete (ctx : Nat) (src : Nat)
  /-- DCACHE_CLEAN (R292). A write of 1 to mkfclean.DCACHE writes back and invalidates the L1 data cache and drains the writeback buffer. -/
  | dcacheClean (core : Nat)
  /-- ICACHE_INVALIDATE (R292). A write of 1 to mkfclean.ICACHE invalidates the L1 instruction cache. -/
  | icacheInvalidate (core : Nat)
  /-- KTICK_READ (R292). A read of ktick returns TICK and latches kslot. -/
  | ktickRead (core : Nat) (mode : BitVec 2) (slot : Nat)
  /-- CORE_PARK_OFF (R279). A core whose intent is down is switched off in the first H5 in which it is parked. -/
  | coreParkOff (core : Nat)
  /-- L2_FLUSH (R291). Turning off the slices writes back every dirty line to LPDDR5, and the commit is ready when it ends. -/
  | l2Flush
  /-- LINK_POLL (R299). At each block boundary the link manager reads PHY register 1 and resolves the mode when the link comes up. -/
  | linkPoll (port : Nat) (reg1 : BitVec 16) (reg5 : BitVec 16) (reg10 : BitVec 16)
  /-- SGMII_STATUS (R299). An SGMII in-band status word updates link, speed and duplex. -/
  | sgmiiStatus (port : Nat) (up : Bool) (speed : BitVec 2) (full : Bool)
  /-- NET_DOWNSHIFT (R301). After n failed attempts the top speed is removed from the advertisement and NET_DOWNSHIFT is posted. -/
  | netDownshift (port : Nat)
  /-- NET_RX_FRAME (R303). A received frame is judged, filtered, matched against wake patterns and delivered or dropped. -/
  | netRxFrame (port : Nat) (frame : List Byte) (rx : RxCheck) (frac : BitVec 32)
  /-- PAUSE_REFRESH (R312). With the fill still at XON or above after half the pause time, a PAUSE is sent again. -/
  | pauseRefresh (port : Nat)
  /-- PAUSE_EXPIRY (R310). The pause timer expires and queued frames may start. -/
  | pauseExpiry (port : Nat)
  /-- NET_TX_START (R308). With the line free and no pause, the oldest frame of the highest queue starts once its threshold is buffered. -/
  | netTxStart (port : Nat) (ok : Bool)
  /-- NET_TX_DONE (R307). A transmitted frame ends and its timestamp record and completion are written. -/
  | netTxDone (port : Nat) (frac : BitVec 32)
  /-- TX_UNDERRUN (R309). An empty transmit buffer inside a frame ends it with an error and raises TX_THRESH_NOW by 64. -/
  | txUnderrun (port : Nat)
  /-- COLLISION (R302). A half-duplex collision sends a jam and schedules a backoff or ends the frame. -/
  | collision (port : Nat) (late : Bool)
  /-- BACKOFF_EXPIRY (R302). The backoff ends and the frame is attempted again after deferral. -/
  | backoffExpiry (port : Nat)
  /-- MDIO_GO (R323). A write of GO to NET_MDIO_CMD starts an MDIO transaction. -/
  | mdioGo (cmd : BitVec 32)
  /-- MDIO_DONE (R453). An MDIO transaction ends, BUSY falls and PLIC source 4 fires. -/
  | mdioDone (ack : Bool) (rdata : BitVec 16)
  /-- NET_WAKE (R317). When the ring engine next runs after a Net wake match, NET_WAKE is posted. -/
  | netWake (port : Nat)
  /-- HERD_RX_FRAME (R326). A Herdline frame is accepted and routed to its service or to raw delivery, or discarded with BAD_KIND. -/
  | herdRxFrame (port : Nat) (frame : List Byte) (rx : RxCheck)
  /-- HERD_TX_START (R327). In a transmit opportunity the port sends the highest-priority pending frame. -/
  | herdTxStart (port : Nat) (ok : Bool)
  /-- HELLO (R330). A received HELLO updates the peer table and may release held frames or raise HERD_ID_CONFLICT. -/
  | hello (port : Nat) (frame : List Byte)
  /-- HELLO_SEND (R330). The port sends a HELLO at start, every HELLO_PERIOD or when its flags change. -/
  | helloSend (port : Nat)
  /-- PEER_EXPIRE (R330). A peer silent for 3 × HELLO_PERIOD leaves the peer table. -/
  | peerExpire (port : Nat) (src : Nat)
  /-- HERD_MODE (R330). At each block boundary the settled port resolves medium, Cowbell, formats and windows, posting HERD_MODE on a change. -/
  | herdMode (port : Nat)
  /-- PLCA_LOSS (R328). A follower hearing no PLCA beacon for 4,000 bit times falls back to CSMA/CD. -/
  | plcaLoss (port : Nat)
  /-- PHY_CALIBRATION (R329). Every 48,000 T the PHY calibrates in an idle occasion. -/
  | phyCalibration (port : Nat) (rxOfs : BitVec 7) (txLvl : BitVec 7) (limit : Bool)
  /-- BEACON_SEND (R332). The Cowbell coordinator sends beacon n at its first opportunity at or after S_n. -/
  | beaconSend (port : Nat) (txOffset : BitVec 32)
  /-- BEACON (R333). A received beacon resynchronises a follower, ends LOST or SEEK with COWBELL_SYNC and may wake the device. -/
  | beacon (port : Nat) (frame : List Byte)
  /-- LISTEN_WINDOW_OPEN (R334). The follower's receiver turns on for the next listen window. -/
  | listenWindowOpen (port : Nat)
  /-- LISTEN_WINDOW_CLOSE (R333). A window closing without a beacon counts a miss, and the third enters LOST. -/
  | listenWindowClose (port : Nat)
  /-- AWAKE_WINDOW_END (R333). The follower's awake window ends and it sleeps. -/
  | awakeWindowEnd (port : Nat)
  /-- HERD_WAKE (R334). When the ring engine next runs after a Herdline wake cause, HERD_WAKE is posted. -/
  | herdWake (port : Nat)
  /-- DATA (R339). A reliable-channel DATA frame is accepted, duplicated or stale, delivered and acknowledged. -/
  | data (port : Nat) (frame : List Byte)
  /-- ACK (R338). A received ACK completes the messages it acknowledges. -/
  | ack (port : Nat) (frame : List Byte)
  /-- RC_RETRANSMIT (R338). An unacknowledged message is resent every RC_RTO until its retries are exhausted. -/
  | rcRetransmit (port : Nat) (dst : Nat) (seq : BitVec 16)
  /-- STREAM_PACKET (R342). A stream packet is bound, checked and stored whole in the jitter buffer. -/
  | streamPacket (port : Nat) (frame : List Byte)
  /-- STREAM_SILENCE (R342). After 16 blocks without packets the stream's condition goes down and it may bind again. -/
  | streamSilence (ep : Nat)
  /-- WAKE_IN (R361). A selected WAKE_IN pin reaching its level is a wake cause and starts leaving the profile. -/
  | wakeIn (pin : Nat) (level : Bool)
  /-- WAKE_TICK (R361). TICK reaching WAKE_TICK is a wake cause. -/
  | wakeTick
  /-- CKE_STOP (R359). After slewing, parking and self-refresh end, the remaining shed domains and domain 19 go off and CK_E stops. -/
  | ckeStop
  /-- CKE_RESTART (R361). After POL power good, domain 19 power-up and APLL lock, the first CK_E tick starts and the leaving commit begins loading. -/
  | ckeRestart
  /-- PG_TIMEOUT (R365). A POL_PG not high within PG_TIMEOUT leaves its domains off and posts PWR_FAULT. -/
  | pgTimeout (ch : Nat)
  /-- POL_PG_DROP (R365). A POL_PG falling while its domains are on isolates them within 1 µs and posts PWR_FAULT. -/
  | polPgDrop (ch : Nat)
  /-- POL_ALERT (R362). PMB_ALERT_N low makes the PMBus master read STATUS_WORD, post POL_ALERT and clear faults. -/
  | polAlert (status : List (BitVec 16))
  /-- PMBUS_POLL (R362). Every 16 blocks READ_VOUT and READ_IOUT are read from each addressed channel. -/
  | pmbusPoll (ch : Nat) (vout : BitVec 32) (iout : BitVec 32) (ok : Bool)
  /-- AVS_TRIM (R363). Once per block the delay monitors move the AVS trim and a new VOUT_COMMAND may be sent. -/
  | avsTrim (trimMv : Int)
  /-- VOUT_POLL (R363). During a voltage raise READ_VOUT is polled every 10 µs and the CPLL starts when it reaches the target. -/
  | voutPoll (mv : Nat)
  /-- OPP_VOLTAGE_TIMEOUT (R363). If READ_VOUT misses the target within 1 ms, the OPP change is abandoned with CPLL_FAIL. -/
  | oppVoltageTimeout
  /-- DOWNLINK_FRAME (R374). Every 5 µs the device sends a downlink frame that the KF-7110 checks and uses for PERIOD, RUN and parameters. -/
  | downlinkFrame (vBus : Nat) (good : Bool)
  /-- UPLINK_FRAME (R376). An uplink frame from the KF-7110 updates link state, mains state, telemetry and may hand over or raise MAINS_LOSS. -/
  | uplinkFrame (word : BitVec 64)
  /-- BAD_SLOT (R372). A 5 µs slot without a good frame is counted, and the fourth in a row takes the link down. -/
  | badSlot (uplink : Bool)
  /-- MAINS_RETURN (R386). After 1 s of MAINS_OK and LINKED, MAINS_LOST clears and MAINS_RETURN is posted. -/
  | mainsReturn
  /-- HOLDUP_ESTIMATE (R387). Every 100 µs the power controller computes HOLDUP_US. -/
  | holdupEstimate (powerMw : Nat) (iOutMa : Nat) (vRsv : Nat)
  /-- RSV_COMPARATOR (R389). V_BUS falling below 11.0 V drives RSV_EN high within 2 µs and posts RSV_ON. -/
  | rsvComparator (vBus : Nat)
  /-- UPLINK_SELF_TIMED (R372). With no downlink frame within 5.5 µs the KF-7110 sends an uplink frame on its own timer and counts a bad slot. -/
  | uplinkSelfTimed
  /-- VCC_START (R378). VCC reaching 16.0 V starts the KF-7110 in START. -/
  | vccStart (mv : Nat)
  /-- SOFT_START_END (R378). The LLC soft-start ends and the KF-7110 enters AUX. -/
  | softStartEnd
  /-- HOLDOFF (R370). After 100 ms in SAFE_BURST without a good frame the KF-7110 stops the PFC and LLC. -/
  | holdoff
  /-- HOLDOFF_END (R370). After 1 s in HOLDOFF the KF-7110 returns to START. -/
  | holdoffEnd (tempHalfC : Int)
  /-- ZERO_CROSSING (R385). A line zero crossing is judged as a candidate and may restore MAINS_OK. -/
  | zeroCrossing (dtUs : Nat) (peakV : Nat)
  /-- MAINS_OK_TIMEOUT (R385). 12 ms without a valid crossing clears MAINS_OK and stops the PFC. -/
  | mainsOkTimeout
  /-- OCP_LIMIT (R381). HB_CS reaching OCP ends the half-period, and 64 in a row enter HOLDOFF. -/
  | ocpLimit (inRow : Bool)
  /-- CAPACITIVE_MODE (R381). 256 consecutive capacitive-mode corrections enter HOLDOFF with FAULT 5. -/
  | capacitiveMode (inRow : Bool)
  /-- OVER_TEMPERATURE (R381). A die above 150 °C enters HOLDOFF with FAULT 2. -/
  | overTemperature (tempHalfC : Int)
  /-- VCC_UVLO (R381). VCC below 9.5 V turns all outputs off and restarts from step 1. -/
  | vccUvlo (mv : Nat)
  /-- BULK_OVP (R380). Bulk above 425 V holds the PFC off, and above 450 V enters HOLDOFF. -/
  | bulkOvp (halfV : Nat)
  /-- BULK_UV (R381). V_BULK below BULK_MIN stops switching and returns to START. -/
  | bulkUv (halfV : Nat)
  /-- FLASH_OP_START (R403). An operation that alters flash starts once HOLDUP_US covers its worst case plus 2,000 µs. -/
  | flashOpStart
  /-- FLASH_OP_DONE (R402). A flash operation ends, is read back and the write advances, activating the new slot after the marker. -/
  | flashOpDone (ok : Bool)
  /-- FLASH_BUSY_TIMEOUT (R410). An operation still busy after twice its worst-case time fails. -/
  | flashBusyTimeout
  /-- HOLDUP_LOW (R405). A write held back at the gate for NV_WAIT is abandoned with HOLDUP_LOW. -/
  | holdupLow
  /-- AON_POWER_ON (R415). The 12 V bus or reserve rising powers AON and resets everything. -/
  | aonPowerOn
  /-- AON_POWER_LOSS (R474). VDD_AON below 0.72 V for 2 µs treats AON as unpowered. -/
  | aonPowerLoss
  /-- CHIP_RESET (R415). RESET_N low for 1 µs resets every switched domain and the commit unit. -/
  | chipReset
  /-- CHIP_RESET_RELEASE (R433). Release of chip reset samples BOOT_MODE and runs the boot ROM start-up sequence. -/
  | chipResetRelease (env : BootEnv)
  /-- RESET_OUT_RELEASE (R415). RESET_OUT_N goes high 10 ms after chip reset release. -/
  | resetOutRelease
  /-- SYS_BOOT_GO (R421). A write of 1 to SYS_BOOT_GO in HOST_WAIT verifies the host-loaded image. -/
  | sysBootGo (val : BitVec 32) (env : BootEnv)
  /-- SYS_RESET_CTL_CHIP (R436). A write of CHIP with KEY 0x5EED causes a chip reset. -/
  | sysResetCtlChip (path : Path) (val : BitVec 32)
  /-- SYS_CORE_RUN (R435). Setting a RUN bit releases a core at SYS_CORE_ENTRY. -/
  | sysCoreRun (path : Path) (val : BitVec 32)
  /-- BUSERR_VALID_CLEAR (R20). A write of 1 to SYS_BUSERR_INFO.VALID clears VALID and COUNT together. -/
  | buserrValidClear (accs : List Access)
  /-- MEM_ERR_VALID_CLEAR (R293). A write of 1 to SYS_MEM_ERR_INFO.VALID clears the capture and the CORR and UNCORR counts. -/
  | memErrValidClear (path : Path) (val : BitVec 32)
  /-- SYS_TICK_LO_READ (R449). A read of SYS_TICK_LO latches SYS_TICK_HI and SYS_TICK_SUB. -/
  | sysTickLoRead (slot : Nat)
  /-- SYS_MTIME_LO_READ (R449). A read of SYS_MTIME_LO latches SYS_MTIME_HI. -/
  | sysMtimeLoRead (slot : Nat)
  /-- RING_ENABLE (R93). Writing RNG_CFG.ENABLE = 1 enables the ring from the next sweep if L6 still holds, else sets BUDGET_FAIL. -/
  | ringEnable (path : Path) (ring : Nat) (val : BitVec 32)
  /-- RING_DISABLE (R94). Writing RNG_CFG.ENABLE = 0 disables the ring while fetched descriptors complete. -/
  | ringDisable (path : Path) (ring : Nat) (val : BitVec 32)
  /-- FN_CTRL_RESET (R99). Writing 1 to FN_CTRL.RESET in standalone mode resets the function as an FLR. -/
  | fnCtrlReset (path : Path) (fn : Nat) (val : BitVec 32)
  /-- REG_WRITE (R4). A write to a register without a row of its own stores its fields under their access codes. -/
  | regWrite (path : Path) (off : Nat) (val : BitVec 32)
  /-- FLR (R96). A PCIe Function Level Reset disables the function's rings, withdraws its commits and resets its page. -/
  | flr (fn : Nat)
  /-- PERST_N (R415). PERST_N low resets PCIe configuration state and the link and acts as an FLR of function 0. -/
  | perstN
  /-- DL_DOWN (R95). PCIe link down acts as an FLR of every function while the tick side runs on. -/
  | dlDown
  /-- DMA_TIMEOUT (R95). A DMA read unanswered at the completion timeout completes its descriptor ACCESS with reason DMA. -/
  | dmaTimeout (ring : Nat) (id : Nat)
  /-- EXTEST (R427). The EXTEST instruction drives and captures boundary cells, subject to DEBUG_DIS. -/
  | extest (pins : List Bool) (load : List Bool)
  /-- IDCODE (R427). The IDCODE instruction selects the device identification register. -/
  | idcode
  /-- SAMPLE_PRELOAD (R427). The SAMPLE/PRELOAD instruction captures and loads boundary cells. -/
  | samplePreload (pins : List Bool) (load : List Bool)
  /-- HIGHZ (R427). The HIGHZ instruction floats outputs other than the AON balls. -/
  | highz
  /-- CLAMP (R427). The CLAMP instruction holds outputs from the boundary register with BYPASS selected. -/
  | clamp
  /-- DTMCS (R427). The DTMCS instruction selects the RISC-V debug transport control register. -/
  | dtmcs
  /-- DMI (R427). The DMI instruction accesses the RISC-V debug module interface. -/
  | dmi (op : BitVec 2) (addr : BitVec 7) (val : BitVec 32)
  /-- BYPASS (R427). The BYPASS instruction selects the one-bit bypass register. -/
  | bypass
  /-- HALT (R428). The debug module halts a core, which keeps answering snoops. -/
  | halt (core : Nat)
  /-- RESUME (R428). The debug module resumes a halted core. -/
  | resume (core : Nat)
  /-- ABSTRACT_COMMAND (R428). The debug module performs an abstract register access on a halted core. -/
  | abstractCommand (core : Nat) (regno : BitVec 16) (write : Bool) (val : BitVec 64)
  /-- SYSTEM_BUS_ACCESS (R428). The debug module accesses the fabric as master 0xD. -/
  | systemBusAccess (addr : BitVec 40) (write : Bool) (val : BitVec 32)
  /-- HARTRESET (R428). Debug hartreset resets one core. -/
  | hartreset (core : Nat)
  /-- NDMRESET (R415). Debug ndmreset causes a chip reset that spares the Debug domain. -/
  | ndmreset
  /-- TRIGGER (R428). An mcontrol trigger matches an execute, load or store address or data. -/
  | trigger (core : Nat) (kind : TrigKind) (addr : BitVec 64) (val : BitVec 64)
  /-- SUPPLY_COLLAPSE (R407). The 12 V bus collapses without a reserve, losing AON and leaving the journal as R407 gives. -/
  | supplyCollapse (stepDone : Bool)
  /-- PERST_N_RELEASE (R434). PERST_N rises, link training starts within 20 ms, configuration requests are answered from 100 ms, and a cleared boot window returns to HOST_WAIT. -/
  | perstNRelease
  /-- DL_UP (R442). The PCIe link finishes training and comes up, raising the condition of host-mode units and letting the host enumerate again. -/
  | dlUp
  /-- CONFIGURATION_REQUEST (R67). A PCIe configuration request is taken whole, for example setting NumVFs or VF Enable, which decides which VFs exist. -/
  | configurationRequest (fn : Nat) (off : Nat) (write : Bool) (val : BitVec 32)
  /-- PLCA_BEACON (R328). A PLCA follower that has fallen back to CSMA/CD hears a PLCA beacon and returns to PLCA, setting PLCA_STATUS to 1. -/
  | plcaBeacon (port : Nat)
  /-- LLC_SOFT_START (R378). When V_BULK reaches 360 V the KF-7110 starts the LLC soft-start from PER_MIN, regulating AUX_FB. -/
  | llcSoftStart (halfV : Nat)
  /-- BULK_OVP_RELEASE (R380). The bulk falls below 410 V and the PFC gate, held off above 425 V, switches again. -/
  | bulkOvpRelease (halfV : Nat)
  /-- TEST_LOGIC_RESET (R427). The TAP enters Test-Logic-Reset on TRST_N or TMS, and IDCODE becomes the selected instruction. -/
  | testLogicReset
deriving DecidableEq, Repr

end Sys2Proof
end

