-- ==== Sys2Proof/Decode.lean ====
section
/-! DEFINITION. Decode.lean: the command a table word spells (no row of spec/opcode_table.json has bits), and Churn's own 64-bit
instruction words (08 R185, R187) with their encoder. -/

namespace Sys2Proof

open Machine

/-- The command that a word of the opcode table spells: none, since no row of the table is given bits. -/
def decodeTableWord (nbits w : Nat) : Option Instr :=
  match nbits, w with
  | _, _ => none

/-! Fields of a Churn word (08 R185). -/
def cwOp (w : Nat) : Nat := w / 2 ^ 56 % 2 ^ 8
def cwPred (w : Nat) : Pred := { inv := w / 2 ^ 55 % 2 == 1, sel := BitVec.ofNat 3 (w / 2 ^ 52) }
def cwD (w : Nat) : BitVec 6 := BitVec.ofNat 6 (w / 2 ^ 46)
def cwA (w : Nat) : BitVec 6 := BitVec.ofNat 6 (w / 2 ^ 40)
def cwB (w : Nat) : BitVec 6 := BitVec.ofNat 6 (w / 2 ^ 34)
/-- X[lo + n - 1 : lo]. -/
def cwX (w lo n : Nat) : BitVec n := BitVec.ofNat n (w / 2 ^ lo)
/-- The accumulator in D[1:0], and the predicate in D[2:0]. -/
def cwAcc (w : Nat) : BitVec 2 := BitVec.ofNat 2 (w / 2 ^ 46)
def cwPd (w : Nat) : BitVec 3 := BitVec.ofNat 3 (w / 2 ^ 46)
/-- The low bits of A and B. -/
def cwA2 (w : Nat) : BitVec 2 := BitVec.ofNat 2 (w / 2 ^ 40)
def cwA3 (w : Nat) : BitVec 3 := BitVec.ofNat 3 (w / 2 ^ 40)
def cwB3 (w : Nat) : BitVec 3 := BitVec.ofNat 3 (w / 2 ^ 34)

/-- The instruction of a Churn word of PU `pu`, none for a reserved opcode; `e` is what the check of the Vat word it reads finds. -/
def decodeChurn (pu : BitVec 3) (w : Nat) (e : Ecc) : Option Instr :=
  let p := cwPred w
  let d := cwD w
  let a := cwA w
  let b := cwB w
  match cwOp w with
  | 0x00 => some (.churnNop pu p)
  | 0x01 => some (.inb pu p d (cwX w 0 8))
  | 0x02 => some (.outb pu p a (cwX w 0 8))
  | 0x03 => some (.pbr pu p d (cwX w 0 10))
  | 0x04 => some (.pbw pu p a (cwX w 0 10))
  | 0x05 => some (.ldc pu p d (cwX w 0 12))
  | 0x06 => some (.ldi pu p d (cwX w 0 32))
  | 0x07 => some (.mov pu p d a)
  | 0x08 => some (.unpkl pu p d a)
  | 0x09 => some (.unpkh pu p d a)
  | 0x0A => some (.pack pu p d a b)
  | 0x10 => some (.dwr pu p a (cwX w 0 6))
  | 0x11 => some (.drd pu p d (cwX w 0 6) (cwX w 6 21) e)
  | 0x12 => some (.drdx pu p d b (cwX w 0 6) (cwX w 6 21) e)
  | 0x14 => some (.vrd pu p d b (cwX w 0 3) (cwX w 3 21) e)
  | 0x18 => some (.lut pu p d a (cwX w 0 4))
  | 0x20 => some (.add pu p d a b)
  | 0x21 => some (.sub pu p d a b)
  | 0x22 => some (.neg pu p d a)
  | 0x23 => some (.abs pu p d a)
  | 0x24 => some (.min pu p d a b)
  | 0x25 => some (.max pu p d a b)
  | 0x26 => some (.mulr pu p d a b)
  | 0x27 => some (.ash pu p d a (cwX w 0 6))
  | 0x28 => some (.and pu p d a b)
  | 0x29 => some (.or pu p d a b)
  | 0x2A => some (.xor pu p d a b)
  | 0x2B => some (.sel pu p d a b (cwX w 0 3) (w / 2 ^ 3 % 2 == 1))
  | 0x2C => some (.cmp pu p (cwPd w) a b (cwX w 0 3))
  | 0x2E => some (.cmpi pu p (cwPd w) a (cwB3 w) (cwX w 0 32))
  | 0x2F => some (.plog pu p (cwPd w) (cwA3 w) (cwB3 w) (cwX w 0 2))
  | 0x30 => some (.mac pu p (cwAcc w) a b)
  | 0x31 => some (.msu pu p (cwAcc w) a b)
  | 0x32 => some (.macc pu p (cwAcc w) a (cwX w 0 12))
  | 0x33 => some (.mpy pu p (cwAcc w) a b)
  | 0x34 => some (.mpyc pu p (cwAcc w) a (cwX w 0 12))
  | 0x35 => some (.accst pu p d (cwA2 w) (w / 2 ^ 5 % 2 == 1) (cwX w 0 5))
  | 0x36 => some (.accld pu p (cwAcc w) a)
  | 0x37 => some (.accadd pu p (cwAcc w) (cwA2 w))
  | _ => none

/-- A Churn word from its fields (08 R185). -/
def churnWord (op : Nat) (p : Pred) (d a b x : Nat) : Nat :=
  op * 2 ^ 56 + b2n p.inv * 2 ^ 55 + p.sel.toNat * 2 ^ 52 + d * 2 ^ 46 + a * 2 ^ 40 + b * 2 ^ 34 + x

/-- The word of a Churn instruction, written from the tables of 08 R185 and R187; none for any other command. -/
def encodeChurn (i : Instr) : Option Nat :=
  match i with
  | .churnNop _ p => some (churnWord 0x00 p 0 0 0 0)
  | .inb _ p d ch => some (churnWord 0x01 p d.toNat 0 0 ch.toNat)
  | .outb _ p a ch => some (churnWord 0x02 p 0 a.toNat 0 ch.toNat)
  | .pbr _ p d r => some (churnWord 0x03 p d.toNat 0 0 r.toNat)
  | .pbw _ p a r => some (churnWord 0x04 p 0 a.toNat 0 r.toNat)
  | .ldc _ p d k => some (churnWord 0x05 p d.toNat 0 0 k.toNat)
  | .ldi _ p d v => some (churnWord 0x06 p d.toNat 0 0 v.toNat)
  | .mov _ p d a => some (churnWord 0x07 p d.toNat a.toNat 0 0)
  | .unpkl _ p d a => some (churnWord 0x08 p d.toNat a.toNat 0 0)
  | .unpkh _ p d a => some (churnWord 0x09 p d.toNat a.toNat 0 0)
  | .pack _ p d a b => some (churnWord 0x0A p d.toNat a.toNat b.toNat 0)
  | .dwr _ p a l => some (churnWord 0x10 p 0 a.toNat 0 l.toNat)
  | .drd _ p d l k _ => some (churnWord 0x11 p d.toNat 0 0 (l.toNat + k.toNat * 2 ^ 6))
  | .drdx _ p d b l k _ => some (churnWord 0x12 p d.toNat 0 b.toNat (l.toNat + k.toNat * 2 ^ 6))
  | .vrd _ p d b t k _ => some (churnWord 0x14 p d.toNat 0 b.toNat (t.toNat + k.toNat * 2 ^ 3))
  | .lut _ p d a t => some (churnWord 0x18 p d.toNat a.toNat 0 t.toNat)
  | .add _ p d a b => some (churnWord 0x20 p d.toNat a.toNat b.toNat 0)
  | .sub _ p d a b => some (churnWord 0x21 p d.toNat a.toNat b.toNat 0)
  | .neg _ p d a => some (churnWord 0x22 p d.toNat a.toNat 0 0)
  | .abs _ p d a => some (churnWord 0x23 p d.toNat a.toNat 0 0)
  | .min _ p d a b => some (churnWord 0x24 p d.toNat a.toNat b.toNat 0)
  | .max _ p d a b => some (churnWord 0x25 p d.toNat a.toNat b.toNat 0)
  | .mulr _ p d a b => some (churnWord 0x26 p d.toNat a.toNat b.toNat 0)
  | .ash _ p d a sh => some (churnWord 0x27 p d.toNat a.toNat 0 sh.toNat)
  | .and _ p d a b => some (churnWord 0x28 p d.toNat a.toNat b.toNat 0)
  | .or _ p d a b => some (churnWord 0x29 p d.toNat a.toNat b.toNat 0)
  | .xor _ p d a b => some (churnWord 0x2A p d.toNat a.toNat b.toNat 0)
  | .sel _ p d a b r v => some (churnWord 0x2B p d.toNat a.toNat b.toNat (r.toNat + b2n v * 2 ^ 3))
  | .cmp _ p q a b c => some (churnWord 0x2C p q.toNat a.toNat b.toNat c.toNat)
  | .cmpi _ p q a c v => some (churnWord 0x2E p q.toNat a.toNat c.toNat v.toNat)
  | .plog _ p q a b o => some (churnWord 0x2F p q.toNat a.toNat b.toNat o.toNat)
  | .mac _ p c a b => some (churnWord 0x30 p c.toNat a.toNat b.toNat 0)
  | .msu _ p c a b => some (churnWord 0x31 p c.toNat a.toNat b.toNat 0)
  | .macc _ p c a k => some (churnWord 0x32 p c.toNat a.toNat 0 k.toNat)
  | .mpy _ p c a b => some (churnWord 0x33 p c.toNat a.toNat b.toNat 0)
  | .mpyc _ p c a k => some (churnWord 0x34 p c.toNat a.toNat 0 k.toNat)
  | .accst _ p d c z sh => some (churnWord 0x35 p d.toNat c.toNat 0 (sh.toNat + b2n z * 2 ^ 5))
  | .accld _ p c a => some (churnWord 0x36 p c.toNat a.toNat 0 0)
  | .accadd _ p c r => some (churnWord 0x37 p c.toNat r.toNat 0 0)
  | _ => none

end Sys2Proof
end

