-- ==== Sys2Proof/Config.lean ====
section
/-! DEFINITION. Config.lean: what the spec leaves open. Each opaque constant has no body, so no proof can see a value of it;
a claim holds for every choice. -/

namespace Sys2Proof.Config

/-- A fresh free value for the n-th draw (assumption log 2). -/
opaque freeValue : Nat → BitVec 64

/-- Linear gain, Q5.27, of x hundredths of a decibel, before it is held to ±0.005 dB (07 R163: the error is bounded, the value is not stated; log
7). -/
opaque gainOfCdb : Rat → Int

/-- Whether a high-pass coefficient is rounded up: FC code, ORDER, its place (07 R161: the design is stated, its rounding is not; log 7). -/
opaque hpfUp : Nat → Nat → Nat → Bool

/-- A frame that a converter makes at another ratio than 1 (07 R155, R157: the filter is not stated; log 8): number of the draw, endpoint, place
between frames, frames at hand. -/
opaque resample : Nat → Nat → Nat → List Frame → Frame

/-- A converter's estimate of FACTOR after a tick of tracking (07 R156: a second-order loop, not stated further; log 8): number of the draw,
LOOP_BW, previous estimate, frames that arrived since the last tick with their lengths in cy. -/
opaque estimate : Nat → Nat → Nat → List (Nat × Nat) → Nat

/-- The bits on a data line over a frame that no PORT_FRAME brings (log 98): number of the draw, line. -/
opaque pinBits : Nat → Nat → Nat

/-- Frame at 48 kHz that the interpolator of a 16 kHz stream gives: third of the sample, frames in its window, newest first (13 R342; log 8). -/
opaque interpolate : Nat → List Frame → Frame

/-- Frame at 16 kHz that the decimator of a 16 kHz stream gives from the frames in its window, newest first (13 R341; log 8). -/
opaque decimate : List Frame → Frame

/-- The sample of the PDM decimator for an OSR code: the bits of the 21 samples of its window, newest last, its group delay being 10 samples (06
R126: the response is bounded, the filter is not stated; log 8). -/
opaque pdmDecimate : Nat → List Nat → Word

/-- What a PDM output channel drives over a sample, for an OSR code: the 17 limited samples of the interpolator's window, newest last, its
group delay being 8 samples (06 R127: the filter and the modulator's bits are not stated; log 8). -/
opaque pdmModulate : Nat → List Word → Word

/-- The 8 check bits that the SECDED Hamming code of a Vat word gives its 64 data bits (10 R253: the code is named, its matrix is not
stated; log 79). -/
opaque checkBits : BitVec 64 → BitVec 8

/-- The least phase, beyond one unit, that the APLL's loop takes out in a tick of a phase error of a size (03 R42, R47: the loop is not stated; log
92). -/
opaque loopPull : Nat → Nat

/-- Fused voltage in mV of an OPP (14 R363: a fuse; log 9). -/
opaque fusedMv : Nat → Nat

/-- SHA-256 of bytes (17 R420: FIPS 180-4; log 10). -/
opaque sha256 : List Byte → BitVec 256

/-- Whether an ECDSA P-256 signature verifies: public key, signature, message (17 R420: FIPS 186; log 10). -/
opaque ecdsaOk : List Byte → List Byte → List Byte → Bool

end Sys2Proof.Config
end

