-- ==== Sys2Proof/Machine/Flags.lean ====
section
/-! DEFINITION. Machine/Flags.lean: Churn's rounding and saturation (08 R184), comparison conditions (08 R189) and predicate
logic (08 R187, PLOG). -/

namespace Sys2Proof.Machine

/-- v / 2^n rounded to nearest, ties away from zero (08 R184). -/
def rndShr (v : Int) (n : Nat) : Int :=
  let m : Int := ((v.natAbs + 2 ^ n / 2) / 2 ^ n : Nat)
  if v < 0 then -m else m

/-- v / d rounded to nearest, ties away from zero. -/
def rndDiv (v : Int) (d : Nat) : Int :=
  let m : Int := ((2 * v.natAbs + d) / (2 * d) : Nat)
  if v < 0 then -m else m

/-- The 80-bit limits of an accumulator (08 R184). -/
def sat80 (v : Int) : Int := clampI (-(2 ^ 79)) (2 ^ 79 - 1) v

/-- The condition of CMP and CMPI (08 R189). -/
def condHolds (cond : Nat) (a b : Word) : Bool :=
  if cond = 0 then a == b
  else if cond = 1 then a != b
  else if cond = 2 then decide (a.toInt < b.toInt)
  else if cond = 3 then decide (a.toInt ≤ b.toInt)
  else if cond = 4 then decide (b.toInt < a.toInt)
  else if cond = 5 then decide (b.toInt ≤ a.toInt)
  else if cond = 6 then decide (a.toNat < b.toNat)
  else decide (b.toNat ≤ a.toNat)

/-- The logic of PLOG: AND, OR, XOR, AND NOT (08 R187). -/
def plogOf (op : Nat) (a b : Bool) : Bool :=
  if op = 0 then a && b else if op = 1 then a || b else if op = 2 then a != b else a && !b

end Sys2Proof.Machine
end

