-- ==== Sys2Proof/Machine/Decibel.lean ====
section
/-! DEFINITION. Machine/Decibel.lean: the arithmetic of levels and time constants of the fixed audio path (07 R161 to R168): powers and logarithms in
fixed point, exact to far below the unit that a rule names (log 7). -/

namespace Sys2Proof.Machine

/-! ### Powers and logarithms -/

/-- Terms of the exponential series: `n` terms from number `k` on, y and the present term in 2^-64. -/
def expTerms (y : Nat) : Nat → Nat → Nat → Nat
  | 0, _, _ => 0
  | n + 1, k, t => t + expTerms y n (k + 1) (t * y / (k + 1) / 2 ^ 64)

/-- 2^f in 2^-64, for f in 2^-64 below 1. -/
def exp2 (f : Nat) : Nat := expTerms (f * 12786308645202655659 / 2 ^ 64) 24 0 (2 ^ 64)

/-- 2^z in 2^-b, for z in 2^-64. -/
def pow2 (b : Nat) (z : Int) : Nat :=
  let k := z.fdiv (2 ^ 64) + b
  let v := exp2 (z.fmod (2 ^ 64)).toNat
  if 64 ≤ k then v * 2 ^ (k - 64).toNat else v / 2 ^ (64 - k).toNat

/-- 10^(x/2000) in 2^-b, for x hundredths of a decibel. -/
def ofCdb (b : Nat) (x : Rat) : Nat := pow2 b ((x.num * 2007982322406284081271).fdiv (x.den * 2 ^ 16))

/-- Fraction bits of a logarithm to base 2: the mantissa is in 2^-62, from 1 to below 2. -/
def log2Bits : Nat → Nat → Nat → Nat
  | 0, _, acc => acc
  | n + 1, x, acc =>
    let y := x * x / 2 ^ 62
    if 2 ^ 63 ≤ y then log2Bits n (y / 2) (2 * acc + 1) else log2Bits n y (2 * acc)

/-- log2 of m > 0, in 2^-48. -/
def log2Of (m : Nat) : Nat := Nat.log2 m * 2 ^ 48 + log2Bits 48 (m * 2 ^ 62 / 2 ^ Nat.log2 m) 0

/-- A rational cut down to a multiple of 2^-32. -/
def cut32 (x : Rat) : Rat := ((x * 2 ^ 32).floor : Int) / 2 ^ 32

/-- Level of a magnitude m > 0 in 2^-31, in hundredths of a decibel below full scale (07 R165). -/
def cdbOfMag (m : Nat) : Rat := cut32 ((((log2Of m : Int) - 31 * 2 ^ 48) * 661971961083812 : Int) / 2 ^ 88)

/-! ### Gains (07 R163) -/

/-- The linear gain of x hundredths of a decibel, Q5.27: any value within ±0.005 dB of 10^(x/2000), or the nearest there is (log 7). -/
def gainOfCdb (x : Rat) : Int :=
  let v := ofCdb 47 x
  let near := (v + 2 ^ 19) / 2 ^ 20
  let lo := ceilDiv (v * 999424519380) (10 ^ 12 * 2 ^ 20)
  let hi := v * 1000575811989 / (10 ^ 12 * 2 ^ 20)
  clampI (min lo near : Nat) (max hi near : Nat) (Config.gainOfCdb x)

/-! ### Time constants (07 R165, R166, R168) -/

/-- 1 − e^(−1/τ) in 2^-64. -/
def approach (t : Nat) : Nat := 2 ^ 64 - pow2 64 (-(26613026195688644983 / (t : Int)))

/-- One step of the exponential approach with a time constant in ticks: time constant, present value, target (07 R165). -/
def smooth (t : Nat) (g target : Rat) : Rat := cut32 (g + (approach t : Rat) / 2 ^ 64 * (target - g))

/-- The mean square after a sample, in 2^-78 of full scale squared: time constant, mean square, magnitude of the sample (07 R168). -/
def meanSquare (t ms m : Nat) : Nat := (ms * (2 ^ 64 - approach t) + m * m * 2 ^ 16 * approach t) / 2 ^ 64

/-- −10 log10 of a mean square, in hundredths of a decibel, saturating at 0xFFFF (07 R168). -/
def levelOf (ms : Nat) : Nat :=
  if ms = 0 then 0xFFFF else min 0xFFFF (((78 * 2 ^ 48 - log2Of ms) * 330985980541906 + 2 ^ 87) / 2 ^ 88)

/-- A magnitude with 32 fraction bits after a tick of decay by d hundredths of a decibel a second (07 R168). -/
def decay (d p : Nat) : Nat := p * ofCdb 64 (-(d : Rat) / 48000) / 2 ^ 64

/-- What is reported for a reduction g: −g in hundredths of a decibel, to the nearest (07 R168, R179). -/
def reduction (g : Rat) : Nat := (-g + 1 / 2).floor.toNat

/-! ### High-pass filters (07 R161) -/

/-- The coefficients b0, a1, a2 of a corner code and order, cut down to Q2.30: a first-order section, or a second-order Butterworth section, by the
bilinear transform pre-warped at the corner. -/
def hpfTable (fc order : Nat) : List Int :=
  if order = 1 then
    nth [] [[], [1073601289, -1073460756, 0], [1073390557, -1073039292, 0], [1073039521, -1072337219, 0], [1072338135, -1070934448, 0],
      [1070938108, -1068134393, 0], [1068148958, -1062556093, 0], [1065374222, -1057006621, 0], [1062613752, -1051485681, 0],
      [1059867399, -1045992976, 0]] fc
  else
    nth [] [[], [1073543071, -2147086106, 1073344355], [1073245010, -2146489792, 1072748427], [1072748427, -2145495937, 1071755950],
      [1071755950, -2143508229, 1069773749], [1069773749, -2139532836, 1065820340], [1065820339, -2131582238, 1057957296],
      [1061881538, -2123632067, 1050152262], [1057957290, -2115682528, 1042404809], [1054047539, -2107733822, 1034714512]] fc

/-- The coefficients that the device holds: each is the next value below or above the exact one (the rounding is not stated, log 7). -/
def hpfCoef (fc order : Nat) : List Int :=
  (List.range 3).map fun k => nth 0 (hpfTable fc order) k + (if order = 1 && k = 2 then 0 else if Config.hpfUp fc order k then 1 else 0)

end Sys2Proof.Machine
end

