-- ==== Sys2Proof/Machine/State.lean ====
section
/-! DEFINITION. Machine/State.lean: all state of the block as plain data, its value after reset, the reasons a step can
stop, and one setter per group of State. Each field's docstring names the rule of spec/ that gives it. -/

namespace Sys2Proof.Machine

/-- APLL_STATE (03 R49). -/
inductive ApllState where
  | stopped | free | acquire | locked | holdover
deriving DecidableEq, Repr

/-- STATE of an audio port (06 R132). -/
inductive PortState where
  | off | waitClk | settle | rampUp | run | rampDown
deriving DecidableEq, Repr

/-- STATE of a converter (07 R155). -/
inductive ConvState where
  | idle | acquire | track | sync | hold
deriving DecidableEq, Repr

/-- Power state of a Vat bank in fact (10 R256). -/
inductive BankPwr where
  | on | retention | off | poweringUp
deriving DecidableEq, Repr

/-- DOM_STATE of a domain (14 R351). -/
inductive DomState where
  | off | poweringUp | on | failed
deriving DecidableEq, Repr

/-- Whether a core runs (17 R435, R428). -/
inductive CoreRun where
  | inReset | running | halted
deriving DecidableEq, Repr

/-- Coherence state of a line in a data cache (11 R272). -/
inductive Mesi where
  | i | s | e | m
deriving DecidableEq, Repr

/-- What a bus access returns (01 R15, 10 R251, 11 R288). -/
inductive BusStatus where
  | ok | accessFault | unsupported | access | poisoned | wlost
deriving DecidableEq, Repr

/-- A 32-byte submission descriptor (R77). -/
structure Desc where
  /-- OPCODE (04 R77) -/
  opcode : BitVec 8 := 0
  /-- FLAGS: [0] SUPPRESS, [1] FENCE (04 R77) -/
  flags : BitVec 8 := 0
  /-- TAG (04 R77) -/
  tag : BitVec 16 := 0
  /-- ARG (04 R77) -/
  arg : BitVec 32 := 0
  /-- ADDR (04 R77) -/
  addr : BitVec 64 := 0
  /-- ARG2 (04 R77) -/
  arg2 : BitVec 64 := 0
  /-- ARG3 (04 R77) -/
  arg3 : BitVec 64 := 0
deriving DecidableEq, Repr

/-- What a completion entry says beside its echo fields (R79). -/
structure Outc where
  /-- STATUS (04 R81) -/
  status : BitVec 8 := 0
  /-- REASON (04 R81) -/
  reason : BitVec 16 := 0
  /-- RESULT (04 R79) -/
  result : BitVec 32 := 0
deriving DecidableEq, Repr

/-- One fetched descriptor whose completion is not yet written (R80, R86). -/
structure Req where
  /-- serial number of the fetch within its ring (04 R80) -/
  id : Nat := 0
  /-- the copied descriptor (04 R79) -/
  desc : Desc := {}
  /-- dispatched (it has passed R87 and no FENCE holds it) (04 R87) -/
  live : Bool := false
  /-- the unit it names has taken it (04 R86) -/
  taken : Bool := false
  /-- its outcome, waiting for the order of R80 (04 R80) -/
  ended : Option Outc := none
  /-- the unit's epoch at issue (17 R422) -/
  epoch : BitVec 4 := 0
  /-- fetched before an FLR: its completion is discarded (04 R96) -/
  drop : Bool := false
deriving DecidableEq, Repr

/-- One of the 128 rings (R74). -/
structure RingSt where
  /-- RNG_BASE (04 R99) -/
  base : BitVec 64 := 0
  /-- RNG_CFG[15:0] (04 R99) -/
  cfg : BitVec 16 := 0x10
  /-- the ring is enabled (04 R93) -/
  on : Bool := false
  /-- ENABLE has been written and takes effect at the next sweep (04 R93) -/
  want : Bool := false
  /-- RNG_STATUS.CFG_ERR (04 R99) -/
  cfgErr : Bool := false
  /-- RNG_STATUS.BUDGET_FAIL (04 R93) -/
  budgetFail : Bool := false
  /-- RNG_STATUS.RING_ERR (04 R99) -/
  err : Bool := false
  /-- RNG_STATUS.INDEX: fetch index, or the device's write index (04 R99) -/
  idx : Nat := 0
  /-- completion ring: the head last read (04 R86) -/
  head : Nat := 0
  /-- completion ring: the PHASE of the present pass (04 R79) -/
  phase : Bool := true
  /-- completion ring: slots reserved and not yet written (04 R80) -/
  resv : Nat := 0
  /-- fetched and not completed, oldest first (04 R80) -/
  reqs : List Req := []
  /-- tick of the FLR before which descriptors still to finish were fetched (04 R96) -/
  flrAt : Option (BitVec 64) := none
  /-- the model's own serial counter of fetches (log 30) (04 R80). Reset: DESIGN CHOICE, log 30 -/
  nextId : Nat := 0
deriving DecidableEq, Repr

/-- One buffer of a host-audio ring in its bank (10 R248). -/
structure AudioBuf where
  /-- the AUDIO_IN or AUDIO_OUT it belongs to (04 R88) -/
  id : Nat := 0
  /-- address of its first byte (10 R248). Reset: DESIGN CHOICE 0, log 95 -/
  addr : Nat := 0
  /-- channels of its frames (04 R88) -/
  ch : Nat := 0
  /-- frames played, or handed over (04 R88) -/
  n : Nat := 0
  /-- flip tick of a captured block (04 R89) -/
  tick : BitVec 64 := 0
  /-- blocks dropped immediately before it (04 R89) -/
  gap : Nat := 0
deriving DecidableEq, Repr

/-- The host-audio stream of one ring (R88, R89). -/
structure HostAudio where
  /-- offset of its reservation in the bank (10 R248). Reset: DESIGN CHOICE 0, log 95 -/
  base : Nat := 0
  /-- PLAY buffers staged, oldest first (04 R88) -/
  staged : List AudioBuf := []
  /-- zero or dropped blocks since the last good one (04 R88) -/
  gap : Nat := 0
  /-- the block taken, with the frames played (04 R88) -/
  playing : Option AudioBuf := none
  /-- the block being captured, with the frames handed over (04 R89) -/
  cap : Option AudioBuf := none
  /-- AUDIO_IN descriptors not yet filled, oldest first (04 R89) -/
  posted : List Nat := []
  /-- captured blocks whose DMA write has not ended (04 R89) -/
  written : List AudioBuf := []
deriving DecidableEq, Repr

/-- The function page of one function, less its rings (R99). -/
structure FnSt where
  /-- FN_CTRL.ENABLE (04 R99) -/
  enable : Bool := false
  /-- FN_CTRL.EVENT_RING (04 R99) -/
  eventRing : BitVec 3 := 0
  /-- FN_CTRL.EVENT_EN (04 R99) -/
  eventEn : Bool := false
  /-- FN_STATUS.DB_FAULT (04 R97) -/
  dbFault : Bool := false
  /-- FN_DB_HI and FN_DB_LO (04 R99) -/
  db : BitVec 64 := 0
  /-- event sequence number (04 R83) -/
  evtSeq : BitVec 16 := 0
  /-- lost-event count (04 R83) -/
  lost : Nat := 0
  /-- TOKEN and apply tick of the last 16 applied commits, newest first (04 R92) -/
  tokens : List (BitVec 64 × BitVec 64) := []
deriving DecidableEq, Repr

/-- One interrupt vector and its MSI-X table entry (R84). -/
structure VecSt where
  /-- entries written since the last message (04 R84) -/
  n : Nat := 0
  /-- tick of the first of them (04 R84) -/
  since : BitVec 64 := 0
  /-- PBA bit (04 R84) -/
  pba : Bool := false
  /-- MSI-X message address (19 R452). Reset: PRESUMED 0, log 4 -/
  addr : BitVec 64 := 0
  /-- MSI-X message data (19 R452). Reset: PRESUMED 0, log 4 -/
  data : BitVec 32 := 0
  /-- MSI-X vector control, bit 0 masks (19 R452). Reset: PRESUMED 1 (masked), log 4 -/
  ctl : BitVec 32 := 1
deriving DecidableEq, Repr

/-- One DMA window (R72, R99). -/
structure WinSt where
  /-- BASE (04 R99) -/
  base : BitVec 64 := 0
  /-- LIMIT (04 R99) -/
  limit : BitVec 64 := 0xFFF
  /-- FN_WIN_CFG.VALID (04 R99) -/
  valid : Bool := false
  /-- FN_WIN_CFG.READ (04 R99) -/
  read : Bool := false
  /-- FN_WIN_CFG.WRITE (04 R99) -/
  write : Bool := false
deriving DecidableEq, Repr

/-- An event posted and not yet written to an event ring (R83, R455). -/
structure Evt where
  /-- function whose event ring takes it (04 R83) -/
  fn : Nat := 0
  /-- event code (19 R457) -/
  code : BitVec 16 := 0
  /-- REASON (19 R457) -/
  reason : BitVec 16 := 0
deriving DecidableEq, Repr

/-- Functions, rings, vectors and windows. -/
structure HostSt where
  /-- functions 0 to 15 (04 R67) -/
  fns : Map FnSt := []
  /-- global rings 0 to 127 (04 R74) -/
  rings : Map RingSt := []
  /-- vector 16f + v (04 R84) -/
  vecs : Map VecSt := []
  /-- window 8f + w (04 R72) -/
  wins : Map WinSt := []
  /-- host-audio streams by global ring (04 R88) -/
  audio : Map HostAudio := []
  /-- function read first in the last sweep (04 R86). Reset: DESIGN CHOICE 0, log 3 -/
  sweepFirst : Nat := 0
  /-- t0 of R85 (04 R85) -/
  sweepT0 : BitVec 64 := 0
  /-- events of this tick, or held while the ring engine is off, not yet written to a ring (19 R455) -/
  posted : List Evt := []
deriving DecidableEq, Repr

/-- The PCIe endpoint (R67, R70, R95). -/
structure PcieSt where
  /-- data link up (04 R95) -/
  linkUp : Bool := false
  /-- PERST_N is low (17 R415). Reset: DESIGN CHOICE true, log 3 -/
  perst : Bool := true
  /-- link training has begun (17 R434) -/
  training : Bool := false
  /-- SR-IOV NumVFs (04 R67). Reset: PRESUMED 0, log 4 -/
  numVfs : BitVec 16 := 0
  /-- SR-IOV VF Enable (04 R96). Reset: PRESUMED 0, log 4 -/
  vfEnable : Bool := false
  /-- configuration dwords written, but for NumVFs and VF Enable, by function × 4096 + offset (04 R70). Reset: PRESUMED, log 4 -/
  cfg : Map (BitVec 32) := []
  /-- speed of the link: 1, 2 or 3 for 2.5, 5 or 8 GT/s; 0 while it is down (04 R70) -/
  speed : Nat := 0
  /-- lanes of the link: 1, 2 or 4; 0 while it is down (04 R70) -/
  width : Nat := 0
  /-- data of the last configuration read (04 R70). Reset: DESIGN CHOICE 0, log 3 -/
  reply : BitVec 32 := 0
deriving DecidableEq, Repr

/-- The tick grid (R21 to R25). -/
structure TimeSt where
  /-- TICK (02 R24) -/
  tick : BitVec 64 := 0
  /-- the first APLL lock since AON power-on has been made, so TICK runs (02 R24) -/
  started : Bool := false
  /-- CK_E is stopped or gated (02 R40). Reset: DEDUCED true (R64 gates CK_E until the first lock), log 5 -/
  ckeOff : Bool := true
  /-- SYS_TICK_HI latch (02 R40) -/
  tickHi : BitVec 32 := 0
  /-- SYS_TICK_SUB latch (02 R40) -/
  tickSub : BitVec 32 := 0
  /-- SYS_MTIME_HI latch (11 R293) -/
  mtimeHi : BitVec 32 := 0
  /-- the model's own: how far the housekeeping window of this tick has been taken by commands of its own: 0 none, 1 hand-over, 2 block flip, 3 meters, 4 apply, 5 power, 6 staging flip (log 6) (02 R21). Reset: DESIGN CHOICE, log 6 -/
  phase : Nat := 0
  /-- the model's own: counter of free values drawn (log 2) (91). Reset: DESIGN CHOICE, log 2 -/
  free : Nat := 0
  /-- the model's own: the slot of this tick, or the XO cycles since the last AON tick, that a reading has shown; a later one of the tick shows no less (log 86) (11 R275). Reset: DESIGN CHOICE, log 86 -/
  slotSeen : Nat := 0
deriving DecidableEq, Repr

/-- SYS_BUSERR_INFO and its address registers (R20). -/
structure BusErr where
  /-- MASTER (01 R20) -/
  master : BitVec 4 := 0
  /-- FUNC (01 R20) -/
  func : BitVec 4 := 0
  /-- WRITE (01 R20) -/
  write : Bool := false
  /-- KIND (01 R20) -/
  kind : BitVec 2 := 0
  /-- COUNT, saturating at 255 (01 R20) -/
  count : BitVec 8 := 0
  /-- VALID (01 R20) -/
  valid : Bool := false
  /-- ADDR_HI and ADDR_LO (01 R20) -/
  addr : BitVec 40 := 0
deriving DecidableEq, Repr

/-- What one access returns to its master (R15, R252, R254). -/
structure BusReply where
  /-- outcome (01 R15) -/
  status : BusStatus := .ok
  /-- read data, zeros when refused (01 R15) -/
  data : List Byte := []
deriving DecidableEq, Repr

/-- The fabric (R14 to R20). -/
structure BusSt where
  /-- capture registers (01 R20) -/
  err : BusErr := {}
  /-- replies to the accesses of the last BUS_ACCESS (01 R15). Reset: DESIGN CHOICE empty, log 3 -/
  replies : List BusReply := []
deriving DecidableEq, Repr

/-- One pending commit (R103, R107). -/
structure Commit where
  /-- function; none = device commit (05 R114) -/
  fn : Option Nat := none
  /-- submission ring of the COMMIT descriptor (04 R90) -/
  ring : Nat := 0
  /-- its request number in that ring (04 R90) -/
  id : Nat := 0
  /-- TOKEN (04 R92) -/
  token : BitVec 64 := 0
  /-- TARGET_TICK (02 R26) -/
  target : BitVec 64 := 0
  /-- NOT_AFTER (05 R103) -/
  notAfter : BitVec 64 := 0
  /-- pages of the blob store allocated to it: of its inline blobs, and of a held blob that was replaced while it pinned it (05 R105, R110) -/
  pages : List Nat := []
  /-- dispatched, its block and blobs not fetched yet (05 R107) -/
  fetching : Bool := false
  /-- ACCESS reason found while the block and blobs were fetched, kept until the check reports it (04 R92) -/
  fetchErr : Option Nat := none
  /-- the retention cells that took its tuples hold them (05 R109) -/
  cells : Bool := true
  /-- the fetched commit block (05 R103) -/
  raw : List Byte := []
  /-- ARG (05 R103) -/
  len : Nat := 0
  /-- setting ID and value (05 R103) -/
  tuples : List (Nat × BitVec 32) := []
  /-- inline blobs by BLOB_ID (05 R105) -/
  blobs : List (Nat × List Byte) := []
  /-- pages of each blob table entry; none where too few were free (05 R105) -/
  slots : List (Option (List Nat)) := []
  /-- tick in which the check completed (02 R26) -/
  checked : Option (BitVec 64) := none
  /-- to be checked again (R107) (05 R107) -/
  recheck : Bool := false
  /-- a device commit caused the re-check (SHED) (05 R109) -/
  devRecheck : Bool := false
  /-- A (02 R26) -/
  applyAt : BitVec 64 := 0
  /-- loading has started (05 R111) -/
  loading : Bool := false
  /-- tick from whose H4 on the contents are in shadow state (05 R111) -/
  loadedAt : Option (BitVec 64) := none
  /-- held BLOB_IDs pinned (05 R105) -/
  pins : List Nat := []
  /-- content of each blob-typed tuple, by setting ID (05 R106) -/
  resolved : List (Nat × List Byte) := []
  /-- pages that hold the content of each blob-typed tuple, by setting ID (05 R106) -/
  refs : List (Nat × List Nat) := []
  /-- Vat tables and tiles loaded, by setting ID (05 R113, 08 R207) -/
  done : List Nat := []
  /-- tick in which step 1 was taken (17 R424) -/
  quiesce : Option (BitVec 64) := none
  /-- domains powered up for it (14 R354) -/
  doms : List Nat := []
  /-- banks powered up for it (10 R256) -/
  banks : List Nat := []
  /-- profile and cause code of a profile device commit (14 R358) -/
  profile : Option (Nat × Nat) := none
deriving DecidableEq, Repr

/-- A COMMIT waiting on its token (R92). -/
structure TokWait where
  /-- function (04 R92) -/
  fn : Nat := 0
  /-- TOKEN (04 R92) -/
  token : BitVec 64 := 0
  /-- ring (04 R92) -/
  ring : Nat := 0
  /-- request (04 R92) -/
  id : Nat := 0
deriving DecidableEq, Repr

/-- A held blob (R105). -/
structure Held where
  /-- function (05 R105) -/
  fn : Nat := 0
  /-- BLOB_ID (05 R105) -/
  id : Nat := 0
  /-- content as it was fetched (05 R105) -/
  bytes : List Byte := []
  /-- its pages of the blob store (05 R105) -/
  pages : List Nat := []
deriving DecidableEq, Repr

/-- A BLOB_LOAD that has passed check 3 and fetched its blob (R110). -/
structure BlobLoad where
  /-- submission ring (05 R110) -/
  ring : Nat := 0
  /-- request (05 R110) -/
  id : Nat := 0
  /-- function (05 R110) -/
  fn : Nat := 0
  /-- BLOB_ID (05 R110) -/
  blob : Nat := 0
  /-- ARG (05 R110) -/
  len : Nat := 0
  /-- content as it was fetched (05 R110) -/
  bytes : List Byte := []
  /-- its pages of the blob store (05 R110) -/
  pages : List Nat := []
deriving DecidableEq, Repr

/-- The commit unit and its retention cells (R353). -/
structure CmtSt where
  /-- CMT_STORE_BASE (05 R120) -/
  storeBase : BitVec 40 := 0
  /-- CMT_STORE_SIZE.PAGES (05 R120) -/
  storePages : BitVec 24 := 0
  /-- pending commits, head first (05 R107) -/
  queue : List Commit := []
  /-- device commits waiting in the power controller (05 R114) -/
  waiting : List Commit := []
  /-- COMMITs waiting on a token (04 R92) -/
  tokWait : List TokWait := []
  /-- held blobs (05 R105) -/
  held : List Held := []
  /-- blobs fetched by BLOB_LOAD and not yet checked (05 R110) -/
  loads : List BlobLoad := []
  /-- a commit has applied since reset (02 R38) -/
  applied : Bool := false
  /-- active copies of the settings that differ from their defaults (05 R101) -/
  cfg : Map (BitVec 32) := []
  /-- content behind each active blob-typed setting (05 R101) -/
  blobs : Map (List Byte) := []
  /-- CFG_GENERATION (05 R121) -/
  gen : BitVec 32 := 0
  /-- CMT_LAST_A (05 R121). Reset: DESIGN CHOICE 0, log 3 -/
  lastA : BitVec 64 := 0
  /-- CMT_LAST_FUNC (05 R121). Reset: DESIGN CHOICE 0, log 3 -/
  lastFn : BitVec 8 := 0
deriving DecidableEq, Repr

/-- Epoch, quiesce and disagreement of one unit (R118, R422). -/
structure UnitSt where
  /-- epoch (17 R422) -/
  epoch : BitVec 4 := 0
  /-- tick of step 1 of a quiesce in progress (17 R423) -/
  offline : Option (BitVec 64) := none
  /-- ticks with intent up and condition down (05 R118) -/
  downT : Nat := 0
  /-- ticks with the condition up again (05 R118) -/
  upT : Nat := 0
  /-- a DIVERGE stands (05 R118) -/
  div : Bool := false
deriving DecidableEq, Repr

/-- A TEST in progress (R425). -/
structure TestRun where
  /-- KIND (17 R425) -/
  kind : Nat := 0
  /-- unit number (17 R425) -/
  inst : Nat := 0
  /-- submission ring (17 R425) -/
  ring : Nat := 0
  /-- request (17 R425) -/
  id : Nat := 0
  /-- result buffer (17 R425) -/
  addr : BitVec 64 := 0
  /-- parameters (17 R425) -/
  arg2 : BitVec 64 := 0
  /-- tick of dispatch (17 R426) -/
  start : BitVec 64 := 0
deriving DecidableEq, Repr

/-- One measured reference, codes 2 to 7 (R45, R59). -/
structure SrcSt where
  /-- measured offset (03 R45). Reset: DESIGN CHOICE 0, log 3 -/
  ppb : Int := 0
  /-- declared lost (03 R59). Reset: DEDUCED true (no edge seen), log 3 -/
  lost : Bool := true
  /-- consecutive blocks within ±450 ppm (03 R45) -/
  good : Nat := 0
  /-- qualified (03 R45) -/
  qual : Bool := false
  /-- consecutive blocks it has stayed qualified (03 R46) -/
  qualFor : Nat := 0
deriving DecidableEq, Repr

/-- Clocks (03). -/
structure ClkSt where
  /-- APLL_STATE (03 R49) -/
  state : ApllState := .stopped
  /-- active source (03 R46) -/
  src : Option Nat := none
  /-- offset in 1/48 ppb (03 R42) -/
  offset48 : Int := 0
  /-- offset held in HOLDOVER, in 1/48 ppb (03 R49). Reset: DESIGN CHOICE 0, log 3 -/
  held : Int := 0
  /-- steps 1 and 2 of R47: phase is not tracked (03 R47) -/
  slewing : Bool := false
  /-- build-out register: where slot 0 is to start after a rising edge of the source, in 1/48 ppb of a tick (2,343,750 to the cy) (03 R47). Reset: DESIGN CHOICE 0, log 3 -/
  buildOut : Int := 0
  /-- phase error about the build-out, in the same unit (03 R48). Reset: DESIGN CHOICE 0, log 3 -/
  phErr : Int := 0
  /-- consecutive ticks that met the lock test, up to 32 blocks (03 R48) -/
  lockFor : Nat := 0
  /-- ticks since a source was last held in LOCKED (saturating) (03 R46). Reset: DEDUCED "never", log 3 -/
  sinceLock : Nat := 100000
  /-- offset of each block of the last 256 ms in LOCKED, newest first (03 R49) -/
  hist : List Int := []
  /-- the secondary is active because the primary was not usable (03 R46) -/
  failedOver : Bool := false
  /-- sources 2 to 7 (03 R45) -/
  srcs : Map SrcSt := []
  /-- DISC is lost (03 R51) -/
  discLost : Bool := false
  /-- ticks since the last FREQ_TRIM commit with DISC active (03 R51) -/
  discCount : Nat := 0
  /-- XO_OK (03 R62) -/
  xoOk : Bool := false
  /-- SPLL, CPLL on CK_E / 40 (03 R62) -/
  pllOnCke : Bool := false
  /-- SPLL_LOCK (03 R64) -/
  splLock : Bool := false
  /-- CPLL_LOCK (03 R55) -/
  cpllLock : Bool := false
  /-- ON_BYPASS (03 R55) -/
  onBypass : Bool := true
  /-- MPLL_LOCK (03 R56) -/
  mpllLock : Bool := false
  /-- OPP driving the cores (03 R61) -/
  opp : Nat := 0
  /-- OPP the CPLL is locking to (03 R55) -/
  oppTarget : Option Nat := none
  /-- OPP applied while a transition runs (03 R60) -/
  oppNext : Option Nat := none
  /-- CLK_BOOT_CFG (03 R66) -/
  bootCfg : BitVec 32 := 0
  /-- cy of a period of the WCLK_OUT pin, high in its first half from slot 0 on; 0 = low (03 R54) -/
  wclk : Nat := 0
  /-- cy of a period of the MCLK_OUT pin, the same (03 R54) -/
  mclk : Nat := 0
deriving DecidableEq, Repr

/-- One PDM or TDM port (06). -/
structure PortSt where
  /-- STATE (06 R132) -/
  st : PortState := .off
  /-- mute gain g (06 R132) -/
  g : Nat := 0
  /-- tick SETTLE was entered (06 R137). Reset: DESIGN CHOICE 0, log 3 -/
  since : BitVec 64 := 0
  /-- consecutive valid periods counted (06 R138) -/
  periods : Nat := 0
  /-- length in cy of the periods of the window (06 R125) -/
  sum : Nat := 0
  /-- lengths of the last 256 clock periods, newest first (06 R125, R147) -/
  window : List Nat := []
  /-- consecutive good frames counted (06 R138) -/
  frames : Nat := 0
  /-- CLK_PRESENT (06 R150) -/
  clk : Bool := false
  /-- LAST_PERIOD (06 R150) -/
  lastPeriod : BitVec 12 := 0
  /-- PERIOD (06 R150) -/
  periodBad : Bool := false
  /-- consecutive framing errors (06 R141) -/
  errRun : Nat := 0
  /-- frames exchanged in this tick (06 R124, R130) -/
  sent : Nat := 0
  /-- period in cy of the clock that the port drives as master; 0 = none (06 R124, R130) -/
  div : Nat := 0
  /-- last whole frame received (06 R142). Reset: DESIGN CHOICE empty, log 3 -/
  rxLast : Frame := []
  /-- last whole frame sent (06 R144). Reset: DESIGN CHOICE empty, log 3 -/
  txLast : Frame := []
  /-- frames between pins and ASRC, at most 2 (06 R144) -/
  rxFifo : List Frame := []
  /-- frames between ASRC and pins, at most 2 (06 R144) -/
  txFifo : List Frame := []
  /-- bits of each channel over the samples inside the window of the PDM decimator, newest last (06 R126) -/
  bitWin : List (List Nat) := []
  /-- samples inside the window of the PDM interpolator, newest last, zeros before the first (06 R127) -/
  pdmWin : List Frame := []
  /-- words last driven on the data outputs while not OFF, none = high impedance; State.portPins gives those of OFF (06 R128, R129, R140). Reset: DESIGN CHOICE empty, log 3 -/
  pins : List (Option Word) := []
  /-- DOUT of the frame being sent, a level for each BCLK from the frame marker on, none = high impedance (06 R128, R129). Reset: DESIGN CHOICE empty, log 3 -/
  wire : List (Option Bool) := []
  /-- last bit of each channel and how many equal ones end with it (06 R145) -/
  runs : List (Bool × Nat) := []
  /-- channels whose PDM_STUCK is still to be posted (06 R145) -/
  stuckDue : List Nat := []
  /-- channels reported stuck (06 R145) -/
  stuck : List Nat := []
  /-- CLK_HZ (06 R147) -/
  hz : BitVec 32 := 0
  /-- FRAME_HZ (06 R149). Reset: DESIGN CHOICE 0, log 3 -/
  frameHz : BitVec 32 := 0
deriving DecidableEq, Repr

/-- One sample-rate converter (R155 to R159). -/
structure ConvSt where
  /-- STATE (07 R155) -/
  st : ConvState := .idle
  /-- FACTOR, Q8.24 (07 R155). Reset: DESIGN CHOICE 0, log 3 -/
  factor : BitVec 32 := 0
  /-- port-rate frames, oldest first, on the side of the port (07 R157) -/
  fifo : List Frame := []
  /-- fraction of a frame already drawn (input) or made (output), in 1/6 of 2^-24 (07 R155, R157). Reset: DESIGN CHOICE 0, log 3 -/
  pos : Nat := 0
  /-- the fill has reached its target since the start (07 R157) -/
  primed : Bool := false
  /-- ticks since a port frame came (input) or went (output) (07 R157) -/
  ago : Option Nat := none
  /-- frames that came since the last tick, with their length in cy; for a stream sender's and local tick of a block (07 R156, 13 R342) -/
  arr : List (Nat × Nat) := []
  /-- estimate at the last H1 of the last three blocks, newest first (07 R156) -/
  marks : List Nat := []
  /-- tick tracking started (07 R156). Reset: DESIGN CHOICE 0, log 3 -/
  since : BitVec 64 := 0
  /-- last whole frame delivered (07 R158). Reset: DESIGN CHOICE empty, log 3 -/
  last : Frame := []
deriving DecidableEq, Repr

/-- State of one high-pass filter (R161). -/
structure HpfSt where
  /-- x[n-1] (07 R162) -/
  x1 : BitVec 32 := 0
  /-- x[n-2] (07 R162) -/
  x2 : BitVec 32 := 0
  /-- y[n-1] (07 R162) -/
  y1 : BitVec 32 := 0
  /-- y[n-2] (07 R162) -/
  y2 : BitVec 32 := 0
deriving DecidableEq, Repr

/-- One GAIN channel (R163). -/
structure GainSt where
  /-- gain at the start, 0.01 dB (mute is -14,400 dB-hundredths while ramping) (07 R163) -/
  g0 : Rat := 0
  /-- TARGET being moved to (07 R163) -/
  goal : Int := 0
  /-- ramp ticks done (07 R163) -/
  k : Nat := 0
  /-- RAMP_T of the ramp in progress; 0 = none (07 R163) -/
  n : Nat := 0
  /-- a zero-crossing step is pending (07 R163) -/
  zc : Bool := false
  /-- A of the pending step (07 R163). Reset: DESIGN CHOICE 0, log 3 -/
  start : BitVec 64 := 0
  /-- the test sample of the previous tick (07 R163). Reset: DESIGN CHOICE 0, log 3 -/
  prev : BitVec 32 := 0
  /-- a crossing has been seen since A (LINK) (07 R163) -/
  crossed : Bool := false
deriving DecidableEq, Repr

/-- One DRC unit number (R165). -/
structure DrcSt where
  /-- smoothed reduction in dB (07 R167) -/
  g : Rat := 0
  /-- samples of the look-ahead, newest first (07 R165) -/
  delay : List Frame := []
deriving DecidableEq, Repr

/-- One meter (R168). -/
structure MeterSt where
  /-- PEAK (07 R174) -/
  peak : BitVec 32 := 0
  /-- fraction of PEAK while it decays, in 2^-32 (07 R168) -/
  low : Nat := 0
  /-- running mean square, in 2^-78 of full scale squared (07 R168). Reset: DEDUCED 0 from LEVEL 0xFFFF, log 3 -/
  ms : Nat := 0
  /-- LEVEL (07 R174) -/
  level : BitVec 16 := 0xFFFF
  /-- CLIP (07 R174) -/
  clip : Bool := false
  /-- PEAK is within its hold time (07 R174) -/
  hold : Bool := false
  /-- last tick of the hold (07 R168). Reset: DESIGN CHOICE 0, log 3 -/
  holdEnd : BitVec 64 := 0
deriving DecidableEq, Repr

/-- Fixed audio path (07). -/
structure AudioSt where
  /-- converters by endpoint (07 R155) -/
  conv : Map ConvSt := []
  /-- filters by 64e + c (07 R161) -/
  hpf : Map HpfSt := []
  /-- gains by 64e + c (07 R163) -/
  gain : Map GainSt := []
  /-- DRC unit numbers (07 R165) -/
  drc : Map DrcSt := []
  /-- meters 0 to 543 (07 R168) -/
  meters : Map MeterSt := []
  /-- tick of the last H3 latch (07 R169). Reset: DESIGN CHOICE 0, log 3 -/
  meterTick : BitVec 64 := 0
  /-- input bus frame Churn reads in this tick (08 R198) -/
  inBus : Map Word := []
  /-- input bus frame loaded in H1 for the next tick (02 R21) -/
  nextIn : Map Word := []
  /-- output frame latched in H0, after H1 as shaped by DRC and ramps (02 R21) -/
  outLatch : Map Word := []
  /-- frame handed in H1 to each output endpoint (07 R154) -/
  endOut : Map Frame := []
deriving DecidableEq, Repr

/-- A Churn result not yet visible (R188). -/
structure Flight where
  /-- slot from which it is visible (08 R188) -/
  due : Nat := 0
  /-- the destination is a predicate (08 R188) -/
  toPred : Bool := false
  /-- register number (08 R188) -/
  dst : Nat := 0
  /-- value (08 R188) -/
  val : Word := 0
deriving DecidableEq, Repr

/-- One accumulator with its recent writes (R183, R188). -/
structure AccSt where
  /-- value after every write issued (08 R183) -/
  cur : BitVec 80 := 0
  /-- value after the writes issued at least 3 slots ago (08 R188) -/
  old : BitVec 80 := 0
  /-- issue slot and value of younger writes, oldest first (08 R188) -/
  recent : List (Nat × BitVec 80) := []
deriving DecidableEq, Repr

/-- Geometry of a delay line or Vat table (R190, R194). -/
structure Geom where
  /-- BANK (08 R190) -/
  bank : Nat := 0
  /-- OFFSET (08 R190) -/
  offset : Nat := 0
  /-- LEN (08 R190) -/
  len : Nat := 0
deriving DecidableEq, Repr

/-- A lookup table declaration (R197). -/
structure LutTab where
  /-- BASE (08 R197) -/
  base : Nat := 0
  /-- LOG2N (08 R197) -/
  log2n : Nat := 0
  /-- SIGNED (08 R197) -/
  signed : Bool := false
  /-- INTERP (08 R197) -/
  interp : Bool := false
deriving DecidableEq, Repr

/-- A Separator tap (R200). -/
structure Tap where
  /-- DIR (08 R200) -/
  dir : Nat := 0
  /-- MODEL (08 R200) -/
  model : Nat := 0
  /-- STEP (08 R200) -/
  step : Nat := 0
  /-- ROW (08 R200) -/
  row : Nat := 0
  /-- ELEM_FIRST (08 R200) -/
  first : Nat := 0
  /-- COUNT (08 R200) -/
  count : Nat := 0
  /-- PB_FIRST (08 R200) -/
  pb : Nat := 0
  /-- TICK_OFFSET (08 R200) -/
  off : Nat := 0
deriving DecidableEq, Repr

/-- State of a delay line (R191). -/
structure LineSt where
  /-- WP (08 R191) -/
  wp : Nat := 0
  /-- FILL (08 R191) -/
  fill : Nat := 0
  /-- a DWR of the line has executed in this tick (08 R191) -/
  wrote : Bool := false
deriving DecidableEq, Repr

/-- A glider in use (R196). -/
structure Glide where
  /-- MODE: 1 LINEAR, 2 EXP (08 R196) -/
  mode : Nat := 0
  /-- PARAM (08 R196) -/
  param : Nat := 0
  /-- start value (08 R196) -/
  v0 : Word := 0
  /-- value of the present tick (08 R196) -/
  v : Word := 0
  /-- ticks done (08 R196) -/
  j : Nat := 0
  /-- not yet at its target (08 R212) -/
  moving : Bool := false
deriving DecidableEq, Repr

/-- One Churn program unit (R183). -/
structure PuSt where
  /-- D0 to D63 (08 R183) -/
  d : Map Word := []
  /-- A0 to A3 (08 R183) -/
  acc : Map AccSt := []
  /-- P1 to P7 in bits 1 to 7 (bit 0 unused: P0 reads 1) (08 R183) -/
  p : BitVec 8 := 0
  /-- next program slot of this tick (08 R182) -/
  slot : Nat := 0
  /-- results not yet visible, oldest first (08 R188) -/
  flight : List Flight := []
  /-- active program store; unlisted words are 0 = NOP (08 R182) -/
  prog : Map (BitVec 64) := []
  /-- active coefficient memory C[k] (08 R195) -/
  coef : Map Word := []
  /-- gliders by coefficient index (08 R196) -/
  glides : Map Glide := []
  /-- lookup-table memory (08 R197) -/
  lut : Map Word := []
  /-- declared delay lines (08 R190) -/
  lines : List Geom := []
  /-- declared lookup tables (08 R197) -/
  tables : List LutTab := []
  /-- declared Vat tables (08 R194) -/
  vtabs : List Geom := []
  /-- declared taps (08 R200) -/
  taps : List Tap := []
  /-- HOP of the header (08 R201) -/
  hop : Nat := 0
  /-- WP and FILL (08 R191) -/
  lineSt : Map LineSt := []
  /-- corrected words awaiting H7 (true = program) (08 R209) -/
  fixes : List (Bool × Nat) := []
  /-- CHURN_ECC posted in this tick (08 R209) -/
  eccPosted : Bool := false
  /-- its stores hold the applied program, coefficients and table (08 R211) -/
  loaded : Bool := true
deriving DecidableEq, Repr

/-- Churn (08). -/
structure ChurnSt where
  /-- PU0 to PU7 (08 R183) -/
  pus : Map PuSt := []
  /-- output bus registers (08 R198) -/
  outBus : Map Word := []
  /-- patch registers, read bank (08 R199) -/
  patchR : Map Word := []
  /-- patch registers written in this tick (08 R199) -/
  patchW : Map (Option Word) := []
deriving DecidableEq, Repr

/-- A layer of a model (R225). -/
structure Layer where
  /-- TILE (09 R225) -/
  tile : Nat := 0
  /-- FLAGS (09 R225) -/
  flags : BitVec 8 := 0
  /-- IN_W (09 R225) -/
  inW : Nat := 0
  /-- STATE_W (09 R225) -/
  stW : Nat := 0
  /-- STATE_FIRST (09 R225) -/
  stFirst : Nat := 0
  /-- OUT_W (09 R225) -/
  outW : Nat := 0
  /-- W_OFFSET (09 R225) -/
  wOff : Nat := 0
  /-- B_OFFSET (09 R225) -/
  bOff : Nat := 0
  /-- SH_D (09 R225) -/
  shD : Nat := 0
  /-- SH_G (09 R225) -/
  shG : Nat := 0
  /-- SH_H (09 R225) -/
  shH : Nat := 0
  /-- SH_O (09 R225) -/
  shO : Nat := 0
deriving DecidableEq, Repr

/-- A STEP_MASK entry (R225). -/
structure MaskEnt where
  /-- MASK_PB (09 R225) -/
  pb : Nat := 0
  /-- MASK_EN (09 R225) -/
  en : Bool := false
  /-- MASK_TICK (09 R225) -/
  tick : Nat := 0
deriving DecidableEq, Repr

/-- A model descriptor (R225). -/
structure ModelDesc where
  /-- CHURN_STEPS (09 R225) -/
  churnSteps : Nat := 0
  /-- HOST_STEPS (09 R225) -/
  hostSteps : Nat := 0
  /-- HOST_FUNC (09 R225) -/
  hostFn : Nat := 255
  /-- STAGE_BANK (09 R225) -/
  bank : Nat := 0
  /-- STAGE_PAGE (09 R225) -/
  page : Nat := 0
  /-- HOLD_VALUE (09 R225) -/
  hold : BitVec 16 := 0
  /-- HOP (09 R225) -/
  hop : Nat := 48
  /-- HOST_ROWS (09 R225) -/
  rows : BitVec 64 := 0
  /-- STEP_MASK (09 R225) -/
  masks : List MaskEnt := []
  /-- LAYER (09 R225) -/
  layers : List Layer := []
deriving DecidableEq, Repr

/-- One step of a hop of a model (R219, R220). -/
structure StepRec where
  /-- RESET mask (09 R219) -/
  reset : BitVec 64 := 0
  /-- ACTIVE mask (09 R219) -/
  active : BitVec 64 := 0
  /-- a SEP_STEP has taken this host step (09 R220) -/
  used : Bool := false
  /-- ring and request of the SEP_STEP that feeds it (09 R231) -/
  fed : Option (Nat × Nat) := none
  /-- its data are in the staging buffer (09 R231) -/
  copied : Bool := false
  /-- TAG of that descriptor (09 R232) -/
  tag : BitVec 16 := 0
  /-- inputs staged for it: row, first element, elements (09 R220) -/
  cov : List (Nat × Nat × Nat) := []
deriving DecidableEq, Repr

/-- The hop that a change of model finds ending (R235, R237): what its flip still publishes. -/
structure OldHop where
  /-- the descriptor that ran (09 R237) -/
  desc : ModelDesc := {}
  /-- its steps (09 R237) -/
  cur : List StepRec := []
  /-- all its beats were made (09 R237) -/
  ran : Bool := false
deriving DecidableEq, Repr

/-- A SEP_RESULT being written (R232). -/
structure ResFill where
  /-- ring (09 R232) -/
  ring : Nat := 0
  /-- request (09 R232) -/
  id : Nat := 0
  /-- publishing flip tick (09 R232) -/
  tick : BitVec 64 := 0
  /-- buffer contents (09 R232) -/
  data : List Byte := []
  /-- buffer address (09 R232) -/
  addr : BitVec 64 := 0
deriving DecidableEq, Repr

/-- One Separator model (09). -/
structure ModelSt where
  /-- the applied descriptor (09 R225) -/
  desc : Option ModelDesc := none
  /-- STATE: 0 down, 1 first hop, 2 running, 3 skipping (09 R242) -/
  phase : Nat := 0
  /-- steps the array runs in this hop (09 R220) -/
  cur : List StepRec := []
  /-- steps being staged for the next hop (09 R220) -/
  nxt : List StepRec := []
  /-- beats of its span made in this hop (09 R223) -/
  beat : Nat := 0
  /-- vectors between layers: key (layer × 64 + row) (09 R223) -/
  pipe : Map (List Int) := []
  /-- SEP_RESULTs posted: ring, request, address (09 R232) -/
  posted : List (Nat × Nat × BitVec 64) := []
  /-- SEP_RESULT writes in progress (09 R232) -/
  filling : List ResFill := []
  /-- SEP_STEPs waiting for a hop with a free slot (09 R231) -/
  queued : List (Nat × Nat) := []
  /-- SEP_ECC posted in this hop (09 R238) -/
  eccPosted : Bool := false
  /-- a beat of this hop was not made: the hop publishes nothing (09 R236) -/
  miss : Bool := false
  /-- the hop of the model changed or removed, until the flip that ends it (09 R237) -/
  old : Option OldHop := none
deriving DecidableEq, Repr

/-- One Separator tile (R214). -/
structure TileSt where
  /-- state accumulators, row × 512 + channel (09 R241) -/
  acc : Map (BitVec 48) := []
  /-- bias memory (09 R214) -/
  bias : Map Word := []
  /-- the group runs no steps in this hop (R113) (05 R113) -/
  skip : Bool := false
  /-- beats of this hop that have passed on the tile group, of which this is the lowest tile (09 R223) -/
  beats : Nat := 0
deriving DecidableEq, Repr

/-- The Separator (09). -/
structure SepSt where
  /-- models 0 to 15 (09 R214) -/
  models : Map ModelSt := []
  /-- tiles 0 to 7 (09 R214) -/
  tiles : Map TileSt := []
  /-- which staging buffer is being filled (09 R222). Reset: DESIGN CHOICE, log 3 -/
  buf : Bool := false
  /-- first tick of the present hop (02 R22) -/
  hopStart : BitVec 64 := 0
deriving DecidableEq, Repr

/-- One Vat bank (10). -/
structure BankSt where
  /-- power state in fact (10 R265) -/
  pwr : BankPwr := .on
  /-- the power-up in progress ends in Retention (10 R256) -/
  toRet : Bool := false
  /-- the power-up in progress clears the bank (10 R256) -/
  fromOff : Bool := false
  /-- contents undefined after R446: the next On clears fully (18 R446) -/
  undef : Bool := false
  /-- LAST_UNCORR (10 R265) -/
  lastUncorr : BitVec 32 := 0xFFFFFFFF
  /-- block in which VAT_WLOST was last posted (10 R252) -/
  wlostBlk : Option (BitVec 64) := none
  /-- tick in which VAT_ECC was last posted (10 R254) -/
  eccTick : Option (BitVec 64) := none
  /-- corrected words awaiting write-back (10 R254) -/
  scrub : List (Nat × BitVec 64) := []
deriving DecidableEq, Repr

/-- The march engine (R258 to R262). -/
structure MarchSt where
  /-- BUSY (10 R267) -/
  busy : Bool := false
  /-- BANK (10 R267) -/
  bank : Nat := 0
  /-- preserving mode (10 R267) -/
  pres : Bool := false
  /-- element under way of a destructive test, 0 to 10 for E1 to E11, 11 = the clearing pass (10 R258) -/
  elem : Nat := 0
  /-- WORD (10 R267) -/
  word : Nat := 0
  /-- a preserving test has taken its first word (10 R259) -/
  begun : Bool := false
  /-- the last word has been tested, and a destructive test has cleared it (10 R261) -/
  ended : Bool := false
  /-- locked word and lock register (10 R259) -/
  lock : Option (Nat × BitVec 64) := none
  /-- failing words, ascending, each once (10 R258) -/
  fails : List Nat := []
  /-- submission ring of the TEST (10 R261) -/
  ring : Nat := 0
  /-- request (10 R261) -/
  id : Nat := 0
  /-- result buffer (10 R261) -/
  addr : BitVec 64 := 0
deriving DecidableEq, Repr

/-- The Vats (10); their words lie in mem. -/
structure VatSt where
  /-- banks 0 to 63 (10 R244) -/
  banks : Map BankSt := []
  /-- repair entries 4b + k (10 R263) -/
  repair : Map (BitVec 16) := []
  /-- cells of a word (its 8 check bits above its 64 data bits) that no longer hold the codeword last written, by key / 8 of its bytes in mem (10 R253) -/
  cells : Map (BitVec 72) := []
  /-- MASTER code with top priority at port B of a bank (10 R249). Reset: DESIGN CHOICE 0, log 3 -/
  top : Map Nat := []
  /-- march engine (10 R258) -/
  march : MarchSt := {}
deriving DecidableEq, Repr

/-- A writeback buffer entry (R273). -/
structure WbEnt where
  /-- line address (11 R273) -/
  line : Nat := 0
  /-- data (11 R273) -/
  data : BitVec 512 := 0
  /-- its token is marked as absorbed (11 R283) -/
  absorbed : Bool := false
deriving DecidableEq, Repr

/-- A trigger of type mcontrol (R428). -/
structure Trig where
  /-- tdata1: bit 2 execute, 1 store, 0 load, 3 U, 4 S, 6 M, 15 to 12 action, 19 match data, 20 hit (log 4) (17 R428). Reset: PRESUMED 0, log 4 -/
  ctl : BitVec 64 := 0
  /-- tdata2, the match value (17 R428). Reset: PRESUMED 0, log 4 -/
  val : BitVec 64 := 0
deriving DecidableEq, Repr

/-- One control core as the chip around it sees it (11). -/
structure CoreSt where
  /-- held in reset, running or halted (17 R435) -/
  run : CoreRun := .inReset
  /-- program counter (11 R290) -/
  pc : BitVec 64 := 0
  /-- privilege mode, 3 = M (11 R290) -/
  mode : BitVec 2 := 3
  /-- registers by abstract register number (17 R428). Reset: DESIGN CHOICE 0, log 3 -/
  regs : Map (BitVec 64) := []
  /-- mkfctl.PF_EN (11 R292) -/
  pfEn : Bool := true
  /-- mkfctl.TICK_SU (11 R292) -/
  tickSu : Bool := false
  /-- mkfctl.PARK (11 R292) -/
  park : Bool := false
  /-- mkferr.L1D_CORR (11 R292) -/
  l1dCorr : BitVec 16 := 0
  /-- mkferr.L1I_ERR (11 R292) -/
  l1iErr : BitVec 16 := 0
  /-- mkferr.L1D_UNCORR (11 R292) -/
  l1dUncorr : BitVec 16 := 0
  /-- value of the last ktick read (11 R292). Reset: DESIGN CHOICE 0, log 3 -/
  ktick : BitVec 64 := 0
  /-- kslot (11 R292). Reset: DESIGN CHOICE 0, log 3 -/
  kslot : BitVec 64 := 0
  /-- cause of the exception last raised by an access of this chapter (11 R292) -/
  trap : Option (BitVec 64) := none
  /-- LR reservation (line) (11 R285) -/
  resv : Option Nat := none
  /-- writeback buffer entries in use, 0 to 3 (11 R273) -/
  wb : Map WbEnt := []
  /-- mhpmevent3 to 6 (11 R293). Reset: DESIGN CHOICE 0, log 3 -/
  hpmEvt : Map (BitVec 64) := []
  /-- mhpmcounter3 to 6 (11 R293). Reset: DESIGN CHOICE 0, log 3 -/
  hpm : Map (BitVec 64) := []
  /-- triggers 0 to 3 (17 R428) -/
  trigs : Map Trig := []
deriving DecidableEq, Repr

/-- Coherence state of one line (R271, R272). -/
structure LineC where
  /-- state in each core's data cache (11 R272) -/
  l1 : Map Mesi := []
  /-- data in each core's data cache (11 R272) -/
  l1d : Map (BitVec 512) := []
  /-- presence in each instruction cache (11 R271) -/
  ic : BitVec 4 := 0
  /-- present in L2 (11 R271) -/
  inL2 : Bool := false
  /-- dirty in L2 (11 R272) -/
  dirty : Bool := false
  /-- poisoned (11 R288) -/
  poison : Bool := false
  /-- data in L2 (11 R272) -/
  l2d : BitVec 512 := 0
  /-- replay queue: requester, offset, bytes of its store (11 R284) -/
  losers : List Rival := []
deriving DecidableEq, Repr

/-- The interrupt controller (R276). -/
structure PlicSt where
  /-- source priorities (11 R276). Reset: PRESUMED 0 (the PLIC specification), log 4 -/
  prio : Map (BitVec 3) := []
  /-- enables, context × 1024 + source (11 R276). Reset: PRESUMED 0, log 4 -/
  en : Map Bool := []
  /-- context thresholds (11 R276). Reset: PRESUMED 0, log 4 -/
  thr : Map (BitVec 3) := []
  /-- pending sources (11 R276). Reset: PRESUMED 0, log 4 -/
  pend : Map Bool := []
  /-- sources claimed and not completed (11 R276). Reset: PRESUMED 0, log 4 -/
  claimed : Map Bool := []
  /-- value of the last claim read (11 R276). Reset: DESIGN CHOICE 0, log 3 -/
  reply : BitVec 32 := 0
deriving DecidableEq, Repr

/-- The control complex (11). -/
structure CcSt where
  /-- cores 0 to 3 (11 R268) -/
  cores : Map CoreSt := []
  /-- lines by line address (11 R272) -/
  lines : Map LineC := []
  /-- requester with top priority at each slice (11 R284). Reset: DESIGN CHOICE 0, log 3 -/
  top : Map Nat := []
  /-- PLIC (11 R276) -/
  plic : PlicSt := {}
  /-- SYS_MTIMECMP of each core (all ones) (11 R293) -/
  mtimecmp : Map (BitVec 64) := []
  /-- SYS_MSIP (11 R293) -/
  msip : Map Bool := []
  /-- MTIP (11 R275) -/
  mtip : Map Bool := []
  /-- SYS_CORE_RUN[3:0] (17 R436) -/
  coreRun : BitVec 4 := 0
  /-- SYS_CORE_ENTRY (17 R436) -/
  entry : BitVec 40 := 0
  /-- SYS_MEM_CFG (11 R293) -/
  memCfg : BitVec 32 := 0
  /-- SYS_MEM_STATUS.READY (11 R293) -/
  ready : Bool := false
  /-- TRAIN_FAIL (11 R293) -/
  trainFail : Bool := false
  /-- TEMP (11 R293) -/
  temp : BitVec 4 := 0
  /-- SYS_MEM_ERR_INFO.CORR (11 R293) -/
  corr : BitVec 16 := 0
  /-- UNCORR (11 R293) -/
  uncorr : BitVec 8 := 0
  /-- correctable L2 errors (L2 CORR) (11 R288) -/
  l2Corr : Nat := 0
  /-- WB_ABSORBED (11 R283) -/
  wbAbsorbed : Nat := 0
  /-- L2_VALID (11 R293) -/
  l2Valid : BitVec 2 := 0
  /-- VALID (11 R293) -/
  errValid : Bool := false
  /-- SYS_MEM_ERR_ADDR (11 R293) -/
  errAddr : BitVec 40 := 0
  /-- block in which L2_ECC was last posted (11 R288) -/
  l2Blk : Option (BitVec 64) := none
  /-- block in which DDR_ECC was last posted (11 R288) -/
  ddrBlk : Option (BitVec 64) := none
  /-- next line of the patrol scrubber (11 R282). Reset: DESIGN CHOICE 0, log 3 -/
  scrubPtr : Nat := 0
  /-- LPDDR5 is in self-refresh (14 R355) -/
  selfRef : Bool := false
  /-- data of the last IORead (11 R274). Reset: DESIGN CHOICE 0, log 3 -/
  ioData : BitVec 512 := 0
  /-- the last IORead was uncorrectable (11 R288). Reset: DESIGN CHOICE false, log 3 -/
  ioErr : Bool := false
deriving DecidableEq, Repr

/-- A dispatched frame (R308). -/
structure TxEnt where
  /-- function (12 R298) -/
  fn : Nat := 0
  /-- ring (12 R307) -/
  ring : Nat := 0
  /-- request (12 R307) -/
  id : Nat := 0
  /-- bytes of it in the transmit buffer, without FCS, once it has started (12 R308) -/
  len : Nat := 0
  /-- timestamp record address (12 R315) -/
  ts : Option (BitVec 64) := none
  /-- dispatch passed to the line (12 R308) -/
  started : Bool := false
  /-- reliable-channel message it carries: destination and SEQ (13 R338) -/
  rc : Option (Nat × BitVec 16) := none
  /-- a frame of the port's own (HELLO, ACK, stream packet), which no request waits for (13 R327) -/
  own : Bool := false
deriving DecidableEq, Repr

/-- A posted receive buffer (R305). -/
structure RxBuf where
  /-- function (12 R305) -/
  fn : Nat := 0
  /-- ring (12 R305) -/
  ring : Nat := 0
  /-- request (12 R305) -/
  id : Nat := 0
  /-- buffer (12 R305) -/
  addr : BitVec 64 := 0
  /-- length (12 R306) -/
  len : Nat := 0
  /-- timestamp record address, 0 = none (12 R315) -/
  ts : BitVec 64 := 0
deriving DecidableEq, Repr

/-- A received frame in a receive buffer, not yet delivered (R305). -/
structure RxHeld where
  /-- function it goes to (12 R305) -/
  fn : Nat := 0
  /-- offset in the receive buffer (12 R295) -/
  at_ : Nat := 0
  /-- bytes (12 R305) -/
  len : Nat := 0
  /-- filter code of RESULT (12 R304) -/
  filt : Nat := 0
  /-- flags of RESULT (12 R303) -/
  flags : Nat := 0
  /-- DELIVER_BAD when it arrived (12 R311) -/
  bad : Bool := false
  /-- timestamp record; none without TS_RX (12 R315) -/
  stamp : List Byte := []
deriving DecidableEq, Repr

/-- One Net port (12). -/
structure NetPort where
  /-- LINK (12 R321) -/
  link : Bool := false
  /-- SPEED_NOW (12 R321) -/
  speed : Nat := 0
  /-- ADV_NOW (12 R321). Reset: DESIGN CHOICE 0 while disabled, log 3 -/
  adv : BitVec 5 := 0
  /-- resolved receive pause (12 R321) -/
  pauseRx : Bool := false
  /-- resolved transmit pause (12 R321) -/
  pauseTx : Bool := false
  /-- PHY_ABSENT (12 R299). Reset: DESIGN CHOICE 0, log 3 -/
  phyAbsent : Bool := false
  /-- TX_THRESH_NOW (12 R320) -/
  thresh : Nat := 0
  /-- pause timer, bit times (12 R310) -/
  pauseLeft : Nat := 0
  /-- a non-zero PAUSE has been sent and not ended (12 R312) -/
  pauseOut : Bool := false
  /-- PAUSE frames that wait for the end of the frame on the line, oldest first (12 R312) -/
  pauseWait : List (List Byte) := []
  /-- transmit queues 0 to 7, oldest first (12 R308) -/
  queues : Map (List TxEnt) := []
  /-- queue and frame in transmission (12 R308) -/
  cur : Option (Nat × TxEnt) := none
  /-- collisions of the frame at the head (12 R302) -/
  colls : Nat := 0
  /-- slot times of a backoff in progress (12 R302) -/
  backoff : Option Nat := none
  /-- frames in the receive buffer, oldest first (12 R305) -/
  rxHeld : List RxHeld := []
  /-- offset of the next frame in the receive buffer (12 R295). Reset: DESIGN CHOICE 0, log 100 -/
  rxAt : Nat := 0
  /-- posted buffers, oldest first (12 R305) -/
  posted : List RxBuf := []
  /-- consecutive failed attempts at the top speed (12 R301) -/
  fails : Nat := 0
  /-- block in which the present attempt began (12 R301). Reset: DESIGN CHOICE 0, log 3 -/
  triedAt : BitVec 64 := 0
  /-- block in which the link came up (12 R301) -/
  upAt : Option (BitVec 64) := none
  /-- wake listening (12 R317) -/
  listening : Bool := false
  /-- pattern whose NET_WAKE is still to be posted (12 R317) -/
  wake : Option Nat := none
  /-- frames put on the wire, newest first, with FCS (12 R307) -/
  wire : List (List Byte) := []
  /-- register writes the link manager issued at the last start (12 R299) -/
  mdioPlan : List (BitVec 32) := []
deriving DecidableEq, Repr

/-- MDIO registers (R323). -/
structure MdioSt where
  /-- NET_MDIO_CMD [12:0] (12 R323) -/
  cmd : BitVec 32 := 0
  /-- NET_MDIO_DATA.DATA (12 R323) -/
  data : BitVec 16 := 0
  /-- NO_ACK (12 R323) -/
  noAck : Bool := false
  /-- BUSY (12 R323) -/
  busy : Bool := false
deriving DecidableEq, Repr

/-- Net0, Net1 and MDIO (12). -/
structure NetSt where
  /-- ports (12 R294) -/
  ports : Map NetPort := []
  /-- MDIO (12 R323) -/
  mdio : MdioSt := {}
deriving DecidableEq, Repr

/-- A peer table entry (R330). -/
structure Peer where
  /-- NODE_ID (13 R330) -/
  node : BitVec 8 := 0xFF
  /-- VERSION (13 R330) -/
  ver : BitVec 8 := 1
  /-- COORD (13 R330) -/
  coord : Bool := false
  /-- AWAKE (13 R330) -/
  awake : Bool := false
  /-- CAPS (13 R330) -/
  caps : BitVec 32 := 0
  /-- RC_WINDOW (13 R330) -/
  window : Nat := 1
  /-- tick of its last HELLO (13 R330) -/
  heard : BitVec 64 := 0
  /-- the entry is in use (13 R330) -/
  live : Bool := false
deriving DecidableEq, Repr

/-- A reliable-channel message being sent (R338). -/
structure RcMsg where
  /-- ring (13 R337) -/
  ring : Nat := 0
  /-- request (13 R337) -/
  id : Nat := 0
  /-- destination address (13 R337) -/
  dst : Nat := 0
  /-- SEQ (13 R337) -/
  seq : BitVec 16 := 0
  /-- payload (13 R337) -/
  bytes : List Byte := []
  /-- transmit queue (13 R337) -/
  queue : Nat := 0
  /-- on the wire at least once (13 R338) -/
  sent : Bool := false
  /-- to be sent (again) (13 R338) -/
  due : Bool := false
  /-- resends made (13 R338) -/
  tries : Nat := 0
  /-- tick of the last send (13 R338) -/
  last : BitVec 64 := 0
deriving DecidableEq, Repr

/-- Receiver state of one peer (R339). -/
structure RcPeer where
  /-- state exists (13 R339) -/
  known : Bool := false
  /-- SESSION (13 R339) -/
  session : BitVec 16 := 0
  /-- LAST (13 R339) -/
  last : BitVec 16 := 0
  /-- MAP (13 R339) -/
  map : BitVec 64 := 0
  /-- an ACK waits to be sent (13 R339) -/
  ackDue : Bool := false
deriving DecidableEq, Repr

/-- Cowbell of one port (R331 to R336). -/
structure CowSt where
  /-- STATE (13 R348) -/
  st : Nat := 0
  /-- active under R330 (13 R330) -/
  active : Bool := false
  /-- T0 (13 R331) -/
  t0 : BitVec 64 := 0
  /-- number of the next beacon (13 R331) -/
  n : Nat := 0
  /-- S_n of the next beacon, or the expected time E (13 R331) -/
  next : BitVec 64 := 0
  /-- consecutive misses (13 R333) -/
  k : Nat := 0
  /-- INTERVAL adopted (13 R332) -/
  interval : Nat := 48000
  /-- AWAKE_WIN adopted (13 R332) -/
  awakeWin : Nat := 480
  /-- TOL adopted (13 R332) -/
  tol : Nat := 100
  /-- end of the awake window (13 R333) -/
  awakeEnd : BitVec 64 := 0
  /-- the receiver is listening (13 R334) -/
  rxOn : Bool := false
  /-- inside an awake window (13 R334) -/
  awake : Bool := false
deriving DecidableEq, Repr

/-- A frame held by a coordinator (R335). -/
structure HeldFrame where
  /-- destination address (13 R335) -/
  dst : Nat := 0
  /-- broadcast or multicast (13 R335) -/
  group : Bool := false
  /-- the frame (13 R335) -/
  ent : TxEnt := {}
  /-- its transmit queue (13 R335) -/
  queue : Nat := 0
  /-- released: to be sent (13 R336) -/
  rel : Bool := false
deriving DecidableEq, Repr

/-- One Herdline port (13). -/
structure HerdPort where
  /-- tick the port started (13 R346) -/
  started : Option (BitVec 64) := none
  /-- MEDIUM_NOW (13 R347) -/
  medium : Nat := 0
  /-- PLCA_STATUS (13 R328). Reset: DESIGN CHOICE 0, log 3 -/
  plcaOk : Bool := false
  /-- peer table by source address (13 R330) -/
  peers : Map Peer := []
  /-- a HELLO waits to be sent (13 R330) -/
  helloDue : Bool := false
  /-- tick of the last HELLO sent (13 R330). Reset: DESIGN CHOICE 0, log 3 -/
  helloAt : BitVec 64 := 0
  /-- FLAGS last sent (13 R330). Reset: DESIGN CHOICE 0, log 3 -/
  lastFlags : BitVec 8 := 0
  /-- SESSION (13 R337). Reset: DESIGN CHOICE 0 until a start draws one, log 3 -/
  session : BitVec 16 := 0
  /-- last SEQ used per destination (13 R337) -/
  nextSeq : Map (BitVec 16) := []
  /-- messages not completed, oldest first (13 R338) -/
  rcTx : List RcMsg := []
  /-- receiver state per peer (13 R339) -/
  rcRx : Map RcPeer := []
  /-- KIND 0 buffers posted (13 R325) -/
  raw : List RxBuf := []
  /-- frames in the receive buffer, oldest first (13 R325) -/
  rxHeld : List RxHeld := []
  /-- offset of the next frame in the receive buffer (13 R324). Reset: DESIGN CHOICE 0, log 100 -/
  rxAt : Nat := 0
  /-- KIND 1 buffers posted (13 R340) -/
  rcBufs : List RxBuf := []
  /-- transmit queues (13 R327) -/
  queues : Map (List TxEnt) := []
  /-- frame in transmission (13 R327) -/
  cur : Option (Nat × TxEnt) := none
  /-- collisions of the frame at the head (12 R302) -/
  colls : Nat := 0
  /-- backoff in progress (12 R302) -/
  backoff : Option Nat := none
  /-- Cowbell (13 R331) -/
  cow : CowSt := {}
  /-- held frames, oldest first (13 R335) -/
  held : List HeldFrame := []
  /-- PHY calibration code in use (17 R426). Reset: DESIGN CHOICE 0, log 3 -/
  calCode : BitVec 32 := 0
  /-- tick of the last calibration (13 R329). Reset: DESIGN CHOICE 0, log 3 -/
  calAt : BitVec 64 := 0
  /-- the AON wake detector listens (14 R360) -/
  listening : Bool := false
  /-- wake pattern, 0xF for PENDING or LOST, still to be posted (13 R334) -/
  wake : Option (BitVec 4) := none
  /-- frames put on the wire, newest first (13 R327) -/
  wire : List (List Byte) := []
  /-- results of the last resolution (medium, Cowbell, stream format, window, version) (13 R330) -/
  modes : List Nat := []
deriving DecidableEq, Repr

/-- A block of a stream (R341, R342): in the jitter buffer once it is complete. -/
structure Blk where
  /-- SEQ (13 R342) -/
  seq : BitVec 16 := 0
  /-- ORIGIN_TICK (13 R342) -/
  origin : BitVec 64 := 0
  /-- FORMAT byte without its index (13 R342) -/
  fmt : BitVec 8 := 0
  /-- payloads by index while packets are missing, in the receive buffer of the port (13 R342) -/
  parts : Map (List Byte) := []
  /-- complete, its frames in the stream's buffer (13 R342) -/
  done : Bool := false
  /-- where they lie in the bank (13 R343) -/
  addr : Nat := 0
  /-- channels of its frames (13 R343) -/
  ch : Nat := 0
deriving DecidableEq, Repr

/-- A packet of a transmit stream that waits to be sent (R341). -/
structure TxPkt where
  /-- its block (13 R341) -/
  blk : Blk := {}
  /-- first frame of the block that was handed over (13 R341) -/
  from_ : Nat := 0
  /-- PACKETS code (13 R341) -/
  pk : Nat := 0
  /-- packet index (13 R341) -/
  idx : Nat := 0
  /-- ORIGIN_TICK (13 R341) -/
  tick : BitVec 64 := 0
deriving DecidableEq, Repr

/-- One Herdline stream (R341, R342). -/
structure StreamSt where
  /-- offset of its reservation in the bank (13 R343). Reset: DESIGN CHOICE 0, log 95 -/
  base : Nat := 0
  /-- source address bound to (13 R342) -/
  bound : Option Nat := none
  /-- block of the last packet accepted (13 R342) -/
  lastPkt : Option (BitVec 64) := none
  /-- blocks received and not yet played, SEQ order (13 R342) -/
  blocks : List Blk := []
  /-- playing has started (13 R342) -/
  playing : Bool := false
  /-- SEQ of the next block (played or sent) (13 R341). Reset: DESIGN CHOICE 0, log 3 -/
  nextSeq : BitVec 16 := 0
  /-- the block being played and repeated, or being filled (13 R342) -/
  cur : Option Blk := none
  /-- receive: frames given of it; transmit: first frame handed over (13 R342) -/
  at_ : Nat := 0
  /-- frames in the window of the 16 kHz filter, newest first (13 R341) -/
  hist : List Frame := []
  /-- transmit packets waiting, in order (13 R341) -/
  pkts : List TxPkt := []
  /-- FORMAT_NOW (13 R349) -/
  fmt : Nat := 255
deriving DecidableEq, Repr

/-- Herdline (13). -/
structure HerdSt where
  /-- ports (13 R324) -/
  ports : Map HerdPort := []
  /-- streams by endpoint (13 R341) -/
  streams : Map StreamSt := []
deriving DecidableEq, Repr

/-- The power controller (14). -/
structure PwrSt where
  /-- DOM_STATE of each domain (14 R351) -/
  dom : Map DomState := []
  /-- profile in force (14 R366) -/
  profile : Nat := 0
  /-- PHASE (14 R368) -/
  phase : Nat := 0
  /-- WAKE_CAUSE (14 R368) -/
  wakeCause : BitVec 4 := 0
  /-- levels of POL_PG (14 R368) -/
  polPg : BitVec 8 := 0
  /-- levels of POL_EN (14 R368) -/
  polEn : BitVec 8 := 0
  /-- DOM_ON values and CPU_OPP saved in AON (14 R356) -/
  saved : Option (List (Nat × BitVec 32)) := none
  /-- domains powering up, ascending (14 R354) -/
  upQ : List Nat := []
  /-- VOUT_MV (14 R367). Reset: DESIGN CHOICE 0, log 3 -/
  vout : Map (BitVec 32) := []
  /-- IOUT_MA (14 R367). Reset: DESIGN CHOICE 0, log 3 -/
  iout : Map (BitVec 32) := []
  /-- VDD_CPU_MV (14 R363) -/
  vddMv : Int := 850
  /-- voltage of VDD_CPU that is there: confirmed, or commanded lower since (14 R363) -/
  vddOk : Int := 850
  /-- AVS trim, mV (14 R363). Reset: DESIGN CHOICE 0, log 3 -/
  trim : Int := 0
  /-- OPP and voltage of a raise being waited for (14 R363) -/
  vWait : Option (Nat × Int) := none
  /-- tick in which that raise was commanded (14 R363) -/
  vAt : BitVec 64 := 0
  /-- block in which the trim last moved (14 R363) -/
  trimAt : Option (BitVec 64) := none
  /-- tick in which POL_EN of a channel last rose (14 R365) -/
  polAt : Map (BitVec 64) := []
  /-- PMBus commands sent: channel, command, data, newest first (14 R362). Reset: DESIGN CHOICE empty, log 3 -/
  busSent : List (Nat × Nat × Nat) := []
  /-- tick of the recorded wake cause (14 R361). Reset: DESIGN CHOICE 0, log 3 -/
  wakeAt : BitVec 64 := 0
  /-- levels of WAKE_IN (14 R353). Reset: DESIGN CHOICE 0, log 3 -/
  wakeLvl : BitVec 4 := 0
  /-- R359 steps 2 to 4 are awaited (14 R359) -/
  entry : Bool := false
  /-- PMB_ALERT_N is low (19 R453) -/
  alert : Bool := false
deriving DecidableEq, Repr

/-- The device side of the barrier link (15). -/
structure PsuSt where
  /-- LINK_STATE (15 R379) -/
  link : Nat := 0
  /-- consecutive good uplink frames (15 R379) -/
  goodRun : Nat := 0
  /-- consecutive bad uplink slots (15 R379) -/
  badRun : Nat := 0
  /-- last good uplink frame (15 R376) -/
  up : BitVec 64 := 0
  /-- telemetry by TIDX (15 R377) -/
  tele : Map (BitVec 16) := []
  /-- CTRL being sent (15 R379) -/
  ctrl : Bool := false
  /-- RUN being sent (15 R382). Reset: DESIGN CHOICE false, log 3 -/
  run : Bool := false
  /-- y[n-1], ns (15 R382). Reset: DESIGN CHOICE 0, log 3 -/
  y1 : Rat := 0
  /-- y[n-2], ns (15 R382). Reset: DESIGN CHOICE 0, log 3 -/
  y2 : Rat := 0
  /-- e[n-1], mV (15 R382) -/
  e1 : Int := 0
  /-- e[n-2], mV (15 R382) -/
  e2 : Int := 0
  /-- V_REF, mV (15 R382). Reset: DEDUCED VBUS_TARGET, log 3 -/
  vref : Int := 12000
  /-- RUN = 0 under R383, compensator frozen (15 R383) -/
  burst : Bool := false
  /-- RUN forced 0 above 13.8 V (15 R383) -/
  ovp : Bool := false
  /-- SEQ of the next downlink frame (15 R372). Reset: DESIGN CHOICE 0, log 3 -/
  seq : BitVec 4 := 0
  /-- PIDX of the next frame (15 R375) -/
  pidx : Nat := 0
  /-- parameter values of the present PIDX cycle (15 R384). Reset: DESIGN CHOICE empty, log 3 -/
  pars : List Nat := []
  /-- last downlink frame (15 R374). Reset: DESIGN CHOICE 0, log 3 -/
  last : BitVec 64 := 0
  /-- PWR_STATUS.MAINS_LOST (15 R386) -/
  mainsLost : Bool := true
  /-- tick since which MAINS_OK and LINKED have held (15 R386) -/
  okSince : Option (BitVec 64) := none
  /-- V_BUS_MV (15 R395). Reset: DESIGN CHOICE 0, log 3 -/
  vbus : Nat := 0
  /-- I_OUT_MA (15 R395). Reset: DESIGN CHOICE 0, log 3 -/
  iout : Nat := 0
  /-- HOLDUP_US (15 R387) -/
  holdup : BitVec 32 := 0
  /-- LINK_BAD (15 R395) -/
  linkBad : BitVec 32 := 0
  /-- MAINS_LOSSES (15 R395) -/
  losses : BitVec 32 := 0
  /-- SAFE_BURSTS (15 R395) -/
  bursts : BitVec 32 := 0
  /-- PERIOD_NS (15 R395). Reset: DESIGN CHOICE 0, log 3 -/
  period : BitVec 16 := 0
  /-- RSV_EN (15 R393) -/
  rsvEn : Bool := false
  /-- V_BUS below 11.0 V (15 R389). Reset: DESIGN CHOICE false, log 3 -/
  rsvLow : Bool := false
deriving DecidableEq, Repr

/-- The KF-7110 (15). -/
structure KfSt where
  /-- VCC is up (15 R378) -/
  on : Bool := false
  /-- STATE (15 R370) -/
  st : Nat := 0
  /-- FAULT (15 R377) -/
  fault : BitVec 3 := 0
  /-- MAINS_OK (15 R385) -/
  mainsOk : Bool := false
  /-- PFC_ON (15 R380) -/
  pfcOn : Bool := false
  /-- PFC_GATE held off above 425 V (15 R380) -/
  pfcHold : Bool := false
  /-- accepted parameters that differ from their defaults (15 R375) -/
  params : Map (BitVec 16) := []
  /-- PVAL of the last good frame carrying each PIDX (15 R375) -/
  cand : Map (Option (BitVec 16)) := []
  /-- RUN in force (15 R381). Reset: DESIGN CHOICE false, log 3 -/
  run : Bool := false
  /-- PERIOD in force, ns (15 R381). Reset: DESIGN CHOICE 0, log 3 -/
  period : BitVec 16 := 0
  /-- period of the last switching cycle; none where AUX_FB or a limit has set it (15 R377) -/
  perNow : Option (BitVec 16) := none
  /-- consecutive good frames with CTRL = 1 (15 R370) -/
  good1 : Nat := 0
  /-- consecutive good frames with CTRL = 0 (15 R370) -/
  good0 : Nat := 0
  /-- consecutive bad slots (15 R370) -/
  bad : Nat := 0
  /-- consecutive cycles ended by OCP (15 R381) -/
  limRun : Nat := 0
  /-- consecutive capacitive corrections (15 R381) -/
  capRun : Nat := 0
  /-- SEQ of the next uplink frame (15 R372). Reset: DESIGN CHOICE 0, log 3 -/
  seq : BitVec 4 := 0
  /-- TIDX of the next frame (15 R377) -/
  tidx : Nat := 0
  /-- consecutive valid crossings (15 R385) -/
  valid : Nat := 0
  /-- a candidate has been seen in this sequence (15 R385) -/
  anyCand : Bool := false
  /-- LLC soft-start in progress (15 R378) -/
  soft : Bool := false
  /-- waits for the die below 125 °C (15 R381) -/
  hot : Bool := false
  /-- last uplink frame sent (15 R376). Reset: DESIGN CHOICE 0, log 3 -/
  last : BitVec 64 := 0
deriving DecidableEq, Repr

/-- An operation that alters flash (R402). -/
structure FlashOp where
  /-- sector erase rather than page program (16 R402) -/
  erase : Bool := false
  /-- flash address (16 R402) -/
  addr : Nat := 0
  /-- bytes programmed (16 R402) -/
  data : List Byte := []
  /-- write step 2 to 5 it belongs to (16 R402) -/
  step : Nat := 0
deriving DecidableEq, Repr

/-- A queued NV descriptor (R401, R406). -/
structure NvReq where
  /-- ring (16 R401) -/
  ring : Nat := 0
  /-- request (16 R401) -/
  id : Nat := 0
  /-- function (16 R400) -/
  fn : Nat := 0
  /-- RECORD (16 R400) -/
  record : Nat := 0
  /-- NV_READ (16 R406) -/
  rd : Bool := false
  /-- data or buffer (16 R401) -/
  addr : BitVec 64 := 0
  /-- its length (16 R401) -/
  len : Nat := 0
  /-- the fetch of its data fails (16 R401) -/
  bad : Bool := false
deriving DecidableEq, Repr

/-- The NV store (16). -/
structure NvSt where
  /-- flash bytes that differ from the erased 0xFF (16 R396). Reset: DESIGN CHOICE erased, log 3 -/
  flash : Map Byte := []
  /-- FLASH_MIB (16 R414) -/
  mib : Nat := 0
  /-- FLASH_OK (16 R414) -/
  ok : Bool := false
  /-- ACTIVE: 0 A, 1 B, 2 empty (16 R414) -/
  active : Nat := 0
  /-- active GENERATION (16 R399) -/
  gen : BitVec 64 := 0
  /-- STATE (16 R414) -/
  state : Nat := 4
  /-- descriptors in dispatch order (16 R401) -/
  queue : List NvReq := []
  /-- operations of the write in progress still to start (16 R402) -/
  plan : List FlashOp := []
  /-- operation in progress (16 R402) -/
  busy : Option FlashOp := none
  /-- tick in which it started (16 R410) -/
  busyAt : BitVec 64 := 0
  /-- the NV_WRITE in progress (16 R402) -/
  writing : Option NvReq := none
  /-- tick since which the gate holds an operation (16 R405) -/
  gateSince : Option (BitVec 64) := none
  /-- the inactive slot is not trusted to be erased (16 R408) -/
  dirty : Bool := true
deriving DecidableEq, Repr

/-- The fuses (17). -/
structure Fuses where
  /-- SECURE_EN (17 R420). Reset: DESIGN CHOICE unprogrammed, log 3 -/
  secureEn : Bool := false
  /-- KEY_HASH0 (17 R420). Reset: DESIGN CHOICE unprogrammed, log 3 -/
  keyHash0 : BitVec 256 := 0
  /-- KEY_HASH1 (17 R420). Reset: DESIGN CHOICE unprogrammed, log 3 -/
  keyHash1 : BitVec 256 := 0
  /-- KEY_REVOKE (17 R420). Reset: DESIGN CHOICE unprogrammed, log 3 -/
  revoke : BitVec 2 := 0
  /-- SVN_MIN (17 R420). Reset: DESIGN CHOICE unprogrammed, log 3 -/
  svnMin : BitVec 32 := 0
  /-- DEBUG_DIS (17 R430). Reset: DESIGN CHOICE unprogrammed, log 3 -/
  debugDis : Bool := false
  /-- SERIAL (04 R70). Reset: DESIGN CHOICE 0, log 3 -/
  serial : BitVec 64 := 0
deriving DecidableEq, Repr

/-- Reset and boot (17). -/
structure BootSt where
  /-- AON is powered (17 R415) -/
  aonOn : Bool := true
  /-- chip reset holds (17 R416) -/
  inReset : Bool := true
  /-- level of RESET_OUT_N (17 R416) -/
  resetOut : Bool := false
  /-- BOOT_MODE as sampled (17 R436). Reset: DESIGN CHOICE 0, log 3 -/
  mode : BitVec 3 := 0
  /-- PHASE (17 R436) -/
  phase : Nat := 0
  /-- SECURE (17 R436) -/
  secure : Bool := false
  /-- ENTRY_USED (17 R436) -/
  entryUsed : Bool := false
  /-- ERR (17 R432) -/
  err : Nat := 0
  /-- SVN (17 R436) -/
  svn : BitVec 6 := 0
  /-- SYS_RESET_CAUSE (17 R436) -/
  cause : BitVec 4 := 1
  /-- fuses (17 R420) -/
  fuses : Fuses := {}
  /-- DEBUG_DIS as fixed at chip reset release (17 R430) -/
  debugClosed : Bool := false
  /-- the boot has ended without firmware: the cores stay off (17 R432) -/
  coresOff : Bool := false
deriving DecidableEq, Repr

/-- Debug and boundary scan (17). -/
structure DbgSt where
  /-- selected instruction (IDCODE) (17 R427) -/
  ir : BitVec 5 := 1
  /-- boundary cells captured (17 R429). Reset: DESIGN CHOICE empty, log 3 -/
  capture : List Bool := []
  /-- boundary cells loaded (17 R427). Reset: DESIGN CHOICE empty, log 3 -/
  drive : List Bool := []
  /-- outputs are driven from the boundary register (17 R427) -/
  driving : Bool := false
  /-- outputs float (17 R427) -/
  floating : Bool := false
  /-- value that the selected data register captured (17 R427). Reset: DESIGN CHOICE 0, log 3 -/
  dr : BitVec 64 := 0
  /-- abstractcs.cmderr (17 R428). Reset: PRESUMED 0, log 4 -/
  cmdErr : Nat := 0
  /-- data of the last DMI access (17 R427). Reset: DESIGN CHOICE 0, log 3 -/
  dmi : BitVec 32 := 0
  /-- debug module registers written (17 R428). Reset: PRESUMED 0, log 4 -/
  dmRegs : Map (BitVec 32) := []
  /-- data of the last abstract command (17 R428). Reset: DESIGN CHOICE 0, log 3 -/
  abs : BitVec 64 := 0
  /-- reply of the last system bus access (17 R428). Reset: DESIGN CHOICE, log 3 -/
  sba : BusReply := {}
deriving DecidableEq, Repr

/-- The whole state of the block; every default is the value right after reset. -/
structure State where
  /-- commands waiting, first in first out -/
  pending : List Instr := []
  /-- the tick grid -/
  time : TimeSt := {}
  /-- internal address space: bytes that differ from 0 -/
  mem : Mem := []
  /-- host memory at the other end of PCIe -/
  hostMem : Mem := []
  /-- fabric -/
  bus : BusSt := {}
  /-- functions and rings -/
  host : HostSt := {}
  /-- PCIe endpoint -/
  pcie : PcieSt := {}
  /-- commit unit -/
  cmt : CmtSt := {}
  /-- units by class × 256 + unit number -/
  units : Map UnitSt := []
  /-- STATS_SNAP counters by class × 65,536 + unit number × 256 + place -/
  cnt : Map Word := []
  /-- TESTs running -/
  tests : List TestRun := []
  /-- clocks -/
  clk : ClkSt := {}
  /-- audio ports by class × 256 + port -/
  ports : Map PortSt := []
  /-- fixed audio path -/
  audio : AudioSt := {}
  /-- Churn -/
  churn : ChurnSt := {}
  /-- the Separator -/
  sep : SepSt := {}
  /-- Vats -/
  vat : VatSt := {}
  /-- control complex -/
  cc : CcSt := {}
  /-- Net ports -/
  net : NetSt := {}
  /-- Herdline -/
  herd : HerdSt := {}
  /-- power controller -/
  pwr : PwrSt := {}
  /-- barrier link, device side -/
  psu : PsuSt := {}
  /-- KF-7110 -/
  kf : KfSt := {}
  /-- NV store -/
  nv : NvSt := {}
  /-- reset and boot -/
  boot : BootSt := {}
  /-- debug -/
  dbg : DbgSt := {}
deriving DecidableEq, Repr

/-- The pair right after AON power-on, with chip reset still holding (17 R415, R416): every field at its default. -/
def State.reset : State := {}

/-- State with another pending group. -/
def State.setPending (s : State) (v : List Instr) : State := { s with pending := v }

/-- State with another time group. -/
def State.setTime (s : State) (v : TimeSt) : State := { s with time := v }

/-- State with another mem group. -/
def State.setMem (s : State) (v : Mem) : State := { s with mem := v }

/-- State with another hostMem group. -/
def State.setHostMem (s : State) (v : Mem) : State := { s with hostMem := v }

/-- State with another bus group. -/
def State.setBus (s : State) (v : BusSt) : State := { s with bus := v }

/-- State with another host group. -/
def State.setHost (s : State) (v : HostSt) : State := { s with host := v }

/-- State with another pcie group. -/
def State.setPcie (s : State) (v : PcieSt) : State := { s with pcie := v }

/-- State with another cmt group. -/
def State.setCmt (s : State) (v : CmtSt) : State := { s with cmt := v }

/-- State with another units group. -/
def State.setUnits (s : State) (v : Map UnitSt) : State := { s with units := v }

/-- State with another cnt group. -/
def State.setCnt (s : State) (v : Map Word) : State := { s with cnt := v }

/-- State with another tests group. -/
def State.setTests (s : State) (v : List TestRun) : State := { s with tests := v }

/-- State with another clk group. -/
def State.setClk (s : State) (v : ClkSt) : State := { s with clk := v }

/-- State with another ports group. -/
def State.setPorts (s : State) (v : Map PortSt) : State := { s with ports := v }

/-- State with another audio group. -/
def State.setAudio (s : State) (v : AudioSt) : State := { s with audio := v }

/-- State with another churn group. -/
def State.setChurn (s : State) (v : ChurnSt) : State := { s with churn := v }

/-- State with another sep group. -/
def State.setSep (s : State) (v : SepSt) : State := { s with sep := v }

/-- State with another vat group. -/
def State.setVat (s : State) (v : VatSt) : State := { s with vat := v }

/-- State with another cc group. -/
def State.setCc (s : State) (v : CcSt) : State := { s with cc := v }

/-- State with another net group. -/
def State.setNet (s : State) (v : NetSt) : State := { s with net := v }

/-- State with another herd group. -/
def State.setHerd (s : State) (v : HerdSt) : State := { s with herd := v }

/-- State with another pwr group. -/
def State.setPwr (s : State) (v : PwrSt) : State := { s with pwr := v }

/-- State with another psu group. -/
def State.setPsu (s : State) (v : PsuSt) : State := { s with psu := v }

/-- State with another kf group. -/
def State.setKf (s : State) (v : KfSt) : State := { s with kf := v }

/-- State with another nv group. -/
def State.setNv (s : State) (v : NvSt) : State := { s with nv := v }

/-- State with another boot group. -/
def State.setBoot (s : State) (v : BootSt) : State := { s with boot := v }

/-- State with another dbg group. -/
def State.setDbg (s : State) (v : DbgSt) : State := { s with dbg := v }

/-- Why a step stops with a fault. No command of this block stops: every failure the spec names is a change of state. -/
inductive Fault where
  /-- Raised by no command of the model (safe): the spec gives every failure an effect on the state. -/
  | none
deriving DecidableEq, Repr

/-- Why a step is refused. -/
inductive Refusal where
  /-- Raised by a dispatch arm whose command has no meaning yet (safe: the model stops). -/
  | notModelled (mnemonic : String)
deriving DecidableEq, Repr

end Sys2Proof.Machine
end

