-- ==== Sys2Proof/Machine/Operands.lean ====
section
/-! DEFINITION. Machine/Operands.lean: the registers of a program unit as an instruction in a slot sees and writes them (08 R183,
R186, R188). -/

namespace Sys2Proof.Machine

/-- Slots of a tick that execute instructions (02 R21). -/
def progSlots : Nat := 16384

/-- Write a result that has become visible. -/
def PuSt.land (u : PuSt) (f : Flight) : PuSt :=
  if f.toPred then
    (if f.dst = 0 then u
     else { u with p := BitVec.ofNat 8 (if f.val.toNat % 2 = 1 then u.p.toNat ||| 2 ^ f.dst else u.p.toNat &&& (255 - 2 ^ f.dst)) })
  else { u with d := tset 0 u.d f.dst f.val }

/-- Make visible every result due by slot `k`, in order of the slot it is due in, then of issue (08 R188). -/
def PuSt.settle (u : PuSt) (k : Nat) : PuSt :=
  let now := sortBy Flight.due (u.flight.filter fun f => f.due ≤ k)
  now.foldl PuSt.land { u with flight := u.flight.filter fun f => k < f.due }

/-- The registers as the present slot sees them. -/
def PuSt.now (u : PuSt) : PuSt := u.settle u.slot

/-- A data register as visible now. -/
def PuSt.dreg (u : PuSt) (r : BitVec 6) : Word := tget 0 u.d r.toNat

/-- A predicate as visible now; P0 reads 1 (08 R183). -/
def PuSt.preg (u : PuSt) (n : Nat) : Bool := n == 0 || bit u.p.toNat n

/-- Whether an instruction executes (08 R186). -/
def PuSt.executes (u : PuSt) (p : Pred) : Bool := u.preg p.sel.toNat != p.inv

/-- Send a result of the instruction issued in the present slot to a data register. -/
def PuSt.send (u : PuSt) (lat : Nat) (d : BitVec 6) (v : Word) : PuSt :=
  let f : Flight := { due := u.slot + lat, toPred := false, dst := d.toNat, val := v }
  { u with flight := u.flight ++ [f] }

/-- The same, to a predicate. -/
def PuSt.sendP (u : PuSt) (lat : Nat) (d : BitVec 3) (v : Bool) : PuSt :=
  let f : Flight := { due := u.slot + lat, toPred := true, dst := d.toNat, val := if v then 1 else 0 }
  { u with flight := u.flight ++ [f] }

/-- An accumulator's record. -/
def PuSt.accOf (u : PuSt) (a : BitVec 2) : AccSt := tget {} u.acc a.toNat

/-- An accumulator with every write issued so far: what an accumulate into it builds on (08 R188). -/
def PuSt.accNow (u : PuSt) (a : BitVec 2) : Int := (u.accOf a).cur.toInt

/-- An accumulator with every write issued at least 3 slots earlier: what ACCST and a source of ACCADD see (08 R188). -/
def PuSt.accSeen (u : PuSt) (a : BitVec 2) : Int :=
  let x := u.accOf a
  match (x.recent.filter fun e => e.1 + 3 ≤ u.slot).getLast? with
  | some e => e.2.toInt
  | none => x.old.toInt

/-- Write an accumulator in the present slot. -/
def PuSt.accWrite (u : PuSt) (a : BitVec 2) (v : Int) : PuSt :=
  let x := u.accOf a
  let w := BitVec.ofInt 80 v
  let aged := x.recent.filter fun e => e.1 + 3 ≤ u.slot
  let old := match aged.getLast? with | some e => e.2 | none => x.old
  let young := x.recent.filter fun e => u.slot < e.1 + 3
  { u with acc := tset {} u.acc a.toNat ({ cur := w, old := old, recent := young ++ [(u.slot, w)] } : AccSt) }

/-- The end of slot 16,383: every result in flight is written, and the next tick starts at slot 0 (08 R188). -/
def PuSt.endTick (u : PuSt) : PuSt :=
  let u := (u.settle (progSlots + 8))
  { u with slot := 0, acc := u.acc.map (fun e => (e.1, ({ cur := e.2.cur, old := e.2.cur, recent := [] } : AccSt))) |>.filter (fun e => e.2 != {}), eccPosted := false }

end Sys2Proof.Machine
end

