-- ==== Sys2Proof/Machine/Settings.lean ====
section
/-! DEFINITION. Machine/Settings.lean: the setting catalogue (19 R456 and the class tables R40, R66, R100, R102, R121, R147 to
R149, R160, R175 to R180, R212, R242, R266, R321, R347 to R349, R367, R394, R395, R413, R437). -/

namespace Sys2Proof.Machine

/-- The values a setting takes. -/
inductive ValRule where
  /-- lo to hi, unsigned -/
  | rng (lo hi : Nat)
  /-- lo to hi, signed -/
  | srng (lo hi : Int)
  /-- lo to hi, or one code more -/
  | rngOr (lo hi x : Nat)
  /-- lo to hi signed, or one code more -/
  | srngOr (lo hi : Int) (x : Nat)
  /-- multiples of m from lo to hi -/
  | mul (lo hi m : Nat)
  /-- the same, or 0 -/
  | mulOr0 (lo hi m : Nat)
  /-- one of the codes listed -/
  | oneOf (l : List Nat)
  /-- bits outside the mask are reserved -/
  | mask (m : Nat)
  /-- any word -/
  | any
  /-- a BLOB_ID whose blob has this KIND and VERSION -/
  | blob (kind ver : Nat)
deriving DecidableEq, Repr

/-- Whether a value is in range (C5 RANGE, 05 R108). -/
def ValRule.ok (r : ValRule) (w : Word) : Bool :=
  match r with
  | .rng lo hi => decide (lo ≤ w.toNat ∧ w.toNat ≤ hi)
  | .srng lo hi => decide (lo ≤ w.toInt ∧ w.toInt ≤ hi)
  | .rngOr lo hi x => decide ((lo ≤ w.toNat ∧ w.toNat ≤ hi) ∨ w.toNat = x)
  | .srngOr lo hi x => decide ((lo ≤ w.toInt ∧ w.toInt ≤ hi) ∨ w.toNat = x)
  | .mul lo hi m => decide (lo ≤ w.toNat ∧ w.toNat ≤ hi ∧ w.toNat % m = 0)
  | .mulOr0 lo hi m => decide (w.toNat = 0 ∨ (lo ≤ w.toNat ∧ w.toNat ≤ hi ∧ w.toNat % m = 0))
  | .oneOf l => l.contains w.toNat
  | .mask m => decide (w.toNat &&& m = w.toNat)
  | .any => true
  | .blob _ _ => true

/-- What the catalogue says of a setting ID. -/
inductive SetRow where
  | unknown
  | noUnit
  | ro
  | rw (rule : ValRule) (dflt : Nat)
deriving DecidableEq, Repr

/-- A row of a class table for one parameter. -/
inductive ParRow where
  | absent
  | ro
  | rw (rule : ValRule) (dflt : Nat)
deriving DecidableEq, Repr

def flag (d : Nat) : ParRow := .rw (.rng 0 1) d
def pr (lo hi d : Nat) : ParRow := .rw (.rng lo hi) d

/-- Endpoints with a converter (07 R151). -/
def isConvEp (e : Nat) : Bool := e < 0x14 || (0x20 ≤ e && e < 0x30)

/-- Input endpoints other than host rings (07 R151). -/
def isInEp (e : Nat) : Bool := e < 0x0C || (0x20 ≤ e && e < 0x30)

/-- Output endpoints other than host rings and the output bus (07 R151). -/
def isOutEp (e : Nat) : Bool := (0x0C ≤ e && e < 0x14) || (0x30 ≤ e && e < 0x40)

/-- Fixed channel count of an endpoint (07, Fields). -/
def fixedCh (e : Nat) : Nat :=
  if e < 0x0C then 16 else if e < 0x10 then 8 else if e < 0x14 then 16
  else if 0x20 ≤ e && e < 0x40 then 8 else 64

/-- Whether `i` is an instance of class `c` (19 R456). -/
def unitOk (c i : Nat) : Bool :=
  if c = 0x01 || c = 0x02 || c = 0x60 || c = 0x70 then i == 0
  else if c = 0x03 then i ≤ 0x40 || (0x80 ≤ i && i ≤ 0x87)
  else if c = 0x10 || c = 0x20 then i < 8
  else if c = 0x11 || c = 0x12 then i < 4
  else if c = 0x13 then isConvEp i
  else if c = 0x14 || c = 0x40 || c = 0x41 || c = 0x42 then i < 2
  else if c = 0x15 then isInEp i || 0x80 ≤ i
  else if c = 0x16 then isInEp i || 0x80 ≤ i || (0x40 ≤ i && i < 0x44)
  else if c = 0x17 then i < 0x20
  else if c = 0x18 then i < 3
  else if c = 0x28 then i < 0x10 || i == 0x40 || (0x80 ≤ i && i < 0x88)
  else if c = 0x30 then i < 0x42
  else if c = 0x43 then 0x20 ≤ i && i < 0x40
  else if c = 0x50 then i < 16
  else false

/-- The delegable classes (05 R102). -/
def delegable (c : Nat) : Bool := (0x10 ≤ c && c ≤ 0x12) || (0x15 ≤ c && c ≤ 0x18) || c == 0x43

/-- Class 0x02 (03 R66). -/
def parClk (p : Nat) : ParRow :=
  match p with
  | 0 => pr 0 7 0 | 1 => pr 0 7 0 | 2 => flag 0 | 3 => pr 1 100 20
  | 4 => .rw (.srng (-500000) 500000) 0 | 5 => pr 0 65535 4000 | 6 => flag 0 | 7 => pr 0 20479 0
  | 8 => pr 0 2 0 | 9 => pr 0 3 0 | 10 => pr 0 2 0 | 0x10 => pr 0 3 0
  | _ => if (0x100 ≤ p && p ≤ 0x102) || (0x112 ≤ p && p ≤ 0x117) then .ro else .absent

/-- Class 0x03 (14 R367, 15 R394, R395). -/
def parPwr (i p : Nat) : ParRow :=
  if i < 0x40 then (if p = 1 then flag 1 else if p = 0x100 then .ro else .absent)
  else if i = 0x40 then
    match p with
    | 1 => pr 0 3 0 | 2 => .rw (.oneOf [0, 2]) 0 | 3 => pr 0 0xFF 0 | 4 => .rw .any 0 | 5 => .rw .any 0
    | 0x10 => flag 1 | 0x11 => .rw (.rngOr 0 7 0xFF) 0xFF
    | 0x20 => pr 11400 12600 12000 | 0x21 => .rw .any 0x00800000 | 0x22 => .rw .any 0xFF8CCCCD
    | 0x23 => .rw .any 0 | 0x24 => .rw .any 0xFF000000 | 0x25 => .rw .any 0 | 0x26 => pr 20 1000 120
    | 0x27 => pr 50 1000 200 | 0x28 => pr 760 800 780 | 0x29 => pr 400 700 600 | 0x2A => pr 50 2000 400
    | 0x2B => pr 2000 10000 2500 | 0x2C => pr 4000 25000 16000 | 0x2D => pr 0 2000 0 | 0x2E => pr 500 990 900
    | 0x2F => flag 0 | 0x30 => pr 9000 12000 10500 | 0x31 => pr 0 3600000 0 | 0x32 => pr 500 20000 5000
    | _ => if (0x100 ≤ p && p ≤ 0x102) || (0x110 ≤ p && p ≤ 0x11C) then .ro else .absent
  else
    match p with
    | 1 => .rw (.rngOr 0x08 0x77 0) 0 | 2 => .rw .any 0 | 3 => .rw .any 0 | 4 => pr 48 48000 480 | 5 => flag 1
    | 0x100 => .ro | 0x101 => .ro | _ => .absent

/-- Classes 0x10 to 0x12 (06 R147 to R149). -/
def parPort (c p : Nat) : ParRow :=
  if c = 0x10 then
    match p with
    | 1 => flag 0 | 2 => flag 0 | 3 => pr 0 4 2 | 4 => pr 0 0xFF 0xFF | 5 => flag 0 | 6 => pr 0 4800 480
    | 0x100 => .ro | 0x101 => .ro | _ => .absent
  else if c = 0x11 then
    match p with
    | 1 => flag 0 | 2 => flag 0 | 3 => pr 0 4 2 | 4 => pr 0 0xF 0xF | 5 => flag 0 | 6 => pr 0 4800 0 | 7 => flag 0
    | 0x100 => .ro | 0x101 => .ro | _ => .absent
  else
    match p with
    | 1 => flag 0 | 2 => flag 0 | 3 => flag 0 | 4 => pr 0 3 2 | 5 => pr 0 6 4 | 6 => pr 1 16 2 | 7 => flag 1
    | 8 => pr 0 2 1 | 9 => pr 0 0xFFFF 3 | 0xA => pr 0 0xFFFF 3 | 0xB => flag 0 | 0xC => flag 0 | 0xD => flag 0
    | 0xE => pr 0 4800 0 | 0x100 => .ro | 0x101 => .ro | 0x102 => .ro | _ => .absent

/-- Classes 0x13 to 0x18 (07 R175 to R180). -/
def parAudio (c i p : Nat) : ParRow :=
  if c = 0x13 then (if p = 1 then pr 0 2 1 else if p = 0x100 || p = 0x101 then .ro else .absent)
  else if c = 0x14 then
    (if i = 0 then (if p < 0x100 then pr 0 0xFFFF 0xFFFF else .absent) else .rw (.rngOr 0 255 0xFFFF) 0xFFFF)
  else if c = 0x15 then
    (if p / 256 < fixedCh i then (if p % 256 = 1 then pr 0 9 2 else if p % 256 = 2 then pr 1 2 1 else .absent)
     else .absent)
  else if c = 0x16 then
    (if p = 0xFF01 then flag 0
     else if p / 256 < fixedCh i then
       (match p % 256 with
        | 1 => .rw (.srngOr (-12000) 2400 0x80000000) 0 | 2 => flag 0 | 3 => pr 1 4800 48 | 4 => pr 0 4800 480
        | _ => .absent)
     else .absent)
  else if c = 0x17 then
    match p with
    | 1 => flag 0 | 2 => pr 0 255 0 | 3 => pr 1 16 1 | 4 => .rw (.srng (-6000) 0) 0xFFFFF830
    | 5 => .rw (.rngOr 100 2000 0) 400 | 6 => pr 0 2000 0 | 7 => pr 1 4800 48 | 8 => pr 1 48000 4800
    | 9 => pr 0 96 0 | 0xA => pr 0 2400 0 | 0x100 => .ro | _ => .absent
  else
    match p with
    | 1 => pr 0 480000 48000 | 2 => pr 0 12000 2000 | 3 => pr 48 48000 14400 | _ => .absent

/-- Classes 0x20, 0x28, 0x30 (08 R212, 09 R242, 10 R266). -/
def parUnits (c i p : Nat) : ParRow :=
  if c = 0x20 then
    match p with
    | 1 => .rw (.blob 1 1) 0 | 2 => .rw (.blob 2 1) 0 | 3 => .rw (.blob 3 1) 0 | 0x100 => .ro | 0x101 => .ro
    | _ => if 0x10 ≤ p && p ≤ 0x17 then .rw (.blob 3 2) 0 else .absent
  else if c = 0x28 then
    (if i < 0x10 then
      (match p with
       | 1 => .rw (.blob 0x10 1) 0 | 2 => .rw (.blob 0x11 1) 0 | 0x100 => .ro | 0x101 => .ro | 0x102 => .ro
       | _ => .absent)
     else if i = 0x40 then (if p = 1 then .rw (.oneOf [48, 96, 192]) 48 else .absent)
     else (if p = 1 then .rw (.blob 0x12 1) 0 else .absent))
  else
    (if i < 0x40 then
      (match p with
       | 1 => pr 0 5 0 | 2 => pr 0 2 0 | 0x100 => .ro | 0x101 => .ro | 0x102 => .ro | _ => .absent)
     else if i = 0x40 then (if p = 0x100 then .ro else .absent)
     else (if p < 0x80 then .rw (.rngOr 0 63 0xFF) 0xFF else .absent))

/-- Queues, filters and wake patterns of classes 0x40 and 0x41 (12 R321, 13 R347); `np` wake patterns. -/
def parMac (p np : Nat) : ParRow :=
  if 0x20 ≤ p && p < 0x28 then pr 0 15 0
  else if 0x40 ≤ p && p < 0x4F then .rw .any 0
  else if 0x50 ≤ p && p < 0x5F then .rw (.mask 0x1FFFF) 0
  else if 0x60 ≤ p && p < 0x6F then pr 0 15 0
  else if 0x80 ≤ p && p < 0x80 + 8 * np then
    (if p % 8 < 4 then .rw .any 0 else if p % 8 = 4 then pr 0 0xFFFF 0 else .absent)
  else .absent

/-- Class 0x40 (12 R321). -/
def parNet (i p : Nat) : ParRow :=
  match p with
  | 1 => flag 0 | 2 => flag 0 | 3 => pr 0 31 i | 4 => flag 1 | 5 => pr 1 0x1F 0x1F | 6 => pr 0 7 3
  | 7 => pr 64 9018 1518 | 8 => flag 1 | 9 => flag 0 | 0xA => flag 0 | 0xB => pr 0 15 0 | 0xC => flag 1
  | 0xD => flag 0 | 0xE => pr 1 65535 65535 | 0xF => .rw (.mul 1024 65536 64) 49152
  | 0x10 => .rw (.mul 0 64512 64) 32768 | 0x11 => .rw (.mulOr0 64 9152 64) 512 | 0x12 => flag 0
  | 0x13 => .rw (.rngOr 0 63 0xFF) 0xFF | 0x14 => pr 0 0xFF 0
  | _ => if 0x100 ≤ p && p ≤ 0x105 then .ro else parMac p 8

/-- Classes 0x41 to 0x43 (13 R347 to R349). -/
def parHerd (c i p : Nat) : ParRow :=
  if c = 0x41 then
    match p with
    | 1 => flag 0 | 2 => pr 0 2 2 | 3 => pr 0 31 1 | 4 => pr 1 32 8 | 5 => pr 32 255 32 | 6 => pr 0 255 0
    | 7 => pr 0 255 128 | 8 => pr 64 9018 1518 | 9 => flag 1 | 0xA => flag 0 | 0xB => flag 0 | 0xC => pr 0 15 0
    | 0xD => .rw (.rngOr 0 63 0xFF) 0xFF | 0xE => pr 100 10000 1000 | 0xF => pr 0 15 0 | 0x10 => pr 1 64 16
    | 0x11 => pr 48 48000 480 | 0x12 => pr 0 15 5 | 0x14 => pr 0 15 0
    | _ => if 0x100 ≤ p && p ≤ 0x102 then .ro else parMac p 4
  else if c = 0x42 then
    match p with
    | 1 => flag 0 | 2 => flag 0 | 3 => pr 480 2880000 48000 | 4 => pr 48 1440000 480 | 5 => pr 10 500 100
    | 0x100 => .ro | _ => .absent
  else
    match p with
    | 1 => flag 0 | 2 => flag 0 | 3 => pr 1 8 2 | 4 => pr 0 255 0
    | 5 => if 0x30 ≤ i then pr 0 4 4 else .absent
    | 6 => if 0x30 ≤ i then pr 0 2 0 else .absent
    | 7 => .rw .any 0 | 8 => .rw (.mask 0xFFFF) 0
    | 9 => if i < 0x30 then pr 2 16 3 else .absent
    | 0xA => .rw (.rngOr 0 63 0xFF) 0xFF | 0x100 => .ro | 0x101 => .ro | _ => .absent

/-- Class 0x50 (04 R100). -/
def parFn (i p : Nat) : ParRow :=
  if p = 0 then (if i = 0 then pr 4 48 24 else .absent)
  else if p = 1 then (if i = 0 then .ro else .rw (.mask 0xFF) 2)
  else if 0x10 ≤ p && p < 0x20 then pr 0 4800 0
  else if 0x20 ≤ p && p < 0x30 then pr 1 4096 1
  else if 0x100 ≤ p && p < 0x108 then pr 0 64 0
  else if 0x110 ≤ p && p < 0x118 then pr 1 16 4
  else .absent

/-- The row of parameter `p` for instance `i` of class `c`, the instance taken to exist. -/
def parRow (c i p : Nat) : ParRow :=
  if c = 0x01 then
    (if (0x100 ≤ p && p ≤ 0x106) || p = 0x110 || (0x200 ≤ p && p ≤ 0x204) || (0x300 ≤ p && p ≤ 0x303) then .ro
     else .absent)
  else if c = 0x02 then parClk p
  else if c = 0x03 then parPwr i p
  else if 0x10 ≤ c && c ≤ 0x12 then parPort c p
  else if 0x13 ≤ c && c ≤ 0x18 then parAudio c i p
  else if c = 0x20 || c = 0x28 || c = 0x30 then parUnits c i p
  else if c = 0x40 then parNet i p
  else if 0x41 ≤ c && c ≤ 0x43 then parHerd c i p
  else if c = 0x50 then parFn i p
  else if c = 0x60 then
    match p with
    | 1 => pr 100 20000 3000 | 2 => pr 1000 2000000 400000 | 3 => pr 48 480000 48000 | 4 => pr 0 2 0
    | _ => if 0x100 ≤ p && p ≤ 0x104 then .ro else .absent
  else if c = 0x70 then (if p = 0x100 then .ro else .absent)
  else .absent

/-- Whether parameter `p` appears for some instance of class `c` (19 R456). -/
def parKnown (c p : Nat) : Bool :=
  (List.range 256).any fun i => unitOk c i && parRow c i p != .absent

/-- The catalogue (19 R456): 0x01cc_40ii is OWNER (05 R102). -/
def catalogue (id : Nat) : SetRow :=
  let c := id / 0x1000000
  let i := id / 0x10000 % 256
  let p := id % 0x10000
  if c = 0x01 && p / 256 = 0x40 then
    if !delegable i then .unknown else if !unitOk i (p % 256) then .noUnit else .rw (.rng 0 15) 0
  else if unitOk c i then
    match parRow c i p with
    | .absent => .unknown
    | .ro => .ro
    | .rw r d => .rw r d
  else if parKnown c p then .noUnit else .unknown

/-- Default of a setting; 0 for an ID that names none. -/
def settingDefault (id : Nat) : Word :=
  match catalogue id with
  | .rw _ d => BitVec.ofNat 32 d
  | _ => 0

/-- Whether a setting is blob-typed, and the KIND and VERSION it takes (05 R106). -/
def blobKind (id : Nat) : Option (Nat × Nat) :=
  match catalogue id with
  | .rw (.blob k v) _ => some (k, v)
  | _ => none

/-- Setting ID of class, instance and parameter (00, Notation). -/
def sid (c i p : Nat) : Nat := c * 0x1000000 + i * 0x10000 + p

/-- A setting's value in a set of active copies. -/
def cfgOf (m : Map Word) (id : Nat) : Word :=
  match m.find? (fun e => e.1 = id) with
  | some e => e.2
  | none => settingDefault id

/-- The same, by class, instance and parameter, as a number. -/
def cfgN (m : Map Word) (c i p : Nat) : Nat := (cfgOf m (sid c i p)).toNat

/-- Set a setting in a set of active copies. -/
def cfgSet (m : Map Word) (id : Nat) (v : Word) : Map Word := tset (settingDefault id) m id v

end Sys2Proof.Machine
end

