-- ==== Sys2Proof/Machine/Fabric.lean ====
section
/-! DEFINITION. Machine/Fabric.lean: the internal address map and its refusals (01 R14, R15), and the bytes a fabric access sees,
with the coherence of 11 R272 and R274. -/

namespace Sys2Proof.Machine

/-- Standalone mode (17 R417). -/
def State.standalone (s : State) : Bool := s.boot.mode == 2

/-- Host mode (17 R417): modes 0b000 and 0b001. -/
def State.hostMode (s : State) : Bool := s.boot.mode == 0 || s.boot.mode == 1

/-- A setting's active value (05 R101). -/
def State.cfg (s : State) (c i p : Nat) : Nat := cfgN s.cmt.cfg c i p

/-- The same, as a word. -/
def State.cfgW (s : State) (c i p : Nat) : Word := cfgOf s.cmt.cfg (sid c i p)

/-- Whether a domain is powered (14 R351). -/
def State.domOn (s : State) (d : Nat) : Bool := tget .off s.pwr.dom d == .on

/-- A bank's record. -/
def State.bank (s : State) (b : Nat) : BankSt := tget {} s.vat.banks b

/-- A bank is On in fact (10 R250, R255, R257). -/
def State.bankOn (s : State) (b : Nat) : Bool := (s.bank b).pwr == .on && s.domOn (49 + b / 16)

/-- A core's record. -/
def State.core (s : State) (c : Nat) : CoreSt := tget {} s.cc.cores c

/-- Fitted LPDDR5 capacity in bytes (11 R280, R293). -/
def State.fitted (s : State) : Nat := 2 * 2 ^ fld s.cc.memCfg.toNat 1 2 * 0x40000000

/-- Usable LPDDR5 capacity (01 R14, 11 R281): a reserved DENSITY never trains (11 R293). -/
def State.usable (s : State) : Nat :=
  if bit s.cc.memCfg.toNat 0 then s.fitted / 8 * 7 else s.fitted

/-- Regions of the internal address map (01 R14). -/
inductive Region where
  | bootRom | aonSram | setup
  | vat (bank : Nat)
  | sepWeights (tile : Nat)
  | sepLut (tile : Nat)
  | churn (pu : Nat)
  | lpddr
  | reserved
deriving DecidableEq, Repr

/-- The region of an address. -/
def State.region (s : State) (a : Nat) : Region :=
  if a < 0x10000 then .bootRom
  else if 0x01000000 ≤ a && a < 0x01040000 then .aonSram
  else if 0x10000000 ≤ a && a < 0x11000000 then .setup
  else if 0x40000000 ≤ a && a < 0x41000000 then .vat ((a - 0x40000000) / 0x40000)
  else if 0x50000000 ≤ a && a < 0x51000000 then .sepWeights ((a - 0x50000000) / 0x200000)
  else if 0x51000000 ≤ a && a < 0x51010000 then .sepLut ((a - 0x51000000) / 0x2000)
  else if 0x60000000 ≤ a && a < 0x60800000 then
    (if (a - 0x60000000) % 0x100000 < 0x4C000 then .churn ((a - 0x60000000) / 0x100000) else .reserved)
  else if 0x80000000 ≤ a && a < 0x80000000 + s.usable then .lpddr
  else .reserved

/-- MASTER codes that a bank's role admits to write through port B (10 R245). -/
def roleAdmits (role master : Nat) : Bool :=
  if role = 0 then true
  else if role = 1 then master == 5 || master == 0xB
  else if role = 2 then master == 4 || master == 5 || master == 0xB
  else if role = 3 then master == 9 || master == 0xA || master == 0xB
  else if role = 4 then master == 4 || master == 0xB
  else (7 ≤ master && master ≤ 0xA) || master == 4 || master == 0xB

/-- A bank is under a destructive test (10 R262). -/
def State.underTest (s : State) (b : Nat) : Bool := s.vat.march.busy && !s.vat.march.pres && s.vat.march.bank == b

/-- KIND of the refusal of an access at an address, none when it is admitted (01 R15, R20). -/
def State.refusal (s : State) (master a : Nat) (write : Bool) : Option Nat :=
  match s.region a with
  | .reserved => some 0
  | .setup => none
  | .aonSram => none
  | .bootRom => if !s.domOn 59 then some 2 else if write then some 1 else none
  | .vat b =>
    if !s.bankOn b || s.time.ckeOff then some 2
    else if s.underTest b && master != 0xB then some 2
    else if write && !roleAdmits (s.cfg 0x30 b 1) master then some 1 else none
  | .sepWeights t => if !s.domOn (40 + t) then some 2 else if write && master != 5 then some 1 else none
  | .sepLut t => if !s.domOn (40 + t) then some 2 else if write && master != 5 then some 1 else none
  | .churn p => if !s.domOn (11 + p) then some 2 else if write && master != 5 then some 1 else none
  | .lpddr => if !s.cc.ready || !s.domOn 7 || !s.domOn 8 then some 2 else none

/-- The addresses at which a transfer enters each 64-byte line, and its last byte. -/
def linesOf (a n : Nat) : List Nat :=
  a :: (List.range (n / 64 + 1)).filterMap (fun k => let x := (a / 64 + 1 + k) * 64; if x < a + n then some x else none)
    ++ (if n = 0 then [] else [a + n - 1])

/-- KIND of the refusal of a transfer of `n` bytes, by its first refused line. -/
def State.refusalOf (s : State) (master a n : Nat) (write : Bool) : Option Nat :=
  (linesOf a n).findSome? fun x => s.refusal master x write

/-! ### Vats: rows, spares, the lock register (10 R244, R260, R263) -/

/-- The spare row that stands for row `r` of bank `b`: the lowest-numbered valid entry (10 R263). -/
def State.spareOf (s : State) (b r : Nat) : Option Nat :=
  firstFrom (fun k => let e := (tget 0 s.vat.repair (4 * b + k)).toNat; bit e 15 && fld e 0 9 == r) 4

/-- Key in `mem` of the cells behind a Vat byte: spare rows lie above the 40-bit address space (10 R263, log 87). -/
def State.vatCell (s : State) (a : Nat) : Nat :=
  let o := a - 0x40000000
  match s.spareOf (o / 0x40000) (o % 0x40000 / 512) with
  | some k => 0x10000000000 + (4 * (o / 0x40000) + k) * 512 + a % 512
  | none => a

/-- The lock register, where the march engine has locked the word of an address (10 R260). -/
def State.lockOf (s : State) (a : Nat) : Option (BitVec 64) :=
  match s.vat.march.lock with
  | some (w, v) => if 0x40000000 + s.vat.march.bank * 0x40000 + 8 * w = a / 8 * 8 then some v else none
  | none => none

/-- A 64-bit word with byte `k` replaced. -/
def putByte64 (v : BitVec 64) (k : Nat) (b : Byte) : BitVec 64 :=
  BitVec.ofNat 64 (v.toNat - (v.toNat >>> (8 * k)) % 256 * 2 ^ (8 * k) + b.toNat * 2 ^ (8 * k))

/-- A byte of a Vat as both ports see it. -/
def State.vatByte (s : State) (a : Nat) : Byte :=
  match s.lockOf a with
  | some v => BitVec.ofNat 8 (v.toNat >>> (8 * (a % 8)))
  | none => byteAt s.mem (s.vatCell a)

/-- `n` bytes of a Vat. -/
def State.vatBytes (s : State) (a n : Nat) : List Byte := (List.range n).map fun i => s.vatByte (a + i)

/-- Store a byte of a Vat: into the lock register where its word is locked. -/
def State.vatPutByte (s : State) (a : Nat) (v : Byte) : State :=
  match s.lockOf a with
  | some r => s.setVat { s.vat with march := { s.vat.march with lock := s.vat.march.lock.map fun x => (x.1, putByte64 r (a % 8) v) } }
  | none => s.setMem (tset 0 s.mem (s.vatCell a) v)

/-- Store bytes of a Vat. -/
def State.vatPut (s : State) (a : Nat) : List Byte → State
  | [] => s
  | b :: r => (s.vatPutByte a b).vatPut (a + 1) r

/-! ### Lines (11 R271, R272, R283, R285) -/

/-- A line's coherence record (11 R272). -/
def State.line (s : State) (l : Nat) : LineC := tget {} s.cc.lines l

/-- Replace a line's record. -/
def State.putLineC (s : State) (line : Nat) (v : LineC) : State := s.setCc { s.cc with lines := tset {} s.cc.lines line v }

/-- Replace a core's record. -/
def State.putCore (s : State) (c : Nat) (v : CoreSt) : State := s.setCc { s.cc with cores := tset {} s.cc.cores c v }

/-- A core's cache state of a line. -/
def LineC.at (l : LineC) (c : Nat) : Mesi := tget .i l.l1 c

/-- Set a core's cache state of a line; only an M owner's data are kept apart from L2's. -/
def LineC.put (l : LineC) (c : Nat) (st : Mesi) (d : BitVec 512) : LineC :=
  { l with l1 := tset .i l.l1 c st, l1d := if st = .m then tset 0 l.l1d c d else tdel l.l1d c }

/-- A core's counters that select an event count it (11 R293). -/
def State.hpm (s : State) (c evt : Nat) : State :=
  let r := s.core c
  s.putCore c { r with hpm := [3, 4, 5, 6].foldl (fun m k =>
    if (tget 0 r.hpmEvt k).toNat = evt then tset 0 m k (tget 0 m k + 1) else m) r.hpm }

/-- A snoop takes a line away from every core but one: a reservation on it is lost (11 R285). -/
def State.loseResv (s : State) (line keep : Nat) : State :=
  [0, 1, 2, 3].foldl (fun s c =>
    if c != keep && (s.core c).resv = some line then s.putCore c { s.core c with resv := none } else s) s

/-- The home slice snoops the data caches that the presence vector names, one apart (11 R271, R293). -/
def State.snoop (s : State) (line keep : Nat) : State :=
  [0, 1, 2, 3].foldl (fun s c => if c != keep && (s.line line).at c != .i then s.hpm c 4 else s) s

/-- The core that holds a line in M. -/
def LineC.owner (l : LineC) : Option Nat := firstFrom (fun c => tget .i l.l1 c == .m) 4

/-- The lines that the home slices handle: boot ROM, AON SRAM, LPDDR5 (11 R270). -/
def State.cacheable (s : State) (a : Nat) : Bool :=
  match s.region a with
  | .bootRom => true
  | .aonSram => true
  | .lpddr => true
  | _ => false

/-- Byte `o` of a line held as 512 bits, byte 0 lowest. -/
def lineByte (d : BitVec 512) (o : Nat) : Byte := BitVec.ofNat 8 (d.toNat >>> (8 * o))

/-- A line with bytes stored from offset `o`. -/
def putLine (d : BitVec 512) (o : Nat) : List Byte → BitVec 512
  | [] => d
  | v :: r => putLine (BitVec.ofNat 512 (d.toNat - (lineByte d o).toNat * 2 ^ (8 * o) + v.toNat * 2 ^ (8 * o))) (o + 1) r

/-- The 512 bits of 64 bytes. -/
def lineOfBytes (b : List Byte) : BitVec 512 := BitVec.ofNat 512 (leNat (b.take 64))

/-- The writeback buffer entry that still owns a line: core, entry, data (11 R273, R283). -/
def State.wbHit (s : State) (line : Nat) : Option (Nat × Nat × BitVec 512) :=
  (List.range 4).findSome? fun c => (s.core c).wb.findSome? fun e =>
    if e.2.line = line && !e.2.absorbed then some (c, e.1, e.2.data) else none

/-- The entry's token is marked as absorbed (11 R283). -/
def State.absorbWb (s : State) (line : Nat) : State :=
  match s.wbHit line with
  | none => s
  | some (c, k, _) =>
    let r := s.core c
    let e := tget {} r.wb k
    (s.putCore c { r with wb := tset {} r.wb k { e with absorbed := true } }).hpm c 4

/-- The 64 bytes of a line as every coherent reader sees them: the M owner's, a writeback entry's, L2's, or memory's (11 R272, R274,
R283). -/
def State.lineData (s : State) (line : Nat) : BitVec 512 :=
  let l := s.line line
  match l.owner with
  | some c => tget 0 l.l1d c
  | none =>
    match s.wbHit line with
    | some x => x.2.2
    | none => if l.inL2 then l.l2d else lineOfBytes (memBytes s.mem (64 * line) 64)

/-- One byte of it. -/
def State.cohByte (s : State) (a : Nat) : Byte :=
  let l := s.line (a / 64)
  if l.owner.isSome || l.inL2 || (s.wbHit (a / 64)).isSome then lineByte (s.lineData (a / 64)) (a % 64) else byteAt s.mem a

/-- A PU's record. -/
def State.pu (s : State) (p : Nat) : PuSt := tget {} s.churn.pus p

/-- A byte of a PU's window (01 R14): active copies from the PU, shadow copies from memory. -/
def State.churnByte (s : State) (a : Nat) : Byte :=
  let o := (a - 0x60000000) % 0x100000
  let u := s.pu ((a - 0x60000000) / 0x100000)
  if 0x20000 ≤ o && o < 0x40000 then BitVec.ofNat 8 ((tget 0 u.prog ((o - 0x20000) / 8)).toNat >>> (8 * (o % 8)))
  else if 0x44000 ≤ o && o < 0x48000 then
    let k := (o - 0x44000) / 4
    let v := match u.glides.find? (fun e => e.1 = k) with
      | some g => g.2.v
      | none => tget 0 u.coef k
    BitVec.ofNat 8 (v.toNat >>> (8 * (o % 4)))
  else if 0x48000 ≤ o && o < 0x4C000 then BitVec.ofNat 8 ((tget 0 u.lut ((o - 0x48000) / 4)).toNat >>> (8 * (o % 4)))
  else byteAt s.mem a

/-- A byte of the internal address space as a fabric read sees it; register space is read by its own operation. -/
def State.busByte (s : State) (a : Nat) : Byte :=
  match s.region a with
  | .churn _ => s.churnByte a
  | .setup => 0
  | .reserved => 0
  | .vat _ => s.vatByte a
  | _ => if s.cacheable a then s.cohByte a else byteAt s.mem a

/-- `n` bytes of the internal address space. -/
def State.busBytes (s : State) (a n : Nat) : List Byte := (List.range n).map fun i => s.busByte (a + i)

/-- IOWrite of one byte (11 R274, R285): an M owner's data go to L2, every L1 copy is invalidated and with it a reservation, the byte
is merged. -/
def State.ioWriteByte (s : State) (a : Nat) (v : Byte) : State :=
  let s := (s.snoop (a / 64) 4).loseResv (a / 64) 4
  let l := s.line (a / 64)
  if l.inL2 then
    let d := putLine (s.lineData (a / 64)) (a % 64) [v]
    let s := s.absorbWb (a / 64)
    s.putLineC (a / 64) { l with l1 := [], l1d := [], ic := 0, l2d := d, dirty := true }
  else s.setMem (tset 0 s.mem a v)

/-- A line wholly overwritten is no longer poisoned (11 R288). -/
def State.clearPoison (s : State) (a n : Nat) : State :=
  (linesOf a n).foldl (fun s x =>
    if a ≤ x / 64 * 64 ∧ x / 64 * 64 + 64 ≤ a + n then
      s.putLineC (x / 64) { s.line (x / 64) with poison := false }
    else s) s

/-- The commit unit writes a byte of a PU's lookup-table memory (01 R14, R15). -/
def State.lutPutByte (s : State) (a : Nat) (v : Byte) : State :=
  let p := (a - 0x60000000) / 0x100000
  let u := s.pu p
  let k := ((a - 0x60000000) % 0x100000 - 0x48000) / 4
  let w := (tget 0 u.lut k).toNat
  let sh := 8 * (a % 4)
  s.setChurn { s.churn with pus := tset {} s.churn.pus p { u with lut := tset 0 u.lut k (BitVec.ofNat 32 (w - (w >>> sh) % 256 * 2 ^ sh + v.toNat * 2 ^ sh)) } }

/-- Store one byte of the internal address space, as a fabric write does; register space and read-only copies keep theirs. -/
def State.busPutByte (s : State) (a : Nat) (v : Byte) : State :=
  match s.region a with
  | .reserved => s
  | .setup => s
  | .bootRom => s
  | .churn _ =>
    let o := (a - 0x60000000) % 0x100000
    if 0x48000 ≤ o then s.lutPutByte a v
    else if (0x20000 ≤ o && o < 0x40000) || 0x44000 ≤ o then s else s.setMem (tset 0 s.mem a v)
  | .vat _ => s.vatPutByte a v
  | _ => if s.cacheable a then s.ioWriteByte a v else s.setMem (tset 0 s.mem a v)

/-- Store bytes from an address upwards. -/
def State.busPut (s : State) (a : Nat) : List Byte → State
  | [] => s
  | b :: r => (s.busPutByte a b).busPut (a + 1) r

/-- A fabric write of a transfer. -/
def State.busWrite (s : State) (a : Nat) (bs : List Byte) : State := (s.busPut a bs).clearPoison a bs.length

/-- A transfer touches a poisoned line (11 R288). -/
def State.poisonedIn (s : State) (a n : Nat) : Bool := (linesOf a n).any fun x => (s.line (x / 64)).poison

end Sys2Proof.Machine
end

