-- ==== Sys2Proof/Machine/Base.lean ====
section
/-! DEFINITION. Machine/Base.lean: free values, counters (04 R78, 19 R458), the records of functions and rings, posting events (04 R83),
bus refusals (01 R17, R20), units, and what a read of a Vat word finds (10 R253, R254). -/

namespace Sys2Proof.Machine

/-- The block of a tick (02 R22). -/
def blockOf (t : BitVec 64) : Nat := t.toNat / 48

/-- Draw a fresh free value (log 2). -/
def State.draw (s : State) : State × BitVec 64 :=
  (s.setTime { s.time with free := s.time.free + 1 }, Config.freeValue s.time.free)

/-! ### Counters -/

/-- Key of a counter: class, instance, place in STATS_SNAP order. -/
def cntKey (c i p : Nat) : Nat := c * 65536 + i * 256 + p

/-- Add to a saturating counter (19 R458). -/
def State.bumpBy (s : State) (c i p n : Nat) : State :=
  s.setCnt (tmod 0 s.cnt (cntKey c i p) fun w => satAdd32 w n)

/-- Add one to a saturating counter. -/
def State.bump (s : State) (c i p : Nat) : State := s.bumpBy c i p 1

/-- A counter's value. -/
def State.count (s : State) (c i p : Nat) : Word := tget 0 s.cnt (cntKey c i p)

/-! ### Functions, rings, vectors -/

/-- A function's record. -/
def State.fnOf (s : State) (f : Nat) : FnSt := tget {} s.host.fns f

/-- Replace a function's record. -/
def State.putFn (s : State) (f : Nat) (v : FnSt) : State := s.setHost { s.host with fns := tset {} s.host.fns f v }

/-- A ring's record, by global number (04 R74). -/
def State.ring (s : State) (g : Nat) : RingSt := tget {} s.host.rings g

/-- Replace a ring's record. -/
def State.putRing (s : State) (g : Nat) (v : RingSt) : State := s.setHost { s.host with rings := tset {} s.host.rings g v }

/-- A vector's record: vector v of function f is number 16f + v. -/
def State.vec (s : State) (k : Nat) : VecSt := tget {} s.host.vecs k

/-- Replace a vector's record. -/
def State.putVec (s : State) (k : Nat) (v : VecSt) : State := s.setHost { s.host with vecs := tset {} s.host.vecs k v }

/-- A window's record: window w of function f is number 8f + w. -/
def State.win (s : State) (k : Nat) : WinSt := tget {} s.host.wins k

/-- RNG_CFG.DIR = 1 (04 R99). -/
def RingSt.isCq (r : RingSt) : Bool := bit r.cfg.toNat 1
/-- Number of entries. -/
def RingSt.size (r : RingSt) : Nat := 2 ^ fld r.cfg.toNat 2 4
/-- Index of the completion ring. -/
def RingSt.cq (r : RingSt) : Nat := fld r.cfg.toNat 6 3
/-- MSI-X vector. -/
def RingSt.vector (r : RingSt) : Nat := fld r.cfg.toNat 9 4
/-- IRQ_EN. -/
def RingSt.irqEn (r : RingSt) : Bool := bit r.cfg.toNat 13
/-- ROLE. -/
def RingSt.role (r : RingSt) : Nat := fld r.cfg.toNat 14 2
/-- RNG_STATUS.BUSY (04 R99). A written ENABLE that waits for its sweep makes the ring BUSY, so that RNG_CFG and RNG_BASE keep their values
until it is judged (log 94). -/
def RingSt.busy (r : RingSt) : Bool := r.on || r.want || !r.reqs.isEmpty
/-- First byte of the ring: bits below its size in bytes read as 0 (04 R99). -/
def RingSt.start (r : RingSt) : Nat :=
  let n := r.size * (if r.isCq then 16 else 32)
  r.base.toNat / n * n
/-- The ring is served: enabled and not stopped by an error. -/
def RingSt.live (r : RingSt) : Bool := r.on && !r.err
/-- Entries written and not yet read (04 R74). -/
def RingSt.used (r : RingSt) : Nat := (r.idx + r.size - r.head) % r.size
/-- Slots of a completion ring that are neither used nor reserved (04 R80). -/
def RingSt.free (r : RingSt) : Nat := r.size - 1 - r.used - r.resv

/-- Global number of the completion ring that a submission ring names. -/
def State.cqOf (s : State) (g : Nat) : Nat := 8 * (g / 8) + (s.ring g).cq

/-- The ring engine runs: its domain and the fabric are on (14 R351). -/
def State.engineOn (s : State) : Bool := s.domOn 10

/-- Whether a function exists (04 R67). -/
def State.fnExists (s : State) (f : Nat) : Bool :=
  f == 0 || (f < 16 && (s.standalone || (s.pcie.vfEnable && f ≤ s.pcie.numVfs.toNat)))

/-- Whether a function holds a right (04 R73). -/
def State.right (s : State) (f b : Nat) : Bool := f == 0 || bit (s.cfg 0x50 f 1) b

/-- A bus-side master is there: the fabric and its own domain are on; a core runs (01, Bus masters; 14 R351, 17 R428). -/
def State.masterUp (s : State) (m f : Nat) : Bool :=
  s.domOn 6
    && (if m < 4 then s.domOn m && (s.core m).run == .running
        else if m = 4 then s.engineOn
        else if m = 5 then s.domOn 19
        else if m = 6 then s.hostMode && s.pcie.linkUp && s.domOn 9 && s.fnExists f
        else if m < 9 then s.domOn (53 + (m - 7))
        else if m < 0xB then s.domOn (55 + (m - 9))
        else if m = 0xB then s.domOn 62
        else if m = 0xC then s.domOn 61
        else m == 0xD && s.domOn 60 && !s.boot.debugClosed)

/-- SLOT of the present tick, or the XO cycles since the last AON tick: no less than an earlier reading of the tick showed (11 R275,
log 86). -/
def State.atSlot (s : State) (slot : Nat) : State × Nat :=
  let k := max slot s.time.slotSeen
  (s.setTime { s.time with slotSeen := k }, k)

/-- The same, where the command names no slot: a free value. -/
def State.someSlot (s : State) : State × Nat :=
  let x := s.draw
  let n := if s.time.ckeOff then 512 else 20480
  x.1.atSlot (s.time.slotSeen + x.2.toNat % (n - s.time.slotSeen))

/-! ### Events -/

/-- Post an event to a function's event ring; it is written at the end of the tick (19 R455). -/
def State.post (s : State) (f : Nat) (code reason : Nat) : State :=
  s.setHost { s.host with posted := s.host.posted ++ [{ fn := f, code := BitVec.ofNat 16 code, reason := BitVec.ofNat 16 reason }] }

/-- Post a device-wide event (04 R83). -/
def State.post0 (s : State) (code reason : Nat) : State := s.post 0 code reason

/-- Post an event about a function's own rings or record, with a copy to function 0 (04 R83). -/
def State.postOwn (s : State) (f code reason : Nat) : State :=
  let s := s.post f code reason
  if f = 0 then s else s.post0 code reason

/-- A class and a unit in REASON form (04 R81). -/
def unitReason (c i : Nat) : Nat := c * 256 + i % 256

/-! ### Bus refusals -/

/-- Capture a refused access (01 R17, R20). -/
def State.capture (s : State) (master func kind addr : Nat) (write : Bool) : State :=
  let e := s.bus.err
  if e.valid then
    s.setBus { s.bus with err := { e with count := BitVec.ofNat 8 (min (e.count.toNat + 1) 255) } }
  else
    (s.setBus { s.bus with err :=
      { master := BitVec.ofNat 4 master,
        func := if master = 4 || master = 6 then BitVec.ofNat 4 func else 0,
        write := write, kind := BitVec.ofNat 2 kind, count := 1, valid := true, addr := BitVec.ofNat 40 addr } }).post0 4 0

/-! ### What a read of a Vat word finds (10 R253, R254) -/

/-- Internal address of byte 0 of a bank (10 R244). -/
def bankBase (b : Nat) : Nat := 0x40000000 + b * 0x40000

/-- Bank and word of an address in the Vats. -/
def vatBankOf (a : Nat) : Nat := (a - 0x40000000) / 0x40000
def vatWordOf (a : Nat) : Nat := (a - 0x40000000) % 0x40000 / 8

/-- Replace a bank's record. -/
def State.putBank (s : State) (b : Nat) (v : BankSt) : State := s.setVat { s.vat with banks := tset {} s.vat.banks b v }

/-- The 72 cells of the word at an address: the codeword of its data, but for the cells that no longer hold it (10 R253). -/
def State.vatCodeword (s : State) (a : Nat) : BitVec 72 :=
  let d := BitVec.ofNat 64 (leNat (memBytes s.mem (s.vatCell (a / 8 * 8)) 8))
  BitVec.ofNat 72 ((Config.checkBits d).toNat * 2 ^ 64 + d.toNat) ^^^ tget 0 s.vat.cells (s.vatCell a / 8)

/-- What decoding the word at an address finds: one wrong cell is corrected, two are detected (10 R253). A locked word is read from the
lock register (10 R260). -/
def State.vatDecode (s : State) (a : Nat) : Ecc :=
  if (s.lockOf a).isSome then .ok
  else
    let n := popcount (tget 0 s.vat.cells (s.vatCell a / 8)).toNat 72
    if n = 0 then .ok else if n = 1 then .corrected else .uncorrectable

/-- Cells of a word lose what was written, so that its next read finds at least `e` (log 79). -/
def State.upset (s : State) (a : Nat) (e : Ecc) : State :=
  let k := s.vatCell a / 8
  let m := tget 0 s.vat.cells k
  match e, s.vatDecode a with
  | .corrected, .ok => s.setVat { s.vat with cells := tset 0 s.vat.cells k 1 }
  | .uncorrectable, .ok => s.setVat { s.vat with cells := tset 0 s.vat.cells k 3 }
  | .uncorrectable, .corrected => s.setVat { s.vat with cells := tset 0 s.vat.cells k (m ^^^ (if m = 1 then 2 else 1)) }
  | _, _ => s

/-- Every cell of a word holds what was written. -/
def State.sound (s : State) (a : Nat) : State := s.setVat { s.vat with cells := tdel s.vat.cells (s.vatCell a / 8) }

/-- An uncorrectable word: UNCORR, LAST_UNCORR, and VAT_ECC once per bank per tick (10 R254). -/
def State.vatUncorr (s : State) (b word : Nat) : State :=
  let s := s.bump 0x30 b 1
  let r := s.bank b
  let s' := s.putBank b { r with lastUncorr := BitVec.ofNat 32 word, eccTick := some s.time.tick }
  if r.eccTick = some s.time.tick then s' else s'.post0 0x42 (unitReason 0x30 b)

/-- A corrected word: CORR, and a write-back pending unless one is (10 R254, R264). -/
def State.vatCorr (s : State) (b word : Nat) : State :=
  let s := s.bump 0x30 b 0
  let r := s.bank b
  if r.scrub.any (fun e => e.1 = word) then s
  else s.putBank b { r with scrub := r.scrub ++ [(word, BitVec.ofNat 64 (leNat (s.vatBytes (bankBase b + 8 * word) 8)))] }

/-- A write to a word drops its pending write-back (10 R254). -/
def State.dropScrub (s : State) (b word : Nat) : State :=
  let r := s.bank b
  if r.scrub.any (fun e => e.1 = word) then s.putBank b { r with scrub := r.scrub.filter fun e => e.1 != word } else s

/-- What the check of a word read finds: counts and events. -/
def State.vatCheck (s : State) (b word : Nat) (e : Ecc) : State :=
  match e with
  | .ok => s
  | .corrected => s.vatCorr b word
  | .uncorrectable => s.vatUncorr b word

/-- A read of the word at an address, by either port: checked; what it finds (10 R253, R254). -/
def State.vatTouch (s : State) (a : Nat) : State × Ecc :=
  let e := s.vatDecode a
  (s.vatCheck (vatBankOf a) (vatWordOf a) e, e)

/-- Words of a transfer of `n` bytes, as addresses. -/
def vatWords (a n : Nat) : List Nat := (List.range ((a % 8 + n + 7) / 8)).map fun k => a / 8 * 8 + 8 * k

/-- A read of all the words of a transfer: whether one of them could not be corrected. -/
def State.vatTouches (s : State) (ws : List Nat) : State × Bool :=
  ws.foldl (fun x w => let t := x.1.vatTouch w; (t.1, x.2 || t.2 == .uncorrectable)) (s, false)

/-- A write of bytes of one word: a part of the word is merged, so the word is read first; where that cannot be corrected the other
bytes become 0. The word then holds a codeword again (10 R249, R253, R254). Answers whether the word could not be corrected. -/
def State.vatStoreWord (s : State) (a : Nat) (bs : List Byte) : State × Bool :=
  let w := a / 8 * 8
  let t : State × Ecc := if bs.length = 8 then (s, .ok) else s.vatTouch w
  let s := if t.2 = .uncorrectable then t.1.vatPut w (List.replicate 8 0) else t.1
  let s := (s.vatPut a bs).dropScrub (vatBankOf a) (vatWordOf a)
  (if (s.lockOf a).isSome then s else s.sound a, t.2 == .uncorrectable)

/-- The part of bytes from address `a` that lies in the word at `w`: its address and bytes. -/
def partIn (a : Nat) (bs : List Byte) (w : Nat) : Nat × List Byte :=
  let lo := max a w
  (lo, (bs.drop (lo - a)).take (w + 8 - lo))

/-- A write of bytes, word by word, but for the words of a list: whether some word could not be corrected. -/
def State.vatStores (s : State) (a : Nat) (bs : List Byte) (skip : List Nat) : State × Bool :=
  (vatWords a bs.length).foldl (fun x w =>
    if skip.contains w then x
    else
      let p := partIn a bs w
      let t := x.1.vatStoreWord p.1 p.2
      (t.1, x.2 || t.2)) (s, false)

/-- Port A read of a 32-bit half, with what its check finds: 0 from a bank that is not On, and 0 where the word is uncorrectable (10 R250,
R254). -/
def State.portARead (s : State) (a : Nat) (e : Ecc) : State × Word × Ecc :=
  if !s.bankOn (vatBankOf a) then (s, 0, .ok)
  else
    let t := (s.upset (a / 8 * 8) e).vatTouch (a / 8 * 8)
    (t.1, if t.2 = .uncorrectable then 0 else BitVec.ofNat 32 (leNat (s.vatBytes a 4)), t.2)

/-- Port A write of a 32-bit half, merged into its word; discarded by a bank that is not On (10 R249, R250, R254). -/
def State.portAWrite (s : State) (a : Nat) (v : Word) : State :=
  if !s.bankOn (vatBankOf a) then s else (s.vatStoreWord a (leBytes 4 v.toNat)).1

/-- WLOST at a bank: counted, VAT_WLOST once per block (10 R251, R252). -/
def State.wlost (s : State) (b : Nat) : State :=
  let s := s.bump 0x30 b 2
  let r := s.bank b
  let blk := BitVec.ofNat 64 (blockOf s.time.tick)
  if r.wlostBlk = some blk then s else (s.putBank b { r with wlostBlk := some blk }).post0 0x43 (unitReason 0x30 b)

/-! ### Host audio streams -/

/-- The host-audio record of a ring. -/
def State.haudio (s : State) (g : Nat) : HostAudio := tget {} s.host.audio g

/-- Replace a host-audio record. -/
def State.putHaudio (s : State) (g : Nat) (v : HostAudio) : State :=
  s.setHost { s.host with audio := tset {} s.host.audio g v }

/-- AUDIO_CH of a ring (04 R100). -/
def State.audioCh (s : State) (g : Nat) : Nat := s.cfg 0x50 (g / 8) (0x100 + g % 8)

/-- AUDIO_DEPTH of a ring. -/
def State.audioDepth (s : State) (g : Nat) : Nat := s.cfg 0x50 (g / 8) (0x110 + g % 8)

/-- AUDIO_STAGE of a ring: the bank that stages it (10 R248). -/
def State.audioStage (s : State) (g : Nat) : Nat := s.cfg 0x30 0x41 g

/-- Bytes of a buffer of 48 frames. -/
def AudioBuf.len (b : AudioBuf) : Nat := 192 * b.ch

/-- The buffers of a ring that hold audio. -/
def HostAudio.live (h : HostAudio) : List AudioBuf := h.staged ++ h.playing.toList ++ h.cap.toList ++ h.written

/-- A free buffer of a ring's reservation: the lowest of its AUDIO_DEPTH + 1 places that no buffer in use overlaps (10 R248, log 95). -/
def State.freeBuf (s : State) (g : Nat) : AudioBuf :=
  let h := s.haudio g
  let n := 192 * s.audioCh g
  let at_ (k : Nat) : Nat := bankBase (s.audioStage g) + h.base + k * n
  let free (k : Nat) : Bool := h.live.all fun b => decide (b.addr + b.len ≤ at_ k) || decide (at_ k + n ≤ b.addr)
  { addr := at_ ((firstFrom free (s.audioDepth g + 1)).getD 0), ch := s.audioCh g }

/-- Port A reads frame j of a buffer, in H1 (10 R245, R250, R254). -/
def State.readFrame (s : State) (b : AudioBuf) (j : Nat) : State × Frame :=
  (List.range b.ch).foldl (fun x c => let t := x.1.portARead (b.addr + 4 * (j * b.ch + c)) .ok; (t.1, x.2 ++ [t.2.1])) (s, [])

/-- Port A writes frame j of a buffer, in H1. -/
def State.writeFrame (s : State) (b : AudioBuf) (j : Nat) (f : Frame) : State :=
  (List.range b.ch).foldl (fun s c => s.portAWrite (b.addr + 4 * (j * b.ch + c)) (nth 0 f c)) s

/-- The ring engine writes a staged buffer through port B: false where the bank refuses it (01 R15, 10 R250). -/
def State.stageWrite (s : State) (g : Nat) (b : AudioBuf) (bs : List Byte) : State × Bool :=
  match s.refusal 4 b.addr true with
  | some k => (s.capture 4 (g / 8) k b.addr true, false)
  | none => ((s.vatStores b.addr bs []).1, true)

/-- The ring engine reads a captured buffer through port B: none where the bank refuses it or a word cannot be corrected (10 R254). -/
def State.stageRead (s : State) (g : Nat) (b : AudioBuf) : State × Option (List Byte) :=
  match s.refusal 4 b.addr false with
  | some k => (s.capture 4 (g / 8) k b.addr false, none)
  | none =>
    let t := s.vatTouches (vatWords b.addr b.len)
    (t.1, if t.2 then none else some (s.vatBytes b.addr b.len))

/-- A ring carries a stream of a role: PLAY 1 or CAPTURE 2, enabled, or disabled with descriptors still to complete (04 R88, R89, R94). -/
def State.audioRing (s : State) (g role : Nat) : Bool :=
  let r := s.ring g
  0 < s.audioCh g && ((r.on && !r.isCq && r.role == role)
    || r.reqs.any fun q => q.desc.opcode.toNat == (if role = 1 then 0x11 else 0x10) && q.live && q.ended.isNone)

/-! ### Units -/

/-- A unit's epoch, quiesce and disagreement record (17 R422). -/
def State.unitOf (s : State) (c i : Nat) : UnitSt := tget {} s.units (c * 256 + i)

/-- Replace a unit's record. -/
def State.putUnit (s : State) (c i : Nat) (v : UnitSt) : State := s.setUnits (tset {} s.units (c * 256 + i) v)

end Sys2Proof.Machine
end

