-- ==== Sys2Proof/Machine/RegRead.lean ====
section
/-! DEFINITION. Machine/RegRead.lean: what the set-up registers read (19 R448 to R450), the machine timer (11 R275), what the PLIC makes
pending, claims and signals (11 R276, R277, 19 R453), and the pages of the blob store (05 R120). -/

namespace Sys2Proof.Machine

/-! Codes of state tables. -/
def apllCode : ApllState → Nat
  | .stopped => 0 | .free => 1 | .acquire => 2 | .locked => 3 | .holdover => 4
def portStCode : PortState → Nat
  | .off => 0 | .waitClk => 1 | .settle => 2 | .rampUp => 3 | .run => 4 | .rampDown => 5
def convStCode : ConvState → Nat
  | .idle => 0 | .acquire => 1 | .track => 2 | .sync => 3 | .hold => 4
def domStCode : DomState → Nat
  | .off => 0 | .poweringUp => 1 | .on => 2 | .failed => 3

/-- Present CK_E offset in ppb (03 R66). -/
def State.offsetPpb (s : State) : Int := s.clk.offset48 / 48

/-- 32-bit halves of TICK-sized values. -/
def lo32 (v : BitVec 64) : Nat := v.toNat % 2 ^ 32
def hi32 (v : BitVec 64) : Nat := v.toNat / 2 ^ 32

/-- A port's record, by class 0x10 to 0x12 and number. -/
def State.port (s : State) (c p : Nat) : PortSt := tget {} s.ports (c * 256 + p)

/-- Domain of an audio port (14 R351). -/
def portDom (c p : Nat) : Nat := if c = 0x10 then 20 + p else if c = 0x11 then 28 + p else 32 + p

/-- 4 KiB pages of a blob (05 R105). -/
def pagesOf (len : Nat) : Nat := ceilDiv len 4096

/-- Pages of the blob store in use, each once: of held blobs, of blobs being loaded, and of pending commits (05 R105). -/
def State.usedPages (s : State) : List Nat :=
  (s.cmt.held.flatMap (·.pages) ++ s.cmt.loads.flatMap (·.pages) ++ s.cmt.queue.flatMap (·.pages)).eraseDups

/-! ### Timer and PLIC (11 R275 to R277) -/

/-- mtime at slot `slot`: 512 × TICK and the sub-tick count; `slot` is SLOT, or the XO cycles since the last AON tick while CK_E is
stopped (11 R275). -/
def State.mtime (s : State) (slot : Nat) : Nat := 512 * s.time.tick.toNat + min 511 (if s.time.ckeOff then slot else slot / 40)

/-- MTIP of a core: mtime has reached its SYS_MTIMECMP (11 R275). -/
def State.timerUp (s : State) (core : Nat) : Bool := (tget (BitVec.allOnes 64) s.cc.mtimecmp core).toNat ≤ s.mtime s.time.slotSeen

/-- MTIP of every core follows mtime and SYS_MTIMECMP. -/
def State.mtips (s : State) : State :=
  s.setCc { s.cc with mtip := [0, 1, 2, 3].foldl (fun m c => tset false m c (s.domOn 6 && s.timerUp c)) [] }

/-- Levels of the level sources (11 R277, 19 R453). -/
def State.plicLevel (s : State) (src : Nat) : Bool :=
  if src = 1 then s.cc.l2Valid != 0 else if src = 2 then s.cc.errValid else if src = 3 then s.cc.corr == 0xFFFF
  else if src = 5 then s.pwr.alert else false

/-- The gateways of the level sources: a level that is up and not claimed makes its source pending, and it stays so until it is
claimed (11 R276, log 4). -/
def State.plicGates (s : State) : State :=
  if !s.domOn 6 then s
  else
    let p := s.cc.plic
    s.setCc { s.cc with plic := { p with pend := [1, 2, 3, 5].foldl (fun m k =>
      if s.plicLevel k && !tget false p.claimed k then tset false m k true else m) p.pend } }

/-- A source is pending: its gateway has passed a request on and it is not claimed (11 R276, log 4). -/
def State.plicPending (s : State) (src : Nat) : Bool := tget false s.cc.plic.pend src && !tget false s.cc.plic.claimed src

/-- The pending enabled source of highest priority and that priority, the lowest number among equals; (0, 0) when none. -/
def State.plicTop (s : State) (ctx : Nat) : Nat × Nat :=
  (List.range 320).foldl (fun (b : Nat × Nat) k =>
    let pr := (tget 0 s.cc.plic.prio k).toNat
    if k != 0 && s.plicPending k && tget false s.cc.plic.en (ctx * 1024 + k) && b.2 < pr then (k, pr) else b) (0, 0)

/-- The source that a claim of a context returns. -/
def State.plicBest (s : State) (ctx : Nat) : Nat := (s.plicTop ctx).1

/-- MEIP of core c (context 2c) or SEIP (context 2c + 1): a pending enabled source exceeds the threshold (11 R276). -/
def State.plicEip (s : State) (ctx : Nat) : Bool := s.domOn 6 && (tget 0 s.cc.plic.thr ctx).toNat < (s.plicTop ctx).2

/-- A claim (11 R276, log 4). -/
def State.claim (s : State) (ctx : Nat) : State :=
  let k := s.plicBest ctx
  let p := s.cc.plic
  s.setCc { s.cc with plic := if k = 0 then { p with reply := 0 }
    else { p with reply := BitVec.ofNat 32 k, pend := tset false p.pend k false, claimed := tset false p.claimed k true } }

/-! ### Where a register lies -/

/-- Function whose page holds an offset. -/
def pageFn (off : Nat) : Option Nat := if 0x100000 ≤ off && off < 0x200000 then some ((off - 0x100000) / 0x10000) else none

/-- An offset lies in the window registers. -/
def inWindowRegs (off : Nat) : Bool := 0x200000 ≤ off && off < 0x201000

/-- The boot window is open: HOST_WAIT of a host load (17 R421). -/
def State.windowOpen (s : State) : Bool := s.boot.mode == 1 && s.boot.phase = 1

/-- One half of a 64-bit register; `h` = 0 is the low one. -/
def half (v : BitVec 64) (h : Nat) : Nat := if h = 0 then lo32 v else hi32 v

/-! ### Reads -/

/-- A SYS register. -/
def State.readSys (s : State) (o : Nat) : Nat :=
  let b := s.boot
  let e := s.bus.err
  let c := s.cc
  if o = 0x00 then 0x00B07160
  else if o = 0x04 then
    b.mode.toNat + 8 * b.phase + 64 * b2n b.secure + 128 * b2n b.entryUsed + 256 * b.err + 65536 * b.svn.toNat
  else if o = 0x0C then b.cause.toNat
  else if o = 0x20 then lo32 s.time.tick
  else if o = 0x24 then s.time.tickHi.toNat
  else if o = 0x28 then s.time.tickSub.toNat
  else if o = 0x40 || o = 0x44 || o = 0x48 || o = 0x4C || o = 0x50 then
    (if !s.domOn 7 then 0
     else if o = 0x40 then c.memCfg.toNat
     else if o = 0x44 then b2n c.ready + 2 * b2n c.trainFail + 16 * c.temp.toNat
     else if o = 0x48 then c.corr.toNat + 2 ^ 16 * c.uncorr.toNat + 2 ^ 24 * c.l2Valid.toNat + 2 ^ 31 * b2n c.errValid
     else if o = 0x4C then c.errAddr.toNat % 2 ^ 32 else c.errAddr.toNat / 2 ^ 32)
  else if !s.domOn 6 then 0
  else if o = 0x14 then c.coreRun.toNat
  else if o = 0x18 then c.entry.toNat % 2 ^ 32
  else if o = 0x1C then c.entry.toNat / 2 ^ 32
  else if o = 0x30 then
    e.master.toNat + 16 * e.func.toNat + 256 * b2n e.write + 512 * e.kind.toNat + 2 ^ 16 * e.count.toNat + 2 ^ 31 * b2n e.valid
  else if o = 0x34 then e.addr.toNat % 2 ^ 32
  else if o = 0x38 then e.addr.toNat / 2 ^ 32
  else if o = 0x64 then s.time.mtimeHi.toNat
  else if 0x80 ≤ o && o < 0xA0 then half (tget (BitVec.allOnes 64) c.mtimecmp ((o - 0x80) / 8)) ((o - 0x80) / 4 % 2)
  else if 0xA0 ≤ o && o < 0xB0 then b2n (tget false c.msip ((o - 0xA0) / 4))
  else 0

/-- CLK_STATUS. -/
def State.clkStatus (s : State) : Nat :=
  let c := s.clk
  apllCode c.state + 8 * (match c.src with | some k => if c.state = .stopped || c.state = .holdover then 0xF else k | none => 0xF)
    + 128 * b2n c.xoOk + 256 * b2n c.cpllLock + 512 * b2n c.onBypass + 1024 * b2n c.mpllLock + 2048 * b2n c.splLock

/-- PWR_STATUS. -/
def State.pwrStatus (s : State) : Nat :=
  let p := s.pwr
  p.profile + 4 * p.phase + 16 * b2n s.psu.mainsLost + 256 * p.wakeCause.toNat + 2 ^ 16 * p.polPg.toNat + 2 ^ 24 * p.polEn.toNat

/-- A port's status register; 0 while its domain is off. -/
def State.portStatus (s : State) (c p : Nat) : Nat :=
  let r := s.port c p
  if !s.domOn (portDom c p) then 0
  else portStCode r.st + 8 * b2n r.clk + 16 * r.g + 1024 * b2n r.periodBad + 2 ^ 16 * r.lastPeriod.toNat

/-- A register of function f's page. -/
def State.readPage (s : State) (f o : Nat) : Nat :=
  let F := s.fnOf f
  if 0x8000 ≤ o then
    (if !s.domOn 9 || !s.hostMode then 0
     else if o < 0x8100 then
       (let v := s.vec (16 * f + (o - 0x8000) / 16)
        let k := (o - 0x8000) / 4 % 4
        if k = 0 then lo32 v.addr else if k = 1 then hi32 v.addr else if k = 2 then v.data.toNat else v.ctl.toNat)
     else if o = 0xC000 then sumOf (fun v => if (s.vec (16 * f + v)).pba then 2 ^ v else 0) (List.range 16)
     else 0)
  else if !s.domOn 10 then 0
  else if o = 0 then b2n F.enable + 2 * F.eventRing.toNat + 16 * b2n F.eventEn
  else if o = 4 then b2n F.dbFault + 2 * b2n (s.fnExists f)
  else if o = 8 || o = 0xC then half F.db ((o - 8) / 4)
  else if 0x100 ≤ o && o < 0x180 then
    (let r := s.ring (8 * f + (o - 0x100) / 16)
     let k := (o - 0x100) / 4 % 4
     if k < 2 then half (BitVec.ofNat 64 r.start) k
     else if k = 2 then r.cfg.toNat / 2 * 2 + b2n (r.on || r.want)
     else r.idx + 2 ^ 16 * b2n r.busy + 2 ^ 17 * b2n r.cfgErr + 2 ^ 18 * b2n r.budgetFail + 2 ^ 19 * b2n r.err)
  else 0

/-- A window register. -/
def State.readWindow (s : State) (o : Nat) : Nat :=
  let w := s.win (o / 0x20)
  let k := o % 0x20
  if !s.domOn 10 then 0
  else if k = 0 || k = 4 then half w.base (k / 4)
  else if k = 8 || k = 0xC then half w.limit ((k - 8) / 4)
  else if k = 0x10 then b2n w.valid + 2 * b2n w.read + 4 * b2n w.write
  else 0

/-- 32 sources of a bitmap from number 32j. -/
def bits32 (p : Nat → Bool) (j : Nat) : Nat := sumOf (fun b => if p (32 * j + b) then 2 ^ b else 0) (List.range 32)

/-- A register of the PLIC window, the claim registers apart (11 R276, log 4). -/
def State.readPlic (s : State) (o : Nat) : Nat :=
  let p := s.cc.plic
  if !s.domOn 6 then 0
  else if 4 ≤ o && o < 0x500 then (tget 0 p.prio (o / 4)).toNat
  else if 0x1000 ≤ o && o < 0x1028 then bits32 (fun k => k != 0 && k < 320 && s.plicPending k) ((o - 0x1000) / 4)
  else if 0x2000 ≤ o && o < 0x2400 then
    (let c := (o - 0x2000) / 0x80
     let j := (o - 0x2000) % 0x80 / 4
     if j < 10 then bits32 (fun k => tget false p.en (c * 1024 + k)) j else 0)
  else if 0x200000 ≤ o && o < 0x208000 && o % 0x1000 = 0 then (tget 0 p.thr ((o - 0x200000) / 0x1000)).toNat
  else 0

/-- A register as a read returns it, without what the read does (19 R448, R450). -/
def State.regRead (s : State) (off : Nat) : Nat :=
  if off % 4 != 0 then 0
  else if off < 0x1000 then s.readSys off
  else if off = 0x1000 then s.clk.bootCfg.toNat
  else if off = 0x1004 then s.clkStatus
  else if off = 0x1008 then (wOf s.offsetPpb).toNat
  else if off = 0x2000 then s.pwrStatus
  else if off = 0x3000 then s.cmt.storeBase.toNat % 2 ^ 32
  else if off = 0x3004 then s.cmt.storeBase.toNat / 2 ^ 32
  else if off = 0x3008 then s.cmt.storePages.toNat
  else if off = 0x300C then s.usedPages.length % 2 ^ 24 + 2 ^ 24 * s.cmt.held.length
  else if 0x4000 ≤ off && off < 0x4020 then s.portStatus 0x10 ((off - 0x4000) / 4)
  else if 0x4020 ≤ off && off < 0x4030 then s.portStatus 0x11 ((off - 0x4020) / 4)
  else if 0x4030 ≤ off && off < 0x4040 then s.portStatus 0x12 ((off - 0x4030) / 4)
  else if off = 0x5000 then
    (let m := s.vat.march
     if !s.domOn 62 || !m.busy then 0 else m.bank + 64 * (if m.pres then 2 else 1) + 256 + 2 ^ 16 * (m.word % 32768))
  else if off = 0x6000 then (if s.domOn 63 then s.net.mdio.cmd.toNat % 8192 + 2 ^ 30 * b2n s.net.mdio.busy else 0)
  else if off = 0x6004 then (if s.domOn 63 then s.net.mdio.data.toNat + 2 ^ 31 * b2n s.net.mdio.noAck else 0)
  else if off = 0x7000 then
    (if s.domOn 61 then b2n s.nv.ok + 2 * s.nv.active + 8 * s.nv.state + 2 ^ 16 * (if s.nv.ok then s.nv.mib else 0) else 0)
  else
    match pageFn off with
    | some f => s.readPage f (off % 0x10000)
    | none =>
      if inWindowRegs off then s.readWindow (off - 0x200000)
      else if 0x400000 ≤ off && off < 0x800000 then s.readPlic (off - 0x400000)
      else if 0x800000 ≤ off && off < 0x840000 && s.windowOpen then leNat (s.busBytes (0x01000000 + (off - 0x800000)) 4)
      else 0

/-- A read of SYS_TICK_LO in slot `slot` latches the other two (02, Fields). -/
def State.latchTick (s : State) (slot : Nat) : State :=
  s.setTime { s.time with tickHi := BitVec.ofNat 32 (hi32 s.time.tick), tickSub := if s.time.ckeOff then 0x80000000 else BitVec.ofNat 32 slot }

/-- A read of SYS_MTIME_LO latches the upper half (11 R293). -/
def State.latchMtime (s : State) (slot : Nat) : State := s.setTime { s.time with mtimeHi := BitVec.ofNat 32 (s.mtime slot / 2 ^ 32) }

/-- A read of a register over the fabric, with what it latches or claims; the slot of a latch is a free value, no earlier than one that
the tick has shown (log 2, log 86). -/
def State.regReadAct (s : State) (off : Nat) : State × Nat :=
  if off = 0x20 then
    (let x := s.someSlot
     (x.1.latchTick x.2, s.regRead off))
  else if off = 0x60 && s.domOn 6 then
    (let x := s.someSlot
     (x.1.latchMtime x.2, s.mtime x.2 % 2 ^ 32))
  else if 0x600000 ≤ off && off < 0x608000 && off % 0x1000 = 4 && s.domOn 6 then
    (let s1 := s.claim ((off - 0x600000) / 0x1000)
     (s1, s1.cc.plic.reply.toNat))
  else (s, s.regRead off)

/-- Registers read in ascending order from an aligned offset. -/
def State.readRegs (s : State) (off : Nat) : Nat → State × List Byte
  | 0 => (s, [])
  | n + 1 =>
    let x := s.regReadAct off
    let r := x.1.readRegs (off + 4) n
    (r.1, leBytes 4 x.2 ++ r.2)

end Sys2Proof.Machine
end

