-- ==== Sys2Proof/Machine/Ops.lean ====
section
/-! DEFINITION. Machine/Ops.lean: the operations every family shares: windows and DMA (04 R72), completion entries (04 R79 to R81),
vector counts (04 R84) and the writing of events (04 R83, 19 R455). -/

namespace Sys2Proof.Machine

/-! ### Windows and DMA -/

/-- A window admits a transfer (04 R72). -/
def WinSt.admits (w : WinSt) (a n : Nat) (write : Bool) : Bool :=
  w.valid && (if write then w.write else w.read) && w.base.toNat ≤ w.limit.toNat && w.base.toNat ≤ a
    && a + n ≤ w.limit.toNat + 1

/-- Some one window of the function admits the transfer (04 R72). -/
def State.inWindow (s : State) (f a n : Nat) (write : Bool) : Bool :=
  (List.range 8).any fun w => (s.win (8 * f + w)).admits a n write

/-- One window admits the whole range for reading and writing (04 R78, QUERY). -/
def State.inWindowRw (s : State) (f a n : Nat) : Bool :=
  (List.range 8).any fun w => (s.win (8 * f + w)).admits a n true && (s.win (8 * f + w)).admits a n false

/-- The PCIe link carries requests (04 R95). -/
def State.pcieUp (s : State) : Bool := s.pcie.linkUp && s.domOn 9

/-- PowerState of the PF is D0: in D3hot the endpoint issues and answers configuration requests alone (04 R70, log 4). -/
def State.inD0 (s : State) : Bool := (tget 0 s.pcie.cfg 0x44).toNat % 4 == 0

/-- Memory requests pass the PCIe link both ways. -/
def State.pcieMem (s : State) : Bool := s.pcieUp && s.inD0

/-- ACCESS reason of a DMA that does not take place (04 R82): WINDOW, DMA or REGION. -/
def State.dmaFail (s : State) (f a n : Nat) (write : Bool) : Option Nat :=
  if !s.inWindow f a n write then some 1
  else if s.standalone then
    (if (s.refusalOf 4 a n write).isSome then some 6
     else if !write && s.poisonedIn a n then some 5 else none)
  else if s.pcieMem then none else some 5

/-- A DMA refused by the fabric is captured (01 R15): with the address at which its first refused line is entered (DESIGN CHOICE: the
spec gives a transfer over several lines no one address, log 88). -/
def State.dmaNote (s : State) (f a n : Nat) (write : Bool) : State :=
  match (linesOf a n).find? (fun x => (s.refusal 4 x write).isSome) with
  | some x => s.capture 4 f ((s.refusal 4 x write).getD 0) x write
  | none => s

/-- A transfer lies in the Vats. -/
def inVats (a : Nat) : Bool := 0x40000000 ≤ a && a < 0x41000000

/-- The bytes that a DMA would read. -/
def State.dmaBytes (s : State) (a n : Nat) : List Byte := if s.standalone then s.busBytes a n else memBytes s.hostMem a n

/-- The bytes a DMA reads: from host memory, or from the internal address space, where a read of a register latches what it latches
and a Vat word is checked; whether a word could not be corrected. -/
def State.dmaLoad (s : State) (a n : Nat) : State × List Byte × Bool :=
  if !s.standalone then (s, memBytes s.hostMem a n, false)
  else if inVats a then
    (let t := s.vatTouches (vatWords a n)
     (t.1, s.busBytes a n, t.2))
  else if s.region a == .setup then
    (let t := s.readRegs ((a - 0x10000000) / 4 * 4) ((a % 4 + n + 3) / 4)
     (t.1, sub t.2 (a % 4) n, false))
  else (s, s.busBytes a n, false)

/-- Whether port A writes one of the words of a ring-engine write in its cycle, and which: a free value, in a bank whose port A user
writes it (10 R245, R251, log 89). -/
def State.dmaClash (s : State) (a n : Nat) : State × List Nat :=
  let role := s.cfg 0x30 (vatBankOf a) 1
  if role = 2 || role = 4 then
    (let x := s.draw
     let ws := vatWords a n
     (x.1, (nth [] (ws.map fun w => [w]) (x.2.toNat % (2 * ws.length + 1)))))
  else (s, [])

/-- The state after a DMA has written, and the ACCESS reason where the write was lost or a merged word could not be corrected (10 R252,
R254). -/
def State.dmaStore (s : State) (a : Nat) (bs : List Byte) : State × Option Nat :=
  if !s.standalone then (s.setHostMem (memPut s.hostMem a bs), none)
  else if inVats a then
    (let c := s.dmaClash a bs.length
     let s := if c.2.isEmpty then c.1 else c.1.wlost (vatBankOf a)
     let t := s.vatStores a bs c.2
     (t.1, if c.2.isEmpty && !t.2 then none else some 5))
  else (s.busWrite a bs, none)

/-- A DMA read for function f: the bytes, or the ACCESS reason. -/
def State.dmaRead (s : State) (f a n : Nat) : State × Except Nat (List Byte) :=
  match s.dmaFail f a n false with
  | none =>
    let r := s.dmaLoad a n
    (r.1, if r.2.2 then .error 5 else .ok r.2.1)
  | some 6 => (s.dmaNote f a n false, .error 6)
  | some r => (s, .error r)

/-- A DMA write for function f: the ACCESS reason when it does not take place. -/
def State.dmaWrite (s : State) (f a : Nat) (bs : List Byte) : State × Option Nat :=
  match s.dmaFail f a bs.length true with
  | none => s.dmaStore a bs
  | some 6 => (s.dmaNote f a bs.length true, some 6)
  | some r => (s, some r)

/-! ### Completion and event entries -/

/-- A ring stops on an index or write error (04, At the edges). -/
def State.ringError (s : State) (g : Nat) : State :=
  let r := s.ring g
  if r.err then s else (s.putRing g { r with err := true }).postOwn (g / 8) 0x10 g

/-- Count an entry on its vector (04 R84). -/
def State.countVec (s : State) (g : Nat) : State :=
  let r := s.ring g
  if r.irqEn then
    let k := 16 * (g / 8) + r.vector
    let v := s.vec k
    s.putVec k { v with n := v.n + 1, since := if v.n = 0 then s.time.tick else v.since }
  else s

/-- The 16 bytes of an entry (04 R79). -/
def entryBytes (status opcode tag reason sq sqHead result : Nat) (phase event : Bool) : List Byte :=
  leBytes 1 status ++ leBytes 1 opcode ++ leBytes 2 tag ++ leBytes 2 reason ++ leBytes 1 sq
    ++ leBytes 1 (b2n phase + 2 * b2n event) ++ leBytes 2 sqHead ++ leBytes 2 0 ++ leBytes 4 result

/-- Write an entry to completion ring g; false when it could not be written (04 R79, R97). -/
def State.writeEntry (s : State) (g status opcode tag reason sq sqHead result : Nat) (event : Bool) : State × Bool :=
  let r := s.ring g
  if r.live && r.isCq then
    match s.dmaWrite (g / 8) (r.start + 16 * r.idx) (entryBytes status opcode tag reason sq sqHead result r.phase event) with
    | (s1, none) =>
      let i := (r.idx + 1) % r.size
      ((s1.putRing g { r with idx := i, phase := if i = 0 then !r.phase else r.phase }).countVec g, true)
    | (s1, some _) => (s1.ringError g, false)
  else (s, false)

/-- The first request whose completion may be written: every earlier one of its opcode is written, COMMIT apart (04 R80). -/
def nextEnded : List Nat → List Req → Option (Req × Outc)
  | _, [] => none
  | seen, q :: r =>
    match q.ended with
    | some o =>
      if q.desc.opcode.toNat = 2 || !seen.contains q.desc.opcode.toNat then some (q, o) else nextEnded seen r
    | none => nextEnded (q.desc.opcode.toNat :: seen) r

/-- Write one completion of submission ring g and drop its request (04 R79, R80); after an FLR it is discarded (04 R96). -/
def State.writeCompletion (s : State) (g : Nat) (q : Req) (o : Outc) : State :=
  let r := s.ring g
  let c := s.cqOf g
  let s := s.putRing g { r with reqs := r.reqs.filter fun x => x.id != q.id }
  let s := s.bump 0x50 (g / 8) (4 * (g % 8) + 1)
  let s := if o.status = 5 then s.bump 0x50 (g / 8) (4 * (g % 8) + 3) else s
  if q.drop then s
  else
  let rc := s.ring c
  let s := s.putRing c { rc with resv := rc.resv - 1 }
  if bit q.desc.flags.toNat 0 && o.status = 0 then s
  else
    match s.writeEntry c o.status.toNat q.desc.opcode.toNat q.desc.tag.toNat o.reason.toNat g r.idx o.result.toNat false with
    | (s1, true) => s1
    | (s1, false) => if (s.ring c).live then s1.bump 0x50 (g / 8) (4 * (g % 8) + 3) else s1

/-- Write every completion of ring g that may be written. -/
def State.flushRing (s : State) (g : Nat) : Nat → State
  | 0 => s
  | n + 1 =>
    match nextEnded [] (s.ring g).reqs with
    | none => s
    | some (q, o) => (s.writeCompletion g q o).flushRing g n

/-- End request `id` of ring g with an outcome; its completion is written as soon as 04 R80 lets it. -/
def State.finish (s : State) (g id : Nat) (o : Outc) : State :=
  let r := s.ring g
  let s := s.putRing g { r with reqs := r.reqs.map fun q => if q.id = id && q.ended.isNone then { q with live := true, taken := true, ended := some o } else q }
  s.flushRing g ((s.ring g).reqs.length + 1)

/-- Outcomes (04 R81). -/
def ok (result : Nat) : Outc := { status := 0, reason := 0, result := BitVec.ofNat 32 result }
def access (reason : Nat) : Outc := { status := 5, reason := BitVec.ofNat 16 reason }
def rejected (reason locator : Nat) : Outc := { status := 2, reason := BitVec.ofNat 16 reason, result := BitVec.ofNat 32 locator }
def unitDown (c i : Nat) : Outc := { status := 0xB, reason := BitVec.ofNat 16 (unitReason c i) }
def unitOffline (c i : Nat) : Outc := { status := 3, reason := BitVec.ofNat 16 (unitReason c i) }
def unitReset (c i : Nat) : Outc := { status := 4, reason := BitVec.ofNat 16 (unitReason c i) }
def inUse (c i : Nat) : Outc := { status := 8, reason := BitVec.ofNat 16 (unitReason c i) }
def tooLong : Outc := { status := 6 }
def tooShort : Outc := { status := 7 }
def underrun (n result : Nat) : Outc := { status := 0xA, reason := BitVec.ofNat 16 (min n 0xFFFF), result := BitVec.ofNat 32 result }

/-- OK, or UNDERRUN after a gap of blocks (04 R88, R89). -/
def okOrGap (gap result : Nat) : Outc := if gap = 0 then ok result else underrun gap result

/-- End a request after a DMA write of result bytes: ACCESS with the reason where the write is refused. -/
def State.finishWrite (s : State) (g id a : Nat) (bs : List Byte) (o : Outc) : State :=
  match s.dmaWrite (g / 8) a bs with
  | (s1, none) => s1.finish g id o
  | (s1, some r) => s1.finish g id (access r)

/-- The oldest dispatched request of an opcode that no unit has taken. -/
def RingSt.oldest (r : RingSt) (op : Nat) : Option Req :=
  r.reqs.find? fun q => q.desc.opcode.toNat = op && q.live && !q.taken && q.ended.isNone

/-- Mark a request as taken by its unit. -/
def State.take (s : State) (g id : Nat) : State :=
  let r := s.ring g
  s.putRing g { r with reqs := r.reqs.map fun q => if q.id = id then { q with taken := true } else q }

/-- Write one event record; false when it is lost (04 R83). -/
def State.writeEvent (s : State) (f code reason : Nat) : State × Bool :=
  let F := s.fnOf f
  let g := 8 * f + F.eventRing.toNat
  let r := s.ring g
  if F.eventEn && r.live && r.isCq && 0 < r.free then
    match s.writeEntry g 0 0 code reason 0xFF F.evtSeq.toNat s.time.tick.toNat true with
    | (s1, true) => (s1.putFn f { s1.fnOf f with evtSeq := F.evtSeq + 1 }, true)
    | (s1, false) => (s1, false)
  else (s, false)

/-- Write EVT_LOST once a slot is free (04 R83). -/
def State.writeLost (s : State) (f : Nat) : State :=
  let n := (s.fnOf f).lost
  if n = 0 then s
  else
    match s.writeEvent f 1 (min n 0xFFFF) with
    | (s1, true) => s1.putFn f { s1.fnOf f with lost := 0 }
    | (s1, false) => s1

/-- Write one posted event, or count it as lost. -/
def State.deliver (s : State) (e : Evt) : State :=
  match s.writeEvent e.fn e.code.toNat e.reason.toNat with
  | (s1, true) => s1
  | (s1, false) => s1.putFn e.fn { s1.fnOf e.fn with lost := (s1.fnOf e.fn).lost + 1 }

/-- Order of events within a tick: ring, code, REASON (19 R455). -/
def Evt.key (e : Evt) : Nat := e.fn * 0x100000000 + e.code.toNat * 0x10000 + e.reason.toNat

/-- At the end of a tick the events posted in it are written in ascending code, then REASON (19 R455); while the ring engine is
off they are kept (14 R358). A ring error met on the way is written after them. -/
def State.flushEvents (s : State) : State :=
  if !s.engineOn then s
  else
    let s := (List.range 16).foldl (fun s f => s.writeLost f) s
    let ev := sortBy Evt.key s.host.posted
    let s := ev.foldl (fun s e => s.deliver e) (s.setHost { s.host with posted := [] })
    let ev2 := sortBy Evt.key s.host.posted
    ev2.foldl (fun s e => s.deliver e) (s.setHost { s.host with posted := [] })

end Sys2Proof.Machine
end

