-- ==== Sys2Proof/Machine/Units.lean ====
section
/-! DEFINITION. Machine/Units.lean: intent and condition of every unit (05 R117, 03 R61, 04 R95, 06 R133, 07 R173, 08 R210, 09 R240,
10 R257, 12 R296, 13 R344, 14 R352, 15 R392, 16 R411). -/

namespace Sys2Proof.Machine

/-- Domains a profile forces off (14 R355). Quiet keeps 53, 54 and 63 by their DOM_ON, and 6 while one of them stays on. -/
def profileSheds (m : Map Word) (profile d : Nat) : Bool :=
  let on (d : Nat) : Bool := cfgN m 3 d 1 == 1
  if profile = 0 then false
  else if profile = 1 then d == 9 || (44 ≤ d && d ≤ 47)
  else if profile = 2 then
    (if d = 53 || d = 54 || d = 63 then false
     else if d = 6 then !(on 53 || on 54 || on 63) else true)
  else true

/-- Effective DOM_ON (14 R352). -/
def State.effOn (s : State) (d : Nat) : Bool := s.cfg 3 d 1 == 1 && !profileSheds s.cmt.cfg s.pwr.profile d

/-- Replace a port's record. -/
def State.putPort (s : State) (c p : Nat) (v : PortSt) : State := s.setPorts (tset {} s.ports (c * 256 + p) v)

/-- ENABLE of an audio port, either direction of a TDM port (06 R133). -/
def portEn (m : Map Word) (c p : Nat) : Bool := cfgN m c p 1 == 1 || (c == 0x12 && cfgN m c p 2 == 1)

/-- ENABLE of an endpoint (07 R151, R173). -/
def epEn (m : Map Word) (e : Nat) : Bool :=
  if e < 8 then cfgN m 0x10 e 1 == 1
  else if e < 0x0C then cfgN m 0x12 (e - 8) 1 == 1
  else if e < 0x10 then cfgN m 0x11 (e - 0x0C) 1 == 1
  else if e < 0x14 then cfgN m 0x12 (e - 0x10) 2 == 1
  else if 0x20 ≤ e && e < 0x40 then cfgN m 0x43 e 1 == 1
  else if 0x80 ≤ e then 0 < cfgN m 0x50 ((e - 0x80) / 8) (0x100 + (e - 0x80) % 8)
  else false

/-- A Net port's record. -/
def State.net0 (s : State) (p : Nat) : NetPort := tget {} s.net.ports p

/-- A Herdline port's record. -/
def State.herd0 (s : State) (p : Nat) : HerdPort := tget {} s.herd.ports p

/-- A stream's record, by endpoint. -/
def State.stream (s : State) (e : Nat) : StreamSt := tget {} s.herd.streams e

/-- Replace a stream's record. -/
def State.putStream (s : State) (e : Nat) (v : StreamSt) : State := s.setHerd { s.herd with streams := tset {} s.herd.streams e v }

/-- Bytes that a ring reserves in its staging bank (10 R248). -/
def stageSize (m : Map Word) (g : Nat) : Nat :=
  ceilDiv ((cfgN m 0x50 (g / 8) (0x110 + g % 8) + 1) * 192 * cfgN m 0x50 (g / 8) (0x100 + g % 8)) 64 * 64

/-- Blocks that a stream's reservation holds: three in sending, JB_DEPTH + 2 in receiving (13 R343). -/
def streamBlocks (m : Map Word) (e : Nat) : Nat := if 0x30 ≤ e then 3 else cfgN m 0x43 e 9 + 2

/-- Bytes that an enabled stream reserves in its bank (13 R343). -/
def streamSize (m : Map Word) (e : Nat) : Nat := if cfgN m 0x43 e 1 = 1 then streamBlocks m e * 192 * cfgN m 0x43 e 3 else 0

/-- A model's record. -/
def State.model (s : State) (m : Nat) : ModelSt := tget {} s.sep.models m

/-- Replace a model's record. -/
def State.putModel (s : State) (m : Nat) (v : ModelSt) : State := s.setSep { s.sep with models := tset {} s.sep.models m v }

/-- Tiles that a model uses. -/
def ModelDesc.tiles (d : ModelDesc) : List Nat := (d.layers.map (·.tile)).eraseDups

/-- Inputs of the first layer, outputs of the last, and steps per hop S (09 R220, R225). -/
def ModelDesc.inW (d : ModelDesc) : Nat := match d.layers with | [] => 0 | l :: _ => l.inW
def ModelDesc.outW (d : ModelDesc) : Nat := match d.layers.getLast? with | none => 0 | some l => l.outW
def ModelDesc.steps (d : ModelDesc) : Nat := d.churnSteps + d.hostSteps

/-- Bytes of the two staging buffers (09, Staging). -/
def ModelDesc.stageSize (d : ModelDesc) : Nat := 2 * (128 * d.steps * (d.inW + d.outW))

/-- Banks that a model's staging area spans (09 R222, R225). -/
def ModelDesc.bankList (d : ModelDesc) : List Nat :=
  (List.range (max 1 (ceilDiv (d.page * 4096 + d.stageSize) 0x40000))).map (d.bank + ·)

/-- A bank that a buffer names is On. -/
def State.bufOn (s : State) (b : Nat) : Bool := b < 64 && s.bankOn b

/-- A Herdline port's condition (13 R344). -/
def State.herdUp (s : State) (p : Nat) : Bool := s.domOn (55 + p) && s.domOn (57 + p) && s.bufOn (s.cfg 0x41 p 0xD)

/-- Intent of a unit. -/
def State.intent (s : State) (c i : Nat) : Bool :=
  let m := s.cmt.cfg
  if c = 0x02 then true
  else if c = 0x03 then (if i < 64 then s.effOn i else i == 0x40)
  else if 0x10 ≤ c && c ≤ 0x12 then portEn m c i
  else if c = 0x16 && 0x40 ≤ i && i < 0x44 then s.effOn 39
  else if c = 0x13 || c = 0x15 || c = 0x16 then epEn m i
  else if c = 0x17 then cfgN m 0x17 i 1 == 1
  else if c = 0x20 then cfgN m 0x20 i 1 != 0
  else if c = 0x28 then cfgN m 0x28 i 1 != 0
  else if c = 0x30 then cfgN m 0x30 i 2 == 0
  else if c = 0x40 then cfgN m 0x40 i 1 == 1
  else if c = 0x41 then cfgN m 0x41 i 1 == 1
  else if c = 0x42 then cfgN m 0x42 i 1 == 1
  else if c = 0x43 then cfgN m 0x43 i 1 == 1
  else if c = 0x50 then (List.range 8).any fun k => 0 < cfgN m 0x50 i (0x100 + k)
  else if c = 0x60 then s.effOn 61
  else false

/-- A PU's domain is powered and its stores hold what is applied (08 R210). -/
def State.puUp (s : State) (p : Nat) : Bool := s.domOn (11 + p) && (s.pu p).loaded

/-- Condition of a model (09 R240). -/
def State.modelUp (s : State) (m : Nat) : Bool :=
  match (s.model m).desc with
  | none => false
  | some d => s.domOn 48 && d.tiles.all (fun t => s.domOn (40 + t)) && d.bankList.all (fun b => s.bankOn b)

def State.tile (s : State) (t : Nat) : TileSt := tget {} s.sep.tiles t
def State.putTile (s : State) (t : Nat) (v : TileSt) : State := s.setSep { s.sep with tiles := tset {} s.sep.tiles t v }

/-- Beats of a model's span (09 R223). -/
def ModelDesc.span (d : ModelDesc) : Nat := d.steps + d.layers.length + 1

/-- The steps of a hop that has nothing staged yet (09 R220). -/
def ModelDesc.freshSteps (d : ModelDesc) : List StepRec :=
  (List.range d.steps).map fun k =>
    if k < d.churnSteps && !(nth {} d.masks k).en then { reset := 0, active := BitVec.allOnes 64 } else {}

/-- The model runs beats: its condition is up and no tile of its group is skipped (09 R240, 05 R113). -/
def State.beatsRun (s : State) (m : Nat) (d : ModelDesc) : Bool := s.modelUp m && d.tiles.all fun t => !(s.tile t).skip

/-- A free host step of a list of steps, taken in order (09 R220). -/
def freeStep (d : ModelDesc) (steps : List StepRec) : Option Nat :=
  (List.range d.steps).find? fun k => d.churnSteps ≤ k && !(nth ({} : StepRec) steps k).used

/-- A dispatched SEP_STEP takes the next host step of the hop being staged, or waits for a hop with a free one (09 R220, R231). -/
def State.assignStep (s : State) (m g id : Nat) : State :=
  let r := s.model m
  match (match r.desc with | some d => freeStep d r.nxt | none => none) with
  | some k => s.putModel m { r with nxt := r.nxt.set k { nth ({} : StepRec) r.nxt k with used := true, fed := some (g, id) } }
  | none => s.putModel m { r with queued := r.queued ++ [(g, id)] }

/-- The applied hop length. -/
def State.hop (s : State) : Nat := s.cfg 0x28 0x40 1

/-- Ticks go on in the middle of a hop: it makes no more beats, and publishes nothing (09 R241). -/
def State.resumeHop (s : State) : State :=
  s.setSep { s.sep with hopStart := BitVec.ofNat 64 (s.time.tick.toNat / s.hop * s.hop),
                        models := s.sep.models.map fun e => (e.1, { e.2 with miss := true }) }

/-- A hop in which all beats of a model's span have been made, so that it publishes at its flip (09 R233, R236). -/
def State.hopRan (s : State) (m : Nat) : Bool :=
  let r := s.model m
  match r.desc with
  | some d => 0 < r.phase && !r.miss && r.beat == d.span && s.beatsRun m d
  | none => false

/-- SEP_STEPs whose steps have run in this hop: they complete at its flip. -/
def State.ranFed (s : State) (m : Nat) : List (Nat × Nat) := if s.hopRan m then (s.model m).cur.filterMap (·.fed) else []

/-- Condition of the class 0x02 unit (03 R61): not in holdover, not FREE in place of a configured source, and the cores at the
applied operating point. FREE that is itself REF_PRIMARY or REF_SECONDARY is a configured source, and with no core domain on no frequency is
missing (log 91). -/
def State.clkUp (s : State) : Bool :=
  let pri := s.cfg 2 0 0
  let sec := s.cfg 2 0 1
  s.clk.state != .holdover && !(s.clk.src == some 0 && pri != 0 && sec != 0)
    && (s.clk.opp == s.cfg 2 0 0x10 || !((List.range 4).any fun c => s.domOn c))

/-- Condition of a unit. -/
def State.cond (s : State) (c i : Nat) : Bool :=
  if c = 0x02 then s.clkUp
  else if c = 0x03 then (if i < 64 then s.domOn i else s.psu.link == 2)
  else if 0x10 ≤ c && c ≤ 0x12 then
    (s.port c i).st == .rampUp || (s.port c i).st == .run
  else if c = 0x13 then s.domOn (if isInEp i then 36 else 37)
  else if c = 0x15 then s.domOn 38
  else if c = 0x16 then s.domOn (if 0x40 ≤ i && i < 0x44 then 39 else 38)
  else if c = 0x17 then s.domOn 39
  else if c = 0x20 then s.puUp i
  else if c = 0x28 then s.modelUp i
  else if c = 0x30 then s.bankOn i
  else if c = 0x40 then s.domOn (53 + i) && ((s.net0 i).listening || s.bufOn (s.cfg 0x40 i 0x13)) && (s.net0 i).link
  else if c = 0x41 then s.herdUp i
  else if c = 0x42 then
    (s.herd0 i).cow.active && (s.herd0 i).cow.st != 6 && (s.herd0 i).cow.st != 2
  else if c = 0x43 then
    (if 0x30 ≤ i then s.herdUp (s.cfg 0x43 i 2) && (s.stream i).fmt < 4
     else (s.stream i).bound.isSome && (s.stream i).playing)
  else if c = 0x50 then s.domOn 10 && (s.standalone || s.pcieUp)
  else if c = 0x60 then s.domOn 61 && s.nv.ok
  else false

/-- A unit in quiesce: step 1 is in force (17 R423). -/
def State.offline (s : State) (c i : Nat) : Bool := (s.unitOf c i).offline.isSome

/-- A port in wake listening raises no DIVERGE (14 R360). -/
def State.listening (s : State) (c i : Nat) : Bool :=
  (c == 0x40 && (s.net0 i).listening) || ((c == 0x41 || c == 0x42) && (s.herd0 i).listening)

/-- Intent up, condition down and compared (05 R117, R118). While CK_E is stopped only domains and the supply are compared. -/
def State.disagrees (s : State) (c i : Nat) : Bool :=
  s.intent c i && !s.cond c i && !s.listening c i && (!s.time.ckeOff || c == 0x03)

/-- Every unit whose intent and condition are compared. -/
def comparedUnits : List (Nat × Nat) :=
  [(0x02, 0), (0x03, 0x40), (0x60, 0)]
    ++ (List.range 64).map (fun d => (0x03, d))
    ++ (List.range 8).map (fun p => (0x10, p)) ++ (List.range 4).map (fun p => (0x11, p))
    ++ (List.range 4).map (fun p => (0x12, p))
    ++ ((List.range 0x30).filter isConvEp).map (fun e => (0x13, e))
    ++ ((List.range 256).filter (unitOk 0x15)).map (fun e => (0x15, e))
    ++ ((List.range 256).filter (unitOk 0x16)).map (fun e => (0x16, e))
    ++ (List.range 32).map (fun e => (0x17, e))
    ++ (List.range 8).map (fun p => (0x20, p)) ++ (List.range 16).map (fun m => (0x28, m))
    ++ (List.range 64).map (fun b => (0x30, b))
    ++ (List.range 2).flatMap (fun p => [(0x40, p), (0x41, p), (0x42, p)])
    ++ (List.range 32).map (fun e => (0x43, 0x20 + e)) ++ (List.range 16).map (fun f => (0x50, f))

/-- Count a tick of agreement or disagreement of a unit (05 R118). A unit whose condition is down but not compared neither agrees nor disagrees;
one whose intent is down closes its DIVERGE without the wait. -/
def State.compareUnit (s : State) (u : Nat × Nat) : State :=
  let r := s.unitOf u.1 u.2
  if s.disagrees u.1 u.2 then s.putUnit u.1 u.2 { r with downT := min (r.downT + 1) 9, upT := 0 }
  else if s.intent u.1 u.2 && !s.cond u.1 u.2 then s.putUnit u.1 u.2 { r with upT := 0 }
  else s.putUnit u.1 u.2 { r with downT := 0, upT := if r.div then min (r.upT + 1) 9 else 0 }

/-- The comparison of a tick, over every unit. -/
def State.compareAll (s : State) : State := comparedUnits.foldl (fun s u => s.compareUnit u) s

end Sys2Proof.Machine
end

