-- ==== Sys2Proof/Machine/Check.lean ====
section
/-! DEFINITION. Machine/Check.lean: the checks at fetch (04 R87 steps 1 to 7), with the lengths (04 R78, 12 R306, R307, 13 R337, R340,
17 R425, 19 R458), transfers, rights, roles and targets of every opcode, and ledger term L6 (02 R28). -/

namespace Sys2Proof.Machine

/-! Field accessors of a descriptor (04 R78). -/
def Desc.op (d : Desc) : Nat := d.opcode.toNat
def Desc.argN (d : Desc) : Nat := d.arg.toNat
def Desc.addrN (d : Desc) : Nat := d.addr.toNat
def Desc.arg2N (d : Desc) : Nat := d.arg2.toNat
def Desc.fence (d : Desc) : Bool := bit d.flags.toNat 1
def Desc.port (d : Desc) : Nat := fld d.argN 16 1
def Desc.queue (d : Desc) : Nat := fld d.argN 17 3
def Desc.pad (d : Desc) : Bool := bit d.argN 20
def Desc.ts (d : Desc) : Bool := bit d.argN 21
/-- KIND of HERD_TX and HERD_RX_POST: 1 is the reliable channel, every other code a raw frame (log 11). -/
def Desc.reliable (d : Desc) : Bool := fld d.argN 21 3 == 1
def Desc.len16 (d : Desc) : Nat := d.argN % 65536
def Desc.model (d : Desc) : Nat := d.argN % 256
def Desc.kind (d : Desc) : Nat := d.argN % 256
def Desc.unit (d : Desc) : Nat := fld d.argN 8 8
def Desc.mode (d : Desc) : Nat := fld d.argN 16 8

/-- A descriptor from its 32 bytes (04 R77). -/
def descOf (b : List Byte) : Desc :=
  { opcode := BitVec.ofNat 8 (leAt b 0 1), flags := BitVec.ofNat 8 (leAt b 1 1), tag := BitVec.ofNat 16 (leAt b 2 2),
    arg := BitVec.ofNat 32 (leAt b 4 4), addr := BitVec.ofNat 64 (leAt b 8 8), arg2 := BitVec.ofNat 64 (leAt b 16 8),
    arg3 := BitVec.ofNat 64 (leAt b 24 8) }

/-- The opcodes of 04 R78. -/
def opcodes : List Nat :=
  [0x01, 0x02, 0x03, 0x04, 0x10, 0x11, 0x20, 0x21, 0x28, 0x29, 0x30, 0x31, 0x40, 0x41, 0x50, 0x51, 0x60]

/-- The right an opcode needs (04 R73); NOP needs none. -/
def rightOf (op : Nat) : Option Nat :=
  if op = 2 || op = 4 then some 0
  else if op = 3 || op = 0x40 || op = 0x41 then some 1
  else if op = 0x10 || op = 0x11 then some 2
  else if op = 0x20 || op = 0x21 then some 3
  else if op = 0x28 || op = 0x29 then some 4
  else if op = 0x30 || op = 0x31 then some 5
  else if op = 0x50 || op = 0x51 then some 6
  else if op = 0x60 then some 7 else none

/-- Whether a ring's ROLE accepts an opcode (04 R74). -/
def roleAccepts (role op : Nat) : Bool :=
  if role = 0 then op != 0x10 && op != 0x11 else if role = 1 then op == 0x11 else if role = 2 then op == 0x10 else false

/-- Buffer bytes of STATS_SNAP (19 R458); none for a class and unit it does not list. -/
def statLen (c i : Nat) : Option Nat :=
  if c = 0x01 then (if i = 0 then some 12 else none)
  else if c = 0x03 then (if i = 0x40 then some 12 else none)
  else if c = 0x10 then (if i < 8 then some 12 else none)
  else if c = 0x11 then (if i < 4 then some 16 else none)
  else if c = 0x12 then (if i < 4 then some 20 else none)
  else if c = 0x13 then (if isConvEp i then some 12 else none)
  else if c = 0x16 then (if unitOk 0x16 i then some (4 * fixedCh i) else none)
  else if c = 0x20 then (if i < 8 then some 16 else none)
  else if c = 0x28 then (if i < 16 then some 24 else none)
  else if c = 0x30 then (if i < 64 then some 12 else none)
  else if c = 0x40 then (if i < 2 then some 80 else none)
  else if c = 0x41 then (if i < 2 then some 96 else none)
  else if c = 0x42 then (if i < 2 then some 16 else none)
  else if c = 0x43 then (if unitOk 0x43 i then some 36 else none)
  else if c = 0x50 then (if i < 16 then some 128 else none)
  else if c = 0x60 then (if i = 0 then some 20 else none)
  else none

/-- Longest frame a MAC may deliver, by class (12 R306, 13 R325). -/
def State.longestRx (s : State) (c p : Nat) : Nat :=
  let bad := if c = 0x40 then s.cfg c p 9 else s.cfg c p 0xA
  let mx := if c = 0x40 then s.cfg c p 7 else s.cfg c p 8
  let tg := if c = 0x40 then s.cfg c p 8 else s.cfg c p 9
  if bad = 1 then 9216 else mx + 4 * tg

/-- Longest frame of a port, FCS included, tagged or not (12 R303, R307). -/
def State.maxLen (s : State) (c p : Nat) (tagged : Bool) : Nat :=
  let mx := if c = 0x40 then s.cfg c p 7 else s.cfg c p 8
  let tg := if c = 0x40 then s.cfg c p 8 else s.cfg c p 9
  if tagged && tg = 1 then mx + 4 else mx

/-- A frame is tagged when bytes 12 and 13 are 0x81 and 0x00 (12 R303). -/
def isTagged (fr : List Byte) : Bool := beNat (sub fr 12 2) == 0x8100

/-- Number of rows that the host feeds (09 R225, R230). -/
def ModelDesc.hostP (d : ModelDesc) : Nat := popcount d.rows.toNat 64

/-- Result bytes of a TEST kind; none when reserved (17 R425). -/
def testLen (kind : Nat) : Option Nat :=
  if kind = 1 then some 64 else if kind = 2 then some 16 else if kind = 3 then some 0 else if kind = 4 then some 16
  else if kind = 5 then some 328 else if kind = 6 then some 3072 else none

/-- The unit and mode of a TEST exist (17 R425). -/
def testOk (kind unit mode : Nat) : Bool :=
  if kind = 1 then unit < 64 && mode < 2
  else if kind = 2 || kind = 5 || kind = 6 then unit < 8 && mode == 0
  else if kind = 3 then unit == 0 && mode == 0
  else if kind = 4 then unit < 2 && mode == 0 else false

/-- Class and unit of a TEST's unit (17 R425, R431). -/
def testUnit (kind unit : Nat) : Nat × Nat :=
  if kind = 1 then (0x30, unit) else if kind = 2 || kind = 6 then (0x28, 0x80 + unit) else if kind = 3 then (0x02, 0)
  else if kind = 4 then (0x41, unit) else (0x20, unit)

/-- Step 4: the length of a descriptor of function f on ring g (04 R78). -/
def State.lenCheck (s : State) (g : Nat) (d : Desc) : Option Outc :=
  let need (have_ want : Nat) : Option Outc := if have_ < want then some tooShort else if want < have_ then some tooLong else none
  let op := d.op
  if op = 3 then (if d.len16 = 0 then some tooShort else if 1024 < d.len16 then some tooLong else none)
  else if op = 0x10 || op = 0x11 then
    (if s.audioCh g = 0 then none else need d.argN (192 * s.audioCh g))
  else if op = 0x20 || (op = 0x28 && !d.reliable) then
    let c := if op = 0x20 then 0x40 else 0x41
    let lim := s.maxLen c d.port (isTagged (s.dmaBytes d.addrN 14)) - 4
    if d.len16 < 14 then some tooShort
    else if d.len16 < 60 && !d.pad then some tooShort
    else if lim < d.len16 then some tooLong else none
  else if op = 0x28 then
    (if d.len16 < 8 then some tooShort else if s.cfg 0x41 d.port 8 - 18 < d.len16 then some tooLong else none)
  else if op = 0x21 then (if d.len16 < s.longestRx 0x40 d.port then some tooShort else none)
  else if op = 0x29 then
    (if d.reliable then (if d.len16 < s.cfg 0x41 d.port 8 - 10 then some tooShort else none)
     else if d.len16 < s.longestRx 0x41 d.port then some tooShort else none)
  else if op = 0x40 then
    (if d.argN / 65536 = 0 then some tooShort
     else if 544 < d.argN % 65536 + d.argN / 65536 then some tooLong else none)
  else if op = 0x41 then
    match statLen (d.argN % 256) (fld d.argN 8 8) with
    | none => none
    | some n => need (d.argN / 65536) n
  else none

/-- Transfers that a descriptor may name: address, length, write. -/
def State.named (s : State) (d : Desc) : List (Nat × Nat × Bool) :=
  let op := d.op
  let a := d.addrN
  if op = 2 || op = 4 then [(a, d.argN, false)]
  else if op = 0x10 then [(a, d.argN, true)]
  else if op = 0x11 then [(a, d.argN, false)]
  else if op = 0x20 then (a, d.len16, false) :: (if d.ts then [(d.arg2N, 16, true)] else [])
  else if op = 0x21 then (a, d.len16, true) :: (if d.arg2N = 0 then [] else [(d.arg2N, 16, true)])
  else if op = 0x28 then [(a, d.len16, false)]
  else if op = 0x29 then [(a, d.len16, true)]
  else if op = 0x30 || op = 0x31 then
    match (s.model d.model).desc with
    | none => []
    | some m => if op = 0x30 then [(a, m.hostP * m.inW * 2, false)] else [(a, 32 + m.hostSteps * m.hostP * m.outW * 2, true)]
  else if op = 0x40 then [(a, 8 * (d.argN / 65536), true)]
  else if op = 0x41 then [(a, d.argN / 65536, true)]
  else if op = 0x50 then [(a, d.argN, false)]
  else if op = 0x51 then [(a, d.argN, true)]
  else if op = 0x60 then [(a, (testLen d.kind).getD 0, true)]
  else []

/-- Step 5: the transfers a descriptor names; one of no bytes is no DMA (04 R72). -/
def State.transfers (s : State) (d : Desc) : List (Nat × Nat × Bool) := (s.named d).filter fun x => x.2.1 != 0

/-- Class and unit that a descriptor is aimed at (04 R87 steps 6 and 7). METER_SNAP reads meters and STATS_SNAP counters, which answer whatever
their unit does: neither is aimed at a unit, but for the class and instance that 19 R458 does not list (DESIGN CHOICE, log 94). -/
def target (f : Nat) (d : Desc) : Option (Nat × Nat) :=
  let op := d.op
  if op = 2 || op = 3 || op = 4 then some (0x01, 0)
  else if op = 0x10 || op = 0x11 then some (0x50, f)
  else if op = 0x20 || op = 0x21 then some (0x40, d.port)
  else if op = 0x28 || op = 0x29 then some (0x41, d.port)
  else if op = 0x30 || op = 0x31 then some (0x28, d.model)
  else if op = 0x50 || op = 0x51 then some (0x60, 0)
  else if op = 0x60 then (if testOk d.kind d.unit d.mode then some (testUnit d.kind d.unit) else none)
  else none

/-- Step 7: the unit's intent and condition are up (04 R87, 05 R117). -/
def State.aimUp (s : State) (g : Nat) (d : Desc) (c i : Nat) : Bool :=
  if c = 0x01 then s.domOn 19
  else if c = 0x50 then 0 < s.audioCh g && s.cond 0x50 i
  else if c = 0x30 && d.op = 0x60 then true
  else if c = 0x28 && d.op = 0x60 then d.kind == 2 || (s.domOn (40 + (i - 0x80)) && s.domOn 48)
  else if c = 0x02 then true
  else s.intent c i && s.cond c i

/-- The opcode-specific checks of SEP_STEP and SEP_RESULT (09 R230). -/
def State.hostCheck (s : State) (g : Nat) (d : Desc) : Option Outc :=
  match (s.model d.model).desc with
  | none => some (unitDown 0x28 d.model)
  | some x =>
    if x.hostFn != g / 8 then some (access 2) else if d.op == 0x30 && x.hostSteps == 0 then some (unitDown 0x28 d.model) else none

/-- Steps 1 to 7 of 04 R87 for a descriptor of ring g; none when it passes. -/
def State.checkDesc (s : State) (g : Nat) (d : Desc) : Option Outc :=
  let f := g / 8
  if !opcodes.contains d.op then some (access 4)
  else if (rightOf d.op).any (fun b => !s.right f b) then some (access 2)
  else if !roleAccepts (s.ring g).role d.op then some (access 3)
  else
    match s.lenCheck g d with
    | some o => some o
    | none =>
      if d.op = 3 && !s.inWindowRw f d.addrN (8 * d.len16) then some (access 1)
      else if (s.transfers d).any (fun x => !s.inWindow f x.1 x.2.1 x.2.2) then some (access 1)
      else if d.op = 0x41 && (statLen (d.argN % 256) (fld d.argN 8 8)).isNone then
        some (unitDown (d.argN % 256) (fld d.argN 8 8))
      else if d.op = 0x41 && d.argN % 256 = 0x50 && f != 0 && fld d.argN 8 8 != f then some (access 2)
      else if d.op = 0x60 && !testOk d.kind d.unit d.mode then some (unitDown 0x70 d.kind)
      else
        match target f d with
        | none => none
        | some (c, i) =>
          if s.offline c i then some (unitOffline c i)
          else if !s.aimUp g d c i then some (unitDown c i)
          else if d.op = 0x30 || d.op = 0x31 then s.hostCheck g d
          else none

/-- The descriptors of the models that a set of settings applies. -/
def State.liveModels (s : State) : List ModelDesc := (List.range 16).filterMap fun m => (s.model m).desc

/-- Host element bytes per hop (02, E). -/
def hostBytes (ms : List ModelDesc) : Nat := sumOf (fun d => d.hostSteps * d.hostP * (d.inW + d.outW) * 2) ms

/-- Left side of L6 (02 R28): settings, models, functions with an enabled ring. -/
def ledgerRing (m : Map Word) (ms : List ModelDesc) (fns : Nat) : Nat :=
  let p := cfgN m 0x50 0 0
  let ch := (List.range 128).map fun g => cfgN m 0x50 (g / 8) (0x100 + g % 8)
  p * (sumOf (fun c => if c = 0 then 0 else 4 * c + 1) ch + ceilDiv (hostBytes ms) (cfgN m 0x28 0x40 1)) + 64 * fns

/-- Term L6 holds. -/
def ringTermOk (m : Map Word) (ms : List ModelDesc) (fns : Nat) : Bool :=
  ledgerRing m ms fns ≤ cfgN m 0x50 0 0 * 16384

/-- F: functions with at least one enabled ring (02). -/
def State.enabledFns (s : State) : List Nat :=
  (List.range 16).filter fun f => (List.range 8).any fun k => (s.ring (8 * f + k)).on

/-- The enable of a ring fails on configuration (04 R74, R99, R67). -/
def State.ringCfgErr (s : State) (g : Nat) : Bool :=
  let r := s.ring g
  let l := fld r.cfg.toNat 2 4
  !(4 ≤ l && l ≤ 12) || !s.fnExists (g / 8) || (!r.isCq && (r.role == 3 || !(s.ring (s.cqOf g)).isCq))

/-- A written ENABLE takes effect at a sweep (04 R93, R99). An enable that succeeds leaves CFG_ERR and BUDGET_FAIL of an earlier one to be
written 1, and a completion ring starts with no slot reserved, whatever descriptors of an earlier pass are outstanding (log 94). -/
def State.tryEnable (s : State) (g : Nat) : State :=
  let r := s.ring g
  if !r.want then s
  else if s.ringCfgErr g then s.putRing g { r with want := false, cfgErr := true }
  else
    let fs := s.enabledFns
    let n := if fs.contains (g / 8) then fs.length else fs.length + 1
    if ringTermOk s.cmt.cfg s.liveModels n then
      s.putRing g { r with want := false, on := true, err := false, idx := 0, head := 0, phase := true, resv := 0 }
    else s.putRing g { r with want := false, budgetFail := true }

end Sys2Proof.Machine
end

