-- ==== Sys2Proof/Machine/Vats.lean ====
section
/-! DEFINITION. Machine/Vats.lean: port A of the Vats, SECDED (10 R250 to R254), bank power-up, and March H11 (10 R256 to R262). -/

namespace Sys2Proof.Machine

/-- Replace the march engine's record. -/
def State.putMarch (s : State) (v : MarchSt) : State := s.setVat { s.vat with march := v }

/-- The words of a bank all 0 with valid check bits, the rows that spares stand for among them (10 R256, R263). -/
def State.clearBank (s : State) (b : Nat) : State :=
  let lo := 0x10000000000 + 4 * b * 512
  let out (k : Nat) : Bool := (k < bankBase b || bankBase (b + 1) ≤ k) && (k < lo || lo + 2048 ≤ k)
  let s := s.setVat { s.vat with cells := s.vat.cells.filter fun e => out (8 * e.1) }
  s.setMem (s.mem.filter fun e => out e.1)

/-- SCRUB_WRITE_BACK (10 R254): the oldest pending corrected word of the bank is written back. -/
def execScrubWriteBack (bank : Nat) (s : State) : Host.Outcome State Fault Refusal :=
  .next (match (s.bank bank).scrub with
    | [] => s
    | (w, v) :: _ =>
      if s.bankOn bank && !s.time.ckeOff then (s.vatStoreWord (bankBase bank + 8 * w) (leBytes 8 v.toNat)).1 else s)

/-- BANK_POWER_UP_END (10 R256): On, or held in Retention; a bank that was off, or lost its contents, is cleared. -/
def execBankPowerUpEnd (bank : Nat) (s : State) : Host.Outcome State Fault Refusal :=
  let r := s.bank bank
  .next (if bank < 64 && r.pwr == .poweringUp then
      (let s1 := if r.fromOff || r.undef then s.clearBank bank else s
       s1.putBank bank { r with pwr := if r.toRet then .retention else .on, toRet := false, fromOff := false, undef := false,
                                scrub := if r.fromOff || r.undef then [] else r.scrub })
    else s)

/-! ### March H11 -/

/-- The oldest dispatched TEST of a kind that no unit has taken. -/
def RingSt.oldestTest (r : RingSt) (kind : Nat) : Option Req :=
  r.reqs.find? fun q => q.desc.opcode.toNat = 0x60 && q.desc.kind = kind && q.live && !q.taken && q.ended.isNone

/-- First byte and byte after the last of the blob store region (05 R120). -/
def State.storeBounds (s : State) : Nat × Nat :=
  (s.cmt.storeBase.toNat, s.cmt.storeBase.toNat + 4096 * s.cmt.storePages.toNat)

/-- A bank overlaps the blob store region (10 R247, R261). -/
def State.bankInStore (s : State) (b : Nat) : Bool :=
  s.storeBounds.1 < bankBase (b + 1) && bankBase b < s.storeBounds.2 && 0 < s.cmt.storePages.toNat

/-- A bank has a non-zero ROLE in the applied configuration or in a pending one (10 R261). -/
def State.bankClaimed (s : State) (b : Nat) : Bool :=
  s.cfg 0x30 b 1 != 0 || s.cmt.queue.any fun c => c.tuples.any fun t => t.1 == sid 0x30 b 1 && t.2 != 0

/-- VAT_MARCH (10 R261). -/
def execVatMarch (ring : Nat) (s : State) : Host.Outcome State Fault Refusal :=
  .next (match (s.ring ring).oldestTest 1 with
    | none => s
    | some q =>
      let b := q.desc.unit
      if s.vat.march.busy then s.finish ring q.id (inUse 0x30 0x40)
      else if !s.bankOn b || s.time.ckeOff then s.finish ring q.id (unitDown 0x30 b)
      else if q.desc.mode = 0 && (s.bankClaimed b || s.bankInStore b) then s.finish ring q.id (inUse 0x30 b)
      else
        (s.take ring q.id).putMarch
          { busy := true, bank := b, pres := q.desc.mode == 1, word := 0, ring := ring, id := q.id, addr := q.desc.addr })

/-- The backgrounds of March H11. -/
inductive March where
  | d | nd | c | nc
deriving DecidableEq, Repr

/-- An operation of an element: a write or a read of a background. -/
inductive MarchOp where
  | w (b : March)
  | r (b : March)
deriving DecidableEq, Repr

/-- The 11 elements: whether the order is descending, and the operations (10 R258). -/
def marchElems : List (Bool × List MarchOp) :=
  [(false, [.w .d]), (false, [.r .d, .w .nd]), (false, [.r .nd, .w .d]), (true, [.r .d, .w .nd]), (true, [.r .nd, .w .d]),
   (false, [.r .d]), (false, [.r .d, .w .nd, .r .nd]), (true, [.r .nd, .w .d, .r .d]), (false, [.w .c]),
   (false, [.r .c, .w .nc, .r .nc]), (false, [.r .nc])]

/-- The words of a bank. -/
def bankWords : Nat := 32768

/-- The checkerboard of a word (10 R259). -/
def marchChecker (w : Nat) : BitVec 72 := if w % 2 = 0 then 0xAAAAAAAAAAAAAAAAAA else 0x555555555555555555

/-- A background of word `w`: D is given, C is D with the checkerboard added; in destructive mode D is 0 (10 R259). -/
def marchBack (w : Nat) (d : BitVec 72) : March → BitVec 72
  | .d => d
  | .nd => ~~~d
  | .c => d ^^^ marchChecker w
  | .nc => ~~~(d ^^^ marchChecker w)

/-- Operations on the 72 cells of a word, the wrong cells of each read, by its place among the operations, being given: the cells after them
and whether a read differed from its background (10 R258). -/
def marchRun (w : Nat) (d : BitVec 72) (bad : List (Nat × BitVec 72)) : Nat → List MarchOp → BitVec 72 × Bool → BitVec 72 × Bool
  | _, [], x => x
  | k, .w b :: r, x => marchRun w d bad (k + 1) r (marchBack w d b, x.2)
  | k, .r b :: r, x =>
    let seen := x.1 ^^^ (match bad.find? (fun e => e.1 = k) with | some e => e.2 | none => 0)
    marchRun w d bad (k + 1) r (x.1, x.2 || seen != marchBack w d b)

/-- Put a failing word among the others, ascending, once. -/
def MarchSt.note (m : MarchSt) (fail : Bool) : MarchSt :=
  { m with fails := if fail && !m.fails.contains m.word then insBy (fun k => k) m.word m.fails else m.fails }

/-- The cells of a word hold raw data bits; its check cells are of no more use until the next write. -/
def State.rawWord (s : State) (a : Nat) (v : BitVec 72) : State :=
  s.setMem (memPut s.mem (s.vatCell a) (leBytes 8 (v.toNat % 2 ^ 64)))

/-- The lock register is written back and the word released (10 R259, R260). -/
def State.marchRelease (s : State) : State :=
  let m := s.vat.march
  match m.lock with
  | none => s
  | some (w, v) => ((s.putMarch { m with lock := none }).vatStoreWord (bankBase m.bank + 8 * w) (leBytes 8 v.toNat)).1

/-- One word of a preserving test: the word locked before it is released; the word is read with correction into the lock register and locked,
and the 11 elements run on its cells; one that cannot be corrected fails and is skipped without a lock (10 R259). -/
def State.marchKeep (s : State) (res : MarchRes) : State :=
  let s := s.marchRelease
  let m := s.vat.march
  let a := bankBase m.bank + 8 * m.word
  let next (m : MarchSt) : MarchSt := { m with ended := m.word + 1 == bankWords }
  let t := (s.upset a (if res.uncorr then .uncorrectable else .ok)).vatTouch a
  let s := t.1
  let m := s.vat.march
  if t.2 = .uncorrectable then s.putMarch (next (m.note true))
  else
    let v := BitVec.ofNat 64 (leNat (s.vatBytes a 8))
    let d := (s.sound a).vatCodeword a
    let x := marchRun m.word d res.bad 0 (marchElems.flatMap (·.2)) (d, false)
    let s := (s.rawWord a x.1)
    s.putMarch { next (m.note x.2) with lock := some (m.word, v) }

/-- One word of one element of a destructive test, or of the clearing pass that ends it; the elements run across the whole bank in turn (10
R258, R259). -/
def State.marchDestroy (s : State) (res : MarchRes) : State :=
  let m := s.vat.march
  let a := bankBase m.bank + 8 * m.word
  if 11 ≤ m.elem then
    (let s := ((s.rawWord a 0).sound a)
     s.putMarch (if m.word + 1 = bankWords then { m with ended := true } else { m with word := m.word + 1 }))
  else
    let e := nth (false, []) marchElems m.elem
    let old : BitVec 72 := match (marchElems.take m.elem).flatMap (·.2) |>.reverse.findSome? (fun o => match o with | .w b => some b | .r _ => none) with
      | some b => marchBack m.word 0 b
      | none => 0
    let x := marchRun m.word 0 res.bad 0 e.2 (old, false)
    let s := s.rawWord a x.1
    let m := m.note x.2
    let last := if e.1 then m.word = 0 else m.word + 1 = bankWords
    let down := (nth (false, []) marchElems (m.elem + 1)).1
    s.putMarch (if last then { m with elem := m.elem + 1, word := if down then bankWords - 1 else 0 }
      else { m with word := if e.1 then m.word - 1 else m.word + 1 })

/-- MARCH_WORD (10 R258 to R260): the next word of the test. -/
def execMarchWord (res : MarchRes) (s : State) : Host.Outcome State Fault Refusal :=
  let m := s.vat.march
  .next (if !m.busy || m.ended || s.time.ckeOff then s
    else if m.pres then
      (s.putMarch { m with begun := true, word := if m.begun then m.word + 1 else 0 }).marchKeep res
    else s.marchDestroy res)

/-- Rows of failing words, ascending, each once (10 R244, R261). -/
def marchRows (fails : List Nat) : List Nat := (fails.map (· / 64)).eraseDups

/-- The 64 bytes of a march result (10 R261). -/
def marchBytes (m : MarchSt) (abort : Bool) : List Byte :=
  let rows := marchRows m.fails
  let first := match m.fails with | [] => 0 | w :: _ => bankBase m.bank + 8 * w
  leBytes 4 (if abort then 2 else if m.fails.isEmpty then 0 else 1) ++ leBytes 4 m.fails.length ++ leBytes 8 first
    ++ leBytes 2 rows.length ++ leBytes 14 0 ++ (List.range 16).flatMap fun i => leBytes 2 (nth 0xFFFF rows i)

/-- End the test with an outcome: result buffer and completion; a destructive test leaves the bank cleared (10 R259, R261, R262). -/
def State.marchFinish (s : State) (abort : Bool) (o : Outc) : State :=
  let m := s.vat.march
  if !m.busy then s
  else
    let s := s.marchRelease.putMarch {}
    let s := if m.pres then s else s.clearBank m.bank
    s.finishWrite m.ring m.id m.addr.toNat (marchBytes m abort) o

/-- End the test, completing OK with the count of failing words. -/
def State.marchStop (s : State) (abort : Bool) : State := s.marchFinish abort (ok s.vat.march.fails.length)

/-- MARCH_END (10 R261, R262): after the last word, or aborted. -/
def execMarchEnd (abort : Bool) (s : State) : Host.Outcome State Fault Refusal :=
  .next (if abort || s.vat.march.ended then s.marchStop abort else s)

end Sys2Proof.Machine
end

