-- ==== Sys2Proof/Machine/Churn.lean ====
section
/-! DEFINITION. Machine/Churn.lean: the instructions of Churn (08 R182 to R200, R209). Each command executes its instruction in the
next program slot of its PU (log 13); an instruction that is not executed still takes its slot. -/

namespace Sys2Proof.Machine

/-- Replace a PU's record. -/
def State.putPu (s : State) (p : Nat) (v : PuSt) : State := s.setChurn { s.churn with pus := tset {} s.churn.pus p v }

/-- Count on a PU: SAT 0, DCLAMP 1, CORR 2, UNCORR 3 (08 R213). -/
def State.puCount (s : State) (p place : Nat) (b : Bool) : State := if b then s.bump 0x20 p place else s

/-- A protected read of a PU that is not clean (08 R209): CORR, or UNCORR with CHURN_ECC once per tick. -/
def State.puEcc (s : State) (p : Nat) (e : Ecc) : State :=
  match e with
  | .ok => s
  | .corrected => s.bump 0x20 p 2
  | .uncorrectable =>
    let s := s.bump 0x20 p 3
    let u := s.pu p
    if u.eccPosted then s else (s.putPu p { u with eccPosted := true }).post0 0x40 (unitReason 0x20 p)

/-- A PU executes instructions: its domain is powered and CK_E runs (08 R210, 02 R39). -/
def State.puRuns (s : State) (p : Nat) : Bool := s.domOn (11 + p) && !s.time.ckeOff && (s.pu p).slot < progSlots

/-- One program slot of a PU: results due become visible, the instruction acts where its predicate lets it, the slot ends (08 R182,
R186, R188). -/
def State.inSlot (s : State) (pu : BitVec 3) (p : Pred) (f : State → State) : State :=
  let n := pu.toNat
  if !s.puRuns n then s
  else
    let s := s.putPu n (s.pu n).now
    let s := if (s.pu n).executes p then f s else s
    s.putPu n { s.pu n with slot := (s.pu n).slot + 1 }

/-- Write a data register after a latency. -/
def State.sendD (s : State) (n lat : Nat) (d : BitVec 6) (v : Word) : State := s.putPu n ((s.pu n).send lat d v)

/-- Round-and-saturate result to a data register; saturation counts (08 R184). -/
def State.sendSat (s : State) (n lat : Nat) (d : BitVec 6) (v : Int) : State :=
  (s.puCount n 0 (sat32 v != v)).sendD n lat d (wOf (sat32 v))

/-- Write a predicate, latency 1. -/
def State.sendPred (s : State) (n : Nat) (d : BitVec 3) (v : Bool) : State := s.putPu n ((s.pu n).sendP 1 d v)

/-- Write an accumulator; saturation counts (08 R184). -/
def State.sendAcc (s : State) (n : Nat) (a : BitVec 2) (v : Int) : State :=
  let s := s.puCount n 0 (sat80 v != v)
  s.putPu n ((s.pu n).accWrite a (sat80 v))

/-- The glided value of a coefficient (08 R195). -/
def PuSt.coefVal (u : PuSt) (k : Nat) : Word :=
  match u.glides.find? (fun e => e.1 = k) with
  | some g => g.2.v
  | none => tget 0 u.coef k

/-- Read a coefficient; a word that was corrected waits for its write-back, one that cannot be reads 0 (08 R209). -/
def State.coefRead (s : State) (n : Nat) (k : BitVec 12) (e : Ecc) : State × Word :=
  let s1 := s.puEcc n e
  match e with
  | .ok => (s1, (s.pu n).coefVal k.toNat)
  | .corrected => (s1.putPu n { s1.pu n with fixes := (s1.pu n).fixes ++ [(false, k.toNat)] }, (s.pu n).coefVal k.toNat)
  | .uncorrectable => (s1, 0)

/-- Internal address of sample `q` of a delay line or Vat table (08 R190). -/
def Geom.addr (g : Geom) (q : Nat) : Nat := bankBase g.bank + (g.offset + q) * 4

/-- Read a Vat word for Churn (08 R209, 10 R254). -/
def State.churnRead (s : State) (n a : Nat) (e : Ecc) : State × Word :=
  let r := s.portARead a e
  (r.1.puEcc n r.2.2, r.2.1)

/-- A declared line, table or Vat table. -/
def PuSt.line (u : PuSt) (k : Nat) : Option Geom := u.lines[k]?
def PuSt.lineState (u : PuSt) (k : Nat) : LineSt := tget {} u.lineSt k

/-- A read of a delay line at delay `d` < LEN (08 R191): 0 when its age exceeds FILL. -/
def State.lineRead (s : State) (n k d : Nat) (g : Geom) (e : Ecc) : State × Word :=
  let l := (s.pu n).lineState k
  let age := if d = 0 && !l.wrote then g.len else d
  if l.fill < age then (s, 0)
  else s.churnRead n (g.addr (if l.wp < d then l.wp + g.len - d else l.wp - d)) e

/-- A value for a read that no applied program can make, after an undetected error altered a word (log 14). -/
def State.sendFree (s : State) (n lat : Nat) (d : BitVec 6) : State :=
  let x := s.draw
  x.1.sendD n lat d (BitVec.ofNat 32 x.2.toNat)

/-! ### Operations, with what the check of a word read finds -/

def State.opLdc (s : State) (pu : BitVec 3) (p : Pred) (d : BitVec 6) (idx : BitVec 12) (e : Ecc) : State :=
  s.inSlot pu p fun s => let r := s.coefRead pu.toNat idx e; r.1.sendD pu.toNat 1 d r.2

def State.opDrd (s : State) (pu : BitVec 3) (p : Pred) (d line : BitVec 6) (delay : BitVec 21) (e : Ecc) : State :=
  s.inSlot pu p fun s =>
    match (s.pu pu.toNat).line line.toNat with
    | none => s.sendFree pu.toNat 4 d
    | some g =>
      if g.len ≤ delay.toNat then s.sendFree pu.toNat 4 d
      else let r := s.lineRead pu.toNat line.toNat delay.toNat g e; r.1.sendD pu.toNat 4 d r.2

def State.opDrdx (s : State) (pu : BitVec 3) (p : Pred) (d b line : BitVec 6) (off : BitVec 21) (e : Ecc) : State :=
  s.inSlot pu p fun s =>
    match (s.pu pu.toNat).line line.toNat with
    | none => s.sendFree pu.toNat 4 d
    | some g =>
      let x := ((s.pu pu.toNat).dreg b).toNat + off.toNat
      let s := s.puCount pu.toNat 1 (g.len ≤ x)
      let r := s.lineRead pu.toNat line.toNat (min x (g.len - 1)) g e
      r.1.sendD pu.toNat 4 d r.2

def State.opVrd (s : State) (pu : BitVec 3) (p : Pred) (d b : BitVec 6) (tab : BitVec 3) (off : BitVec 21) (e : Ecc) : State :=
  s.inSlot pu p fun s =>
    match (s.pu pu.toNat).vtabs[tab.toNat]? with
    | none => s.sendFree pu.toNat 4 d
    | some g =>
      let x := ((s.pu pu.toNat).dreg b).toNat + off.toNat
      let s := s.puCount pu.toNat 1 (g.len ≤ x)
      let r := s.churnRead pu.toNat (g.addr (min x (g.len - 1))) e
      r.1.sendD pu.toNat 4 d r.2

/-- The value of a lookup table at A (08 R197). -/
def PuSt.lookup (u : PuSt) (t : LutTab) (a : Word) : Int :=
  let w := if t.signed then (a + 0x80000000).toNat else a.toNat
  let i := w >>> (32 - t.log2n)
  let f := (w >>> (16 - t.log2n)) % 65536
  let v (k : Nat) : Int := (tget 0 u.lut (t.base + k)).toInt
  if t.interp then v i + rndShr ((v (i + 1) - v i) * f) 16 else if f < 0x8000 then v i else v (i + 1)

def State.opMacc (s : State) (pu : BitVec 3) (p : Pred) (acc : BitVec 2) (a : BitVec 6) (idx : BitVec 12) (e : Ecc) : State :=
  s.inSlot pu p fun s =>
    let r := s.coefRead pu.toNat idx e
    r.1.sendAcc pu.toNat acc ((s.pu pu.toNat).accNow acc + ((s.pu pu.toNat).dreg a).toInt * r.2.toInt)

def State.opMpyc (s : State) (pu : BitVec 3) (p : Pred) (acc : BitVec 2) (a : BitVec 6) (idx : BitVec 12) (e : Ecc) : State :=
  s.inSlot pu p fun s =>
    let r := s.coefRead pu.toNat idx e
    r.1.sendAcc pu.toNat acc (((s.pu pu.toNat).dreg a).toInt * r.2.toInt)

/-- A result of one data register from the visible registers, latency `lat`, rounded and saturated. -/
def State.opArith (s : State) (pu : BitVec 3) (p : Pred) (lat : Nat) (d : BitVec 6) (f : PuSt → Int) : State :=
  s.inSlot pu p fun s => s.sendSat pu.toNat lat d (f (s.pu pu.toNat))

/-- A result of one data register that cannot saturate, latency 1. -/
def State.opMove (s : State) (pu : BitVec 3) (p : Pred) (d : BitVec 6) (f : PuSt → Word) : State :=
  s.inSlot pu p fun s => s.sendD pu.toNat 1 d (f (s.pu pu.toNat))

/-- A result of one predicate. -/
def State.opPred (s : State) (pu : BitVec 3) (p : Pred) (d : BitVec 3) (f : PuSt → Bool) : State :=
  s.inSlot pu p fun s => s.sendPred pu.toNat d (f (s.pu pu.toNat))

/-- A result of one accumulator. -/
def State.opAcc (s : State) (pu : BitVec 3) (p : Pred) (acc : BitVec 2) (f : PuSt → Int) : State :=
  s.inSlot pu p fun s => s.sendAcc pu.toNat acc (f (s.pu pu.toNat))

/-! ### The commands -/

/-- NOP (08 R187). -/
def execChurnNop (pu : BitVec 3) (p : Pred) (s : State) : Host.Outcome State Fault Refusal := .next (s.inSlot pu p fun s => s)

/-- INB (08 R198). -/
def execInb (pu : BitVec 3) (p : Pred) (d : BitVec 6) (ch : BitVec 8) (s : State) : Host.Outcome State Fault Refusal :=
  .next (s.inSlot pu p fun s => s.sendD pu.toNat 1 d (tget 0 s.audio.inBus ch.toNat))

/-- OUTB (08 R198). -/
def execOutb (pu : BitVec 3) (p : Pred) (a : BitVec 6) (ch : BitVec 8) (s : State) : Host.Outcome State Fault Refusal :=
  .next (s.inSlot pu p fun s =>
    s.setChurn { s.churn with outBus := tset 0 s.churn.outBus ch.toNat ((s.pu pu.toNat).dreg a) })

/-- PBR (08 R199): the read bank. -/
def execPbr (pu : BitVec 3) (p : Pred) (d : BitVec 6) (reg : BitVec 10) (s : State) : Host.Outcome State Fault Refusal :=
  .next (s.inSlot pu p fun s => s.sendD pu.toNat 1 d (tget 0 s.churn.patchR reg.toNat))

/-- PBW (08 R199): the write bank. -/
def execPbw (pu : BitVec 3) (p : Pred) (a : BitVec 6) (reg : BitVec 10) (s : State) : Host.Outcome State Fault Refusal :=
  .next (s.inSlot pu p fun s =>
    s.setChurn { s.churn with patchW := tset none s.churn.patchW reg.toNat (some ((s.pu pu.toNat).dreg a)) })

/-- LDC (08 R195). -/
def execLdc (pu : BitVec 3) (p : Pred) (d : BitVec 6) (idx : BitVec 12) (s : State) : Host.Outcome State Fault Refusal :=
  .next (s.opLdc pu p d idx .ok)

/-- LDI (08 R187). -/
def execLdi (pu : BitVec 3) (p : Pred) (d : BitVec 6) (imm : BitVec 32) (s : State) : Host.Outcome State Fault Refusal :=
  .next (s.opMove pu p d fun _ => imm)

/-- MOV (08 R187). -/
def execMov (pu : BitVec 3) (p : Pred) (d : BitVec 6) (a : BitVec 6) (s : State) : Host.Outcome State Fault Refusal :=
  .next (s.opMove pu p d fun u => u.dreg a)

/-- UNPKL (08 R187): the low half moved up. -/
def execUnpkl (pu : BitVec 3) (p : Pred) (d : BitVec 6) (a : BitVec 6) (s : State) : Host.Outcome State Fault Refusal :=
  .next (s.opMove pu p d fun u => u.dreg a <<< 16)

/-- UNPKH (08 R187): the high half. -/
def execUnpkh (pu : BitVec 3) (p : Pred) (d : BitVec 6) (a : BitVec 6) (s : State) : Host.Outcome State Fault Refusal :=
  .next (s.opMove pu p d fun u => u.dreg a &&& 0xFFFF0000)

/-- The two halves of PACK before saturation (08 R187). -/
def packHalf (w : Word) : Int := rndShr w.toInt 16

/-- PACK (08 R187). -/
def execPack (pu : BitVec 3) (p : Pred) (d : BitVec 6) (a : BitVec 6) (b : BitVec 6) (s : State) : Host.Outcome State Fault Refusal :=
  .next (s.inSlot pu p fun s =>
    let x := packHalf ((s.pu pu.toNat).dreg a)
    let y := packHalf ((s.pu pu.toNat).dreg b)
    let s := s.puCount pu.toNat 0 (sat16 x != x || sat16 y != y)
    s.sendD pu.toNat 1 d (BitVec.ofInt 16 (sat16 y) ++ BitVec.ofInt 16 (sat16 x)))

/-- DWR (08 R191, R192): position WP takes A; an undeclared line takes nothing (log 14). -/
def execDwr (pu : BitVec 3) (p : Pred) (a : BitVec 6) (line : BitVec 6) (s : State) : Host.Outcome State Fault Refusal :=
  .next (s.inSlot pu p fun s =>
    match (s.pu pu.toNat).line line.toNat with
    | none => s
    | some g =>
      let u := s.pu pu.toNat
      let l := u.lineState line.toNat
      (s.putPu pu.toNat { u with lineSt := tset {} u.lineSt line.toNat { l with wrote := true } }).portAWrite (g.addr l.wp) (u.dreg a))

/-- DRD (08 R191). -/
def execDrd (pu : BitVec 3) (p : Pred) (d : BitVec 6) (line : BitVec 6) (delay : BitVec 21) (ecc : Ecc) (s : State) :
    Host.Outcome State Fault Refusal := .next (s.opDrd pu p d line delay ecc)

/-- DRDX (08 R191, R192). -/
def execDrdx (pu : BitVec 3) (p : Pred) (d : BitVec 6) (b : BitVec 6) (line : BitVec 6) (off : BitVec 21) (ecc : Ecc) (s : State) :
    Host.Outcome State Fault Refusal := .next (s.opDrdx pu p d b line off ecc)

/-- VRD (08 R192, R194). -/
def execVrd (pu : BitVec 3) (p : Pred) (d : BitVec 6) (b : BitVec 6) (tab : BitVec 3) (off : BitVec 21) (ecc : Ecc) (s : State) :
    Host.Outcome State Fault Refusal := .next (s.opVrd pu p d b tab off ecc)

/-- LUT (08 R197). -/
def execLut (pu : BitVec 3) (p : Pred) (d : BitVec 6) (a : BitVec 6) (tab : BitVec 4) (s : State) : Host.Outcome State Fault Refusal :=
  .next (s.inSlot pu p fun s =>
    match (s.pu pu.toNat).tables[tab.toNat]? with
    | none => s.sendFree pu.toNat 3 d
    | some t => s.sendSat pu.toNat 3 d ((s.pu pu.toNat).lookup t ((s.pu pu.toNat).dreg a)))

/-- ADD (08 R187). -/
def execAdd (pu : BitVec 3) (p : Pred) (d : BitVec 6) (a : BitVec 6) (b : BitVec 6) (s : State) : Host.Outcome State Fault Refusal :=
  .next (s.opArith pu p 1 d fun u => (u.dreg a).toInt + (u.dreg b).toInt)

/-- SUB (08 R187). -/
def execSub (pu : BitVec 3) (p : Pred) (d : BitVec 6) (a : BitVec 6) (b : BitVec 6) (s : State) : Host.Outcome State Fault Refusal :=
  .next (s.opArith pu p 1 d fun u => (u.dreg a).toInt - (u.dreg b).toInt)

/-- NEG (08 R187). -/
def execNeg (pu : BitVec 3) (p : Pred) (d : BitVec 6) (a : BitVec 6) (s : State) : Host.Outcome State Fault Refusal :=
  .next (s.opArith pu p 1 d fun u => -(u.dreg a).toInt)

/-- ABS (08 R187). -/
def execAbs (pu : BitVec 3) (p : Pred) (d : BitVec 6) (a : BitVec 6) (s : State) : Host.Outcome State Fault Refusal :=
  .next (s.opArith pu p 1 d fun u => ((u.dreg a).toInt.natAbs : Int))

/-- MIN (08 R187). -/
def execMin (pu : BitVec 3) (p : Pred) (d : BitVec 6) (a : BitVec 6) (b : BitVec 6) (s : State) : Host.Outcome State Fault Refusal :=
  .next (s.opMove pu p d fun u => if (u.dreg b).toInt < (u.dreg a).toInt then u.dreg b else u.dreg a)

/-- MAX (08 R187). -/
def execMax (pu : BitVec 3) (p : Pred) (d : BitVec 6) (a : BitVec 6) (b : BitVec 6) (s : State) : Host.Outcome State Fault Refusal :=
  .next (s.opMove pu p d fun u => if (u.dreg a).toInt < (u.dreg b).toInt then u.dreg b else u.dreg a)

/-- MULR (08 R187): latency 3. -/
def execMulr (pu : BitVec 3) (p : Pred) (d : BitVec 6) (a : BitVec 6) (b : BitVec 6) (s : State) : Host.Outcome State Fault Refusal :=
  .next (s.opArith pu p 3 d fun u => rndShr ((u.dreg a).toInt * (u.dreg b).toInt) 31)

/-- A × 2^sh, right shifts rounded (08 R187, ASH). -/
def ashOf (a sh : Int) : Int := if 0 ≤ sh then a * 2 ^ sh.toNat else rndShr a (-sh).toNat

/-- ASH (08 R187). -/
def execAsh (pu : BitVec 3) (p : Pred) (d : BitVec 6) (a : BitVec 6) (sh : BitVec 6) (s : State) : Host.Outcome State Fault Refusal :=
  .next (s.opArith pu p 1 d fun u => ashOf (u.dreg a).toInt sh.toInt)

/-- AND (08 R187). -/
def execAnd (pu : BitVec 3) (p : Pred) (d : BitVec 6) (a : BitVec 6) (b : BitVec 6) (s : State) : Host.Outcome State Fault Refusal :=
  .next (s.opMove pu p d fun u => u.dreg a &&& u.dreg b)

/-- OR (08 R187). -/
def execOr (pu : BitVec 3) (p : Pred) (d : BitVec 6) (a : BitVec 6) (b : BitVec 6) (s : State) : Host.Outcome State Fault Refusal :=
  .next (s.opMove pu p d fun u => u.dreg a ||| u.dreg b)

/-- XOR (08 R187). -/
def execXor (pu : BitVec 3) (p : Pred) (d : BitVec 6) (a : BitVec 6) (b : BitVec 6) (s : State) : Host.Outcome State Fault Refusal :=
  .next (s.opMove pu p d fun u => u.dreg a ^^^ u.dreg b)

/-- SEL (08 R187). -/
def execSel (pu : BitVec 3) (p : Pred) (d : BitVec 6) (a : BitVec 6) (b : BitVec 6) (pr : BitVec 3) (inv : Bool) (s : State) :
    Host.Outcome State Fault Refusal :=
  .next (s.opMove pu p d fun u => if u.preg pr.toNat != inv then u.dreg a else u.dreg b)

/-- CMP (08 R189). -/
def execCmp (pu : BitVec 3) (p : Pred) (pd : BitVec 3) (a : BitVec 6) (b : BitVec 6) (cond : BitVec 3) (s : State) :
    Host.Outcome State Fault Refusal := .next (s.opPred pu p pd fun u => condHolds cond.toNat (u.dreg a) (u.dreg b))

/-- CMPI (08 R189). -/
def execCmpi (pu : BitVec 3) (p : Pred) (pd : BitVec 3) (a : BitVec 6) (cond : BitVec 3) (imm : BitVec 32) (s : State) :
    Host.Outcome State Fault Refusal := .next (s.opPred pu p pd fun u => condHolds cond.toNat (u.dreg a) imm)

/-- PLOG (08 R187). -/
def execPlog (pu : BitVec 3) (p : Pred) (pd : BitVec 3) (pa : BitVec 3) (pb : BitVec 3) (lop : BitVec 2) (s : State) :
    Host.Outcome State Fault Refusal := .next (s.opPred pu p pd fun u => plogOf lop.toNat (u.preg pa.toNat) (u.preg pb.toNat))

/-- MAC (08 R187, R188). -/
def execMac (pu : BitVec 3) (p : Pred) (acc : BitVec 2) (a : BitVec 6) (b : BitVec 6) (s : State) : Host.Outcome State Fault Refusal :=
  .next (s.opAcc pu p acc fun u => u.accNow acc + (u.dreg a).toInt * (u.dreg b).toInt)

/-- MSU (08 R187, R188). -/
def execMsu (pu : BitVec 3) (p : Pred) (acc : BitVec 2) (a : BitVec 6) (b : BitVec 6) (s : State) : Host.Outcome State Fault Refusal :=
  .next (s.opAcc pu p acc fun u => u.accNow acc - (u.dreg a).toInt * (u.dreg b).toInt)

/-- MACC (08 R187, R195). -/
def execMacc (pu : BitVec 3) (p : Pred) (acc : BitVec 2) (a : BitVec 6) (idx : BitVec 12) (s : State) : Host.Outcome State Fault Refusal :=
  .next (s.opMacc pu p acc a idx .ok)

/-- MPY (08 R187). -/
def execMpy (pu : BitVec 3) (p : Pred) (acc : BitVec 2) (a : BitVec 6) (b : BitVec 6) (s : State) : Host.Outcome State Fault Refusal :=
  .next (s.opAcc pu p acc fun u => (u.dreg a).toInt * (u.dreg b).toInt)

/-- MPYC (08 R187, R195). -/
def execMpyc (pu : BitVec 3) (p : Pred) (acc : BitVec 2) (a : BitVec 6) (idx : BitVec 12) (s : State) : Host.Outcome State Fault Refusal :=
  .next (s.opMpyc pu p acc a idx .ok)

/-- ACCST (08 R187, R188). -/
def execAccst (pu : BitVec 3) (p : Pred) (d : BitVec 6) (acc : BitVec 2) (clear : Bool) (sh : BitVec 5) (s : State) :
    Host.Outcome State Fault Refusal :=
  .next (s.inSlot pu p fun s =>
    let v := rndShr ((s.pu pu.toNat).accSeen acc) (31 - sh.toInt).toNat
    let s := s.sendSat pu.toNat 1 d v
    if clear then s.putPu pu.toNat ((s.pu pu.toNat).accWrite acc 0) else s)

/-- ACCLD (08 R187). -/
def execAccld (pu : BitVec 3) (p : Pred) (acc : BitVec 2) (a : BitVec 6) (s : State) : Host.Outcome State Fault Refusal :=
  .next (s.opAcc pu p acc fun u => (u.dreg a).toInt * 2 ^ 31)

/-- ACCADD (08 R187, R188): the source as of 3 slots earlier. -/
def execAccadd (pu : BitVec 3) (p : Pred) (acc : BitVec 2) (src : BitVec 2) (s : State) : Host.Outcome State Fault Refusal :=
  .next (s.opAcc pu p acc fun u => u.accNow acc + u.accSeen src)

end Sys2Proof.Machine
end

