-- ==== Sys2Proof/Machine/Blobs.lean ====
section
/-! DEFINITION. Machine/Blobs.lean: blob headers, CRC and lengths (05 R104, R108 C6), and the contents of each kind (08 R200 to R203,
09 R225 to R227). -/

namespace Sys2Proof.Machine

/-- `n` groups of `k` bytes. -/
def groups (k : Nat) : Nat → List Byte → List (List Byte)
  | 0, _ => []
  | n + 1, l => l.take k :: groups k n (l.drop k)

/-- `n` little-endian words of `k` bytes. -/
def wordsAt (l : List Byte) (o k n : Nat) : List Nat := (groups k n (l.drop o)).map leNat

/-- A word list as a sparse table: words of 0 are not listed. -/
def sparse {α : Type} (f : Nat → α) (l : List Nat) : Map α :=
  ((List.range l.length).zip l).filterMap fun e => if e.2 = 0 then none else some (e.1, f e.2)

/-- CRC-32 of IEEE 802.3: one reflected bit step, then a byte (05 R104). -/
def crcBits : Nat → BitVec 32 → BitVec 32
  | 0, c => c
  | n + 1, c => crcBits n (if c.toNat % 2 = 1 then (c >>> 1) ^^^ 0xEDB88320 else c >>> 1)

/-- CRC-32 of bytes. -/
def crc32 (l : List Byte) : BitVec 32 :=
  l.foldl (fun c b => crcBits 8 (c ^^^ b.setWidth 32)) 0xFFFFFFFF ^^^ 0xFFFFFFFF

/-! Header fields of a blob. -/
def blobKindOf (b : List Byte) : Nat := leAt b 0 1
def blobVersion (b : List Byte) : Nat := leAt b 1 1
def blobLength (b : List Byte) : Nat := leAt b 4 4
def blobCrc (b : List Byte) : Nat := leAt b 12 4

/-- Bytes of a Churn program blob by its header's counts (08 R201). -/
def progLength (b : List Byte) : Nat :=
  16 + 0x20 + 8 * leAt b 0x1A 1 + ceilDiv (4 * leAt b 0x1B 1) 8 * 8 + 8 * leAt b 0x1C 1 + 16 * leAt b 0x1E 2 + 8 * leAt b 0x10 4

/-- The KIND is defined, with a VERSION of it and a LENGTH its chapter admits (05 R104, 08 R201 to R203, 09 R225 to R227). A weights
blob's LENGTH is held to its descriptor later (09 R229 item 9). -/
def blobShapeOk (b : List Byte) : Bool :=
  let k := blobKindOf b
  let v := blobVersion b
  let n := b.length
  if k = 1 then v == 1 && 0x30 ≤ n && n == progLength b
  else if k = 2 then v == 1 && n == 17424
  else if k = 3 then (v == 1 && n == 16400) || (v == 2 && n % 4 == 0)
  else if k = 0x10 then v == 1 && n == 16 + 64 + 32 * leAt b 16 1
  else if k = 0x11 then v == 1
  else if k = 0x12 then v == 1 && n == 8208
  else false

/-- Bounds of a blob's LENGTH (05 R104). -/
def blobLenOk (n : Nat) : Bool := 16 ≤ n && n ≤ 16777232

/-- BLOB_FORMAT and BLOB_CRC of a fetched blob; none when it passes. -/
def blobCheck (b : List Byte) (len : Nat) : Option Nat :=
  if !blobLenOk len || b.length != len || blobLength b != len || !blobShapeOk b then some 0x21
  else if blobCrc b != (crc32 (b.drop 16)).toNat then some 0x22 else none

/-! ### Churn program -/

/-- The declarations of a program (08 R201). -/
structure Prog where
  slots : Nat := 0
  reinit : Bool := false
  hop : Nat := 0
  nLines : Nat := 0
  nTables : Nat := 0
  nVtabs : Nat := 0
  nTaps : Nat := 0
  lines : List Geom := []
  tables : List LutTab := []
  vtabs : List Geom := []
  taps : List Tap := []
  words : List Nat := []
deriving DecidableEq, Repr

/-- A line or Vat table entry. -/
def geomOf (b : List Byte) : Geom := { bank := leAt b 0 1, offset := leAt b 2 2, len := leAt b 4 4 }

/-- A lookup table entry. -/
def lutTabOf (w : Nat) : LutTab := { base := fld w 0 12, log2n := fld w 12 4, signed := bit w 16, interp := bit w 17 }

/-- A tap entry (08 R200): STEP and TICK_OFFSET of a DIR 1 tap are reserved, and so are no part of it (00 R6). -/
def tapOf (b : List Byte) : Tap :=
  let res := leAt b 0 1 == 1
  { dir := leAt b 0 1, model := leAt b 1 1, step := if res then 0 else leAt b 2 1, row := leAt b 3 1, first := leAt b 4 2,
    count := leAt b 6 2, pb := leAt b 8 2, off := if res then 0 else leAt b 10 2 }

/-- A program from its blob. -/
def progOf (b : List Byte) : Prog :=
  let nl := leAt b 0x1A 1
  let nt := leAt b 0x1B 1
  let nv := leAt b 0x1C 1
  let np := leAt b 0x1E 2
  let o1 := 0x30 + 8 * nl
  let o2 := o1 + ceilDiv (4 * nt) 8 * 8
  let o3 := o2 + 8 * nv
  let o4 := o3 + 16 * np
  { slots := leAt b 0x10 4, reinit := bit (leAt b 0x14 4) 0, hop := leAt b 0x18 2, nLines := nl, nTables := nt, nVtabs := nv,
    nTaps := np, lines := (groups 8 nl (b.drop 0x30)).map geomOf, tables := (wordsAt b o1 4 nt).map lutTabOf,
    vtabs := (groups 8 nv (b.drop o2)).map geomOf, taps := (groups 16 np (b.drop o3)).map tapOf,
    words := wordsAt b o4 8 (leAt b 0x10 4) }

/-- The last bank that a line or Vat table spans (08 R190). -/
def Geom.lastBank (g : Geom) : Nat := g.bank + ceilDiv (g.offset + g.len) 65536 - 1

/-- First sample and sample after the last, counted over all banks. -/
def Geom.range (g : Geom) : Nat × Nat := (g.bank * 65536 + g.offset, g.bank * 65536 + g.offset + g.len)

/-- Two ranges [a, b) overlap. -/
def overlaps (x y : Nat × Nat) : Bool := x.1 < y.2 && y.1 < x.2

/-- Opcode of a Churn word, and those of 08 R187. -/
def churnOps : List Nat :=
  (List.range 0x0B) ++ [0x10, 0x11, 0x12, 0x14, 0x18] ++ ((List.range 13).map (· + 0x20)) ++ [0x2E, 0x2F]
    ++ ((List.range 8).map (· + 0x30))
def wOp (w : Nat) : Nat := w / 2 ^ 56

/-- The line or Vat table whose banks a word's port A access counts against (08 R193). -/
def Prog.access (p : Prog) (w : Nat) : Option Geom :=
  let op := wOp w
  if op = 0x10 || op = 0x11 || op = 0x12 then p.lines[w % 64]?
  else if op = 0x14 then p.vtabs[w % 8]? else none

/-- Output bus channels that a program writes (08 R204 item 6). -/
def Prog.outs (p : Prog) : List Nat := p.words.filterMap fun w => if wOp w = 2 then some (w % 256) else none

/-- Patch registers that a program writes. -/
def Prog.pbws (p : Prog) : List Nat := p.words.filterMap fun w => if wOp w = 4 then some (w % 1024) else none

/-! ### Coefficient set -/

/-- A glider entry: COEF, MODE, PARAM (08 R202). -/
def gliderOf (w : Nat) : Nat × Nat × Nat := (fld w 0 12, fld w 13 2, fld w 16 13)

/-- Coefficient words and glider entries in use. -/
def coefWords (b : List Byte) : List Nat := wordsAt b 16 4 4096
def coefGliders (b : List Byte) : List (Nat × Nat × Nat) :=
  ((wordsAt b (16 + 16384) 4 256).map gliderOf).filter fun g => g.2.1 != 0

/-! ### Separator -/

/-- A layer entry (09 R225). -/
def layerOf (b : List Byte) : Layer :=
  { tile := leAt b 0 1, flags := BitVec.ofNat 8 (leAt b 1 1), inW := leAt b 2 2, stW := leAt b 4 2, stFirst := leAt b 6 2,
    outW := leAt b 8 2, wOff := leAt b 12 4, bOff := leAt b 16 2, shD := leAt b 18 1, shG := leAt b 19 1, shH := leAt b 20 1,
    shO := leAt b 21 1 }

/-- A STEP_MASK entry. -/
def maskOf (w : Nat) : MaskEnt := { pb := fld w 0 10, en := bit w 10, tick := w / 65536 }

/-- A model descriptor from its blob (09 R225). -/
def descriptorOf (b : List Byte) : ModelDesc :=
  { churnSteps := leAt b 0x11 1, hostSteps := leAt b 0x12 1, hostFn := leAt b 0x13 1, bank := leAt b 0x14 1, page := leAt b 0x15 1,
    hold := BitVec.ofNat 16 (leAt b 0x16 2), hop := leAt b 0x18 2, rows := BitVec.ofNat 64 (leAt b 0x20 8),
    masks := (wordsAt b 0x30 4 8).map maskOf, layers := (groups 32 (leAt b 0x10 1) (b.drop 0x50)).map layerOf }

/-- Element sizes of a layer's matrices. -/
def Layer.eIn (l : Layer) : Nat := if bit l.flags.toNat 0 then 2 else 1
def Layer.eD (l : Layer) : Nat := if bit l.flags.toNat 1 then 2 else 1
def Layer.eG (l : Layer) : Nat := if bit l.flags.toNat 2 then 2 else 1
def Layer.eOut (l : Layer) : Nat := if bit l.flags.toNat 3 then 2 else 1
def Layer.resid (l : Layer) : Bool := bit l.flags.toNat 4

/-- Weight bytes and bias bytes of a layer (09 R226). -/
def Layer.wBytes (l : Layer) : Nat := l.stW * l.inW * (l.eIn + l.eD + l.eG) + l.outW * l.stW * l.eOut
def Layer.bWords (l : Layer) : Nat := 3 * l.stW + l.outW

/-- LENGTH of the weights blob of a descriptor. -/
def ModelDesc.weightsLength (d : ModelDesc) : Nat := 16 + sumOf (fun l => l.wBytes + 4 * l.bWords) d.layers

/-- Staging area: first byte and byte after the last (09, Staging). -/
def ModelDesc.stage (d : ModelDesc) : Nat × Nat :=
  let a := bankBase d.bank + d.page * 4096
  (a, a + d.stageSize)

end Sys2Proof.Machine
end

