-- ==== Sys2Proof/Machine/Verify.lean ====
section
/-! DEFINITION. Machine/Verify.lean: checks C5, C7 and C8 of a commit (05 R108): settings and scope, DOMAIN_OFF, VAT_ROLE, ROUTE, CLOCK,
CHURN_SEP, UNIT_CHECK of each class, and the budget ledger (02 R28, R31). A check answers the setting IDs involved in what fails, none
when it passes. -/

namespace Sys2Proof.Machine

/-- What the checks of one commit see: the projection ahead of it and the projected configuration (05 R107). -/
structure View where
  /-- settings of the projection ahead -/
  m0 : Map Word
  /-- settings projected -/
  m : Map Word
  /-- blobs projected, by setting ID -/
  b : Map (List Byte)
  /-- programs ahead and projected -/
  progs0 : List (Option Prog)
  progs : List (Option Prog)
  /-- model descriptors ahead and projected -/
  models0 : List (Option ModelDesc)
  models : List (Option ModelDesc)
  tuples : List (Nat × Word)
  fn : Nat
  /-- profile in force -/
  profile : Nat
  /-- F of the ledger -/
  fns : Nat
  /-- blob store region -/
  store : Nat × Nat
  /-- ring, stream and MAC buffers of the projection ahead, in samples -/
  bufs0 : List (Nat × Nat)
  standalone : Bool
deriving DecidableEq, Repr

/-- Programs of a configuration. -/
def progsOf (m : Map Word) (b : Map (List Byte)) : List (Option Prog) :=
  (List.range 8).map fun p =>
    if cfgN m 0x20 p 1 = 0 then none else some (progOf (tget [] b (sid 0x20 p 1)))

/-- Model descriptors of a configuration. -/
def modelsOf (m : Map Word) (b : Map (List Byte)) : List (Option ModelDesc) :=
  (List.range 16).map fun i =>
    if cfgN m 0x28 i 1 = 0 then none else some (descriptorOf (tget [] b (sid 0x28 i 1)))

def View.n (v : View) (c i p : Nat) : Nat := cfgN v.m c i p
def View.int (v : View) (c i p : Nat) : Int := (cfgOf v.m (sid c i p)).toInt
def View.prog (v : View) (p : Nat) : Option Prog := (v.progs[p]?).join
def View.prog0 (v : View) (p : Nat) : Option Prog := (v.progs0[p]?).join
def View.model (v : View) (m : Nat) : Option ModelDesc := (v.models[m]?).join
def View.model0 (v : View) (m : Nat) : Option ModelDesc := (v.models0[m]?).join
/-- Programs and models with their numbers. -/
def View.progList (v : View) : List (Nat × Prog) := (List.range 8).filterMap fun p => (v.prog p).map fun x => (p, x)
def View.modelList (v : View) : List (Nat × ModelDesc) := (List.range 16).filterMap fun m => (v.model m).map fun x => (m, x)
/-- The commit names a setting. -/
def View.names (v : View) (id : Nat) : Bool := v.tuples.any fun t => t.1 == id
/-- A domain is on in the projected configuration (14 R352). -/
def View.on (v : View) (d : Nat) : Bool := v.n 3 d 1 == 1 && !profileSheds v.m v.profile d

/-- IDs when a condition holds. -/
def involve (b : Bool) (ids : List Nat) : List Nat := if b then ids else []

/-- RESULT of C7: the lowest tuple index that sets a value involved (05 R108). -/
def locator (tuples : List (Nat × Word)) (ids : List Nat) : Nat :=
  (firstFrom (fun k => ids.contains (nth (0, 0) tuples k).1) tuples.length).getD 0xFFFFFFFF

/-! ### C5 -/

/-- Whether a function may commit a setting (05 R102), by the owners of a configuration (05 R116). -/
def scopeOk (m : Map Word) (f id : Nat) : Bool :=
  let c := id / 0x1000000
  let i := id / 0x10000 % 256
  let p := id % 0x10000
  f == 0 || (c == 0x50 && i == f && 0x10 ≤ p && p < 0x30)
    || (delegable c && cfgN m 1 c (0x4000 + i) == f)

/-- The catalogue for this chip: a VF that does not exist is no unit (04 R67). -/
def State.catalogueRow (s : State) (id : Nat) : SetRow :=
  if id / 0x1000000 = 0x50 && id / 0x10000 % 256 < 16 && !s.fnExists (id / 0x10000 % 256) then
    (if parKnown 0x50 (id % 0x10000) then .noUnit else .unknown)
  else catalogue id

/-- C5 of tuple k: the reason of its first failing sub-check. -/
def State.tupleFail (s : State) (m : Map Word) (f : Nat) (tuples : List (Nat × Word)) (k : Nat) : Option Nat :=
  let t := nth (0, 0) tuples k
  match s.catalogueRow t.1 with
  | .unknown => some 0x10
  | .noUnit => some 0x11
  | .ro => some 0x12
  | .rw r _ =>
    if !scopeOk m f t.1 then some 0x13
    else if (tuples.take k).any (fun u => u.1 == t.1) then some 0x14
    else if !r.ok t.2 then some 0x15 else none

/-- C5 over the tuples in order: index and reason. -/
def State.c5 (s : State) (m : Map Word) (f : Nat) (tuples : List (Nat × Word)) : Option (Nat × Nat) :=
  (List.range tuples.length).findSome? fun k => (s.tupleFail m f tuples k).map fun r => (k, r)

/-! ### C7: DOMAIN_OFF -/

/-- The domains that a domain requires (14 R351). -/
def requires (d : Nat) : List Nat :=
  if d < 4 then [4, 5, 6] else if d = 4 || d = 5 then [6] else if d = 7 then [6, 8] else if d = 8 then [6, 7]
  else if d = 9 then [6, 10] else if d = 10 then [6] else if 11 ≤ d && d ≤ 18 then [19]
  else if 20 ≤ d && d < 40 then [19] else if 40 ≤ d && d < 48 then [48] else if d = 48 then [19]
  else if d = 53 || d = 54 then [6] else if d = 55 then [6, 57] else if d = 56 then [6, 58]
  else if d = 59 || d = 61 || d = 63 then [6] else []

/-- DOM_ON of a domain. -/
def domId (d : Nat) : Nat := sid 3 d 1

/-- A unit enabled by a setting, with the domains that hold it. -/
def View.held (v : View) (enabled : Bool) (id : Nat) (ds : List Nat) : List Nat :=
  involve (enabled && ds.any fun d => !v.on d) (id :: (ds.filter fun d => !v.on d).map domId)

/-- A unit enabled by a setting, with a bank it lies in that must be On (10 R255). -/
def View.inBank (v : View) (id b : Nat) : List Nat :=
  involve (b < 64 && v.n 0x30 b 2 != 0) [id, sid 0x30 b 2]

/-- The audio endpoints' domains: converter group, block 0 for inputs (07 R173, R174). -/
def epDoms (e : Nat) : List Nat :=
  if e < 0x0C then [36, 38] else if e < 0x14 then [37] else if e < 0x30 then [36, 38] else []

/-- ENABLE of a port or stream endpoint, as a setting. -/
def epId (e : Nat) : Nat :=
  if e < 8 then sid 0x10 e 1 else if e < 0x0C then sid 0x12 (e - 8) 1 else if e < 0x10 then sid 0x11 (e - 0x0C) 1
  else if e < 0x14 then sid 0x12 (e - 0x10) 2 else sid 0x43 e 1

/-- Route settings that are not 0xFFFF, of crossbar `x`. -/
def routesOf (m : Map Word) (x : Nat) : List (Nat × Nat) :=
  m.filterMap fun e => if e.1 / 0x10000 = 0x1400 + x && e.2 != 0xFFFF then some (e.1 % 0x10000, e.2.toNat) else none

/-- Rings with an audio stream and their staging banks (10 R248). -/
def View.stagedRings (v : View) : List Nat := (List.range 128).filter fun g => 0 < v.n 0x50 (g / 8) (0x100 + g % 8)

/-- DOMAIN_OFF (05 R109, 10 R255, 11 R291, 14 R352, 01 R16). -/
def View.domainOff (v : View) : List Nat :=
  let ds := List.range 64
  (ds.flatMap fun d => if v.on d then (requires d).flatMap fun r => involve (!v.on r) [domId d, domId r] else [])
  ++ involve (v.on 62 && !(v.on 49 || v.on 50 || v.on 51 || v.on 52)) ([62, 49, 50, 51, 52].map domId)
  ++ involve (v.on 4 != v.on 5) [domId 4, domId 5]
  ++ ((List.range 8).flatMap fun p => v.held (v.n 0x10 p 1 == 1) (sid 0x10 p 1) [20 + p])
  ++ ((List.range 4).flatMap fun p => v.held (v.n 0x11 p 1 == 1) (sid 0x11 p 1) [28 + p])
  ++ ((List.range 4).flatMap fun p => v.held (v.n 0x12 p 1 == 1) (sid 0x12 p 1) [32 + p] ++ v.held (v.n 0x12 p 2 == 1) (sid 0x12 p 2) [32 + p])
  ++ ((List.range 0x40).flatMap fun e => v.held (epEn v.m e) (epId e) (epDoms e))
  ++ ((routesOf v.m 0).flatMap fun r => v.held true (sid 0x14 0 r.1) [38])
  ++ ((routesOf v.m 1).flatMap fun r => v.held true (sid 0x14 1 r.1) [39])
  ++ ((List.range 32).flatMap fun i => v.held (v.n 0x17 i 1 == 1) (sid 0x17 i 1) [39])
  ++ (v.progList.flatMap fun x => v.held true (sid 0x20 x.1 1) [11 + x.1])
  ++ (v.modelList.flatMap fun x => v.held true (sid 0x28 x.1 1) (48 :: x.2.tiles.map (40 + ·)))
  ++ ((List.range 2).flatMap fun p => v.held (v.n 0x40 p 1 == 1) (sid 0x40 p 1) [53 + p]
      ++ v.held (v.n 0x41 p 1 == 1) (sid 0x41 p 1) [55 + p, 57 + p] ++ v.held (v.n 0x42 p 1 == 1) (sid 0x42 p 1) [55 + p])
  ++ ((List.range 0x40).flatMap fun e => if 0x20 ≤ e then v.held (v.n 0x43 e 1 == 1) (sid 0x43 e 1) [55 + v.n 0x43 e 2] else [])
  ++ ((List.range 64).flatMap fun b => v.held (v.n 0x30 b 2 == 0) (sid 0x30 b 2) [49 + b / 16])
  ++ involve (v.standalone && 0 < v.fns && !(v.on 7 && v.on 8)) [domId 7, domId 8]
  ++ (v.progList.flatMap fun x => (x.2.lines ++ x.2.vtabs).flatMap fun g =>
      (List.range (g.lastBank - g.bank + 1)).flatMap fun k => v.inBank (sid 0x20 x.1 1) (g.bank + k))
  ++ (v.modelList.flatMap fun x => x.2.bankList.flatMap fun b => v.inBank (sid 0x28 x.1 1) b)
  ++ ((List.range 2).flatMap fun p => (if v.n 0x40 p 1 = 1 then v.inBank (sid 0x40 p 0x13) (v.n 0x40 p 0x13) else [])
      ++ (if v.n 0x41 p 1 = 1 then v.inBank (sid 0x41 p 0xD) (v.n 0x41 p 0xD) else []))
  ++ ((List.range 0x40).flatMap fun e =>
      if 0x20 ≤ e && v.n 0x43 e 1 = 1 then v.inBank (sid 0x43 e 0xA) (v.n 0x43 e 0xA) else [])
  ++ (v.stagedRings.flatMap fun g => v.inBank (sid 0x30 0x41 g) (v.n 0x30 0x41 g))

/-! ### C7: VAT_ROLE, ROUTE, CLOCK -/

/-- VAT_ROLE (10 R247), its cases in order. -/
def View.vatRole (v : View) : List Nat :=
  let banks := List.range 64
  let churn := banks.filter fun b => v.n 0x30 b 1 == 1
  let a := involve (32 < churn.length) (churn.map fun b => sid 0x30 b 1)
  let c := banks.flatMap fun b =>
    involve (v.n 0x30 b 1 != 0 && overlaps v.store (bankBase b, bankBase (b + 1)) && v.store.1 < v.store.2) [sid 0x30 b 1]
  let d := (List.range 128).flatMap fun g =>
    let b := v.n 0x30 0x41 g
    involve (b != 0xFF && v.n 0x30 b 1 != 4) [sid 0x30 0x41 g, sid 0x30 b 1]
  if !a.isEmpty then a else if !c.isEmpty then c else d

/-- Channels of an endpoint in the projected configuration (07 R153). -/
def View.chans (v : View) (e : Nat) : Nat :=
  if 0x80 ≤ e then v.n 0x50 ((e - 0x80) / 8) (0x100 + (e - 0x80) % 8)
  else if 0x20 ≤ e && e < 0x40 then v.n 0x43 e 3 else if e < 0x14 then fixedCh e else 0

/-- A source of the input crossbar exists (07 R153). -/
def View.sourceOk (v : View) (x : Nat) : Bool :=
  let e := x / 64
  (isInEp e || (0x80 ≤ e && e < 0x100)) && x % 64 < v.chans e

/-- A sink of the output crossbar exists. -/
def View.sinkOk (v : View) (x : Nat) : Bool :=
  let e := x / 64
  (isOutEp e || (0x80 ≤ e && e < 0x100)) && x % 64 < v.chans e

/-- ROUTE (07 R153): a tuple that names an index that does not exist. -/
def View.route (v : View) : List Nat :=
  v.tuples.flatMap fun t =>
    if t.1 / 0x10000 = 0x1400 then involve (t.2 != 0xFFFF && !v.sourceOk t.2.toNat) [t.1]
    else if t.1 / 0x10000 = 0x1401 then involve (!v.sinkOk (t.1 % 0x10000)) [t.1] else []

/-- CLOCK (05 R109): a reference names the frame clock of a TDM port that is not clock slave. -/
def View.clock (v : View) : List Nat :=
  [0, 1].flatMap fun p =>
    let r := v.n 2 0 p
    involve (4 ≤ r && v.n 0x12 (r - 4) 3 != 1) [sid 2 0 p, sid 0x12 (r - 4) 3]

/-! ### C7: CHURN_SEP -/

/-- A tap's model is absent: the tap is inert (18 R445). -/
def View.inert (v : View) (t : Tap) : Bool := (v.model t.model).isNone

/-- The commit changes a tap of PU p. -/
def View.tapChanged (v : View) (p : Nat) (t : Tap) : Bool :=
  !(match v.prog0 p with | some x => x.taps | none => []).contains t

/-- Taps that CHURN_SEP tests: those of models present, and inert ones that this commit changes or whose model it changes (18 R445). -/
def View.tested (v : View) : List (Nat × Tap) :=
  v.progList.flatMap fun x => (x.2.taps.filter fun t =>
    !v.inert t || v.tapChanged x.1 t || v.names (sid 0x28 t.model 1)).map fun t => (x.1, t)

/-- Steps, rows and elements of a DIR 0 tap. -/
def Tap.elems (t : Tap) : Nat × Nat := (t.first, t.first + 2 * t.count)

/-- CHURN_SEP (08 R201, 09 R228, 18 R445). -/
def View.churnSep (v : View) : List Nat :=
  let hop := v.n 0x28 0x40 1
  let ts := v.tested
  let pid (p : Nat) : Nat := sid 0x20 p 1
  let mid (m : Nat) : Nat := sid 0x28 m 1
  (v.progList.flatMap fun x => involve (0 < x.2.nTaps && x.2.hop != hop
      && (v.names (pid x.1) || x.2.taps.any fun t => !v.inert t)) [pid x.1, sid 0x28 0x40 1])
  ++ (ts.flatMap fun x =>
    match v.model x.2.model with
    | none => [pid x.1, mid x.2.model]
    | some d =>
      involve (x.2.dir == 0 && (d.churnSteps ≤ x.2.step || d.inW < x.2.elems.2)) [pid x.1, mid x.2.model]
      ++ involve (x.2.dir == 1 && d.outW < x.2.elems.2) [pid x.1, mid x.2.model])
  ++ (ts.flatMap fun x => ts.flatMap fun y =>
    involve (x != y && x.2.dir == 0 && y.2.dir == 0 && x.2.model == y.2.model && x.2.step == y.2.step && x.2.row == y.2.row
      && overlaps x.2.elems y.2.elems) [pid x.1, pid y.1])
  ++ (v.progList.flatMap fun x => involve ((List.range x.2.taps.length).any fun i => (List.range i).any fun j =>
      let a := nth {} x.2.taps i
      let b := nth {} x.2.taps j
      a == b && a.dir == 0 && !v.inert a) [pid x.1])
  ++ (v.modelList.flatMap fun x => involve (x.2.masks.any fun k => k.en && 1020 < k.pb) [mid x.1])
  ++ ((List.range 8).flatMap fun p =>
    let old := match v.prog0 p with | some x => x.taps | none => []
    let new := match v.prog p with | some x => x.taps | none => []
    let changed := (new.filter fun t => !old.contains t) ++ (old.filter fun t => !new.contains t && (v.model0 t.model).isSome)
    changed.flatMap fun t => involve (!v.names (mid t.model)) [pid p])

/-! ### C7: UNIT_CHECK -/

/-- Class 0x03 (14 R352, R358, R363, 15 R394). -/
def View.unit03 (v : View) : List Nat :=
  let pol := v.n 3 0x40 0x11
  involve (v.names (sid 3 0x40 1) && 1 < v.tuples.length) (v.tuples.map (·.1))
  ++ involve (v.standalone && v.names (domId 9) && v.n 3 9 1 == 1) [domId 9]
  ++ involve (pol == 0xFF && v.n 2 0 0x10 == 3) [sid 2 0 0x10, sid 3 0x40 0x11]
  ++ involve (pol != 0xFF && v.n 3 (0x80 + pol) 1 == 0) [sid 3 0x40 0x11, sid 3 (0x80 + pol) 1]
  ++ involve (pol != 0xFF && !v.on 63 && (v.on 0 || v.on 1 || v.on 2 || v.on 3)) (sid 3 0x40 0x11 :: [63, 0, 1, 2, 3].map domId)
  ++ involve (v.n 3 0x40 0x2C ≤ v.n 3 0x40 0x2B) [sid 3 0x40 0x2B, sid 3 0x40 0x2C]
  ++ involve (v.n 3 0x40 0x28 - 80 < v.n 3 0x40 0x29) [sid 3 0x40 0x28, sid 3 0x40 0x29]
  ++ involve (v.n 3 0x40 0x20 - 500 < v.n 3 0x40 0x30) [sid 3 0x40 0x20, sid 3 0x40 0x30]

/-- The rate of a TDM port in Hz (06 R149). -/
def tdmRate (code : Nat) : Nat := nth 48000 [8000, 16000, 24000, 32000, 48000, 96000, 192000] code

/-- Class 0x12, enabled ports (06 R130, At the edges). -/
def View.unit12 (v : View) : List Nat :=
  (List.range 4).flatMap fun t =>
    if !portEn v.m 0x12 t then []
    else
      let i (p : Nat) : Nat := sid 0x12 t p
      let slots := v.n 0x12 t 6
      let bits := if v.n 0x12 t 7 = 1 then 32 else 16
      let word := nth 16 [16, 24, 32] (v.n 0x12 t 8)
      let den := tdmRate (v.n 0x12 t 5) * slots * bits
      involve (v.n 0x12 t 3 == 0 && !(983040000 % den == 0 && 983040000 / den % 2 == 0 && 40 ≤ 983040000 / den))
        [i 1, i 2, i 3, i 5, i 6, i 7]
      ++ involve (2 ≤ v.n 0x12 t 4 && slots % 2 == 1) [i 1, i 2, i 4, i 6]
      ++ involve (bits < word) [i 1, i 2, i 7, i 8]
      ++ involve (v.n 0x12 t 9 / 2 ^ slots != 0) [i 1, i 2, i 6, i 9]
      ++ involve (v.n 0x12 t 0xA / 2 ^ slots != 0) [i 1, i 2, i 6, i 0xA]

/-- Class 0x17, enabled units (07, At the edges). -/
def View.unit17 (v : View) : List Nat :=
  let en := (List.range 32).filter fun i => v.n 0x17 i 1 == 1
  let r (i : Nat) : Nat × Nat := (v.n 0x17 i 2, v.n 0x17 i 2 + v.n 0x17 i 3)
  let ids (i : Nat) : List Nat := [sid 0x17 i 1, sid 0x17 i 2, sid 0x17 i 3]
  en.flatMap fun i => involve (256 < (r i).2) (ids i)
    ++ en.flatMap fun j => involve (j < i && overlaps (r i) (r j)) (ids i ++ ids j)

/-- The regions in Vats that the projection ahead uses (08 R204 item 10), in samples: lines, Vat tables, the Separator's staging, and the buffers
of rings, streams and MACs. -/
def View.used0 (v : View) : List (Nat × Nat) :=
  ((List.range 8).flatMap fun p => match v.prog0 p with
    | some x => (x.lines ++ x.vtabs).map Geom.range
    | none => [])
  ++ ((List.range 16).filterMap fun m => (v.model0 m).map fun d =>
      ((d.stage.1 - 0x40000000) / 4, (d.stage.2 - 0x40000000) / 4))
  ++ v.bufs0

/-- VAT tables that a commit loads: PU, table, geometry (08 R207). -/
def View.vtabLoads (v : View) : List (Nat × Nat × Geom) :=
  v.progList.flatMap fun x => (List.range x.2.vtabs.length).filterMap fun t =>
    let g := nth {} x.2.vtabs t
    let id := v.n 0x20 x.1 (0x10 + t)
    let old : Option Geom := match v.prog0 x.1 with | some y => y.vtabs[t]? | none => none
    if t < 8 && id != 0 && (cfgN v.m0 0x20 x.1 (0x10 + t) != id || old != some g) then some (x.1, t, g) else none

/-- Class 0x20, one program (08 R204 items 1 to 3, 5, 7, 9, 11). -/
def View.unit20one (v : View) (p : Nat) (x : Prog) : List Nat :=
  let id := sid 0x20 p 1
  let gs := x.lines ++ x.vtabs
  involve (x.words.any fun w => !churnOps.contains (wOp w)) [id]
  ++ involve (x.words.any fun w =>
      let op := wOp w
      ((op == 0x10 || op == 0x11 || op == 0x12) && x.nLines ≤ w % 64)
      || (op == 0x11 && (nth ({} : Geom) x.lines (w % 64)).len ≤ fld w 6 21)
      || (op == 0x14 && x.nVtabs ≤ w % 8) || (op == 0x18 && x.nTables ≤ w % 16)) [id]
  ++ (gs.flatMap fun g => involve (63 < g.lastBank) [id]
      ++ (List.range (g.lastBank - g.bank + 1)).flatMap fun k =>
          involve (g.bank + k < 64 && v.n 0x30 (g.bank + k) 1 != 1) [id, sid 0x30 (g.bank + k) 1])
  ++ involve (x.tables.any fun t => t.log2n < 4 || 11 < t.log2n || 4096 < t.base + 2 ^ t.log2n + 1) [id]
  ++ involve (x.taps.any fun t => 1 < t.dir || t.first % 2 == 1 || t.count == 0 || 256 < t.count || 1024 < t.pb + t.count
      || 63 < t.row || (t.dir == 0 && x.hop ≤ t.off)) [id]
  ++ involve (64 < x.nLines || 16 < x.nTables || 8 < x.nVtabs || 512 < x.nTaps
      || (x.nTaps == 0 && x.hop != 0) || (x.nTaps != 0 && !([48, 96, 192].contains x.hop))
      || gs.any fun g => g.len == 0 || 2097152 < g.len) [id]
  ++ ((List.range (min 8 x.vtabs.length)).flatMap fun t =>
      involve (v.n 0x20 p (0x10 + t) != 0
        && (tget [] v.b (sid 0x20 p (0x10 + t))).length != 16 + 4 * (nth ({} : Geom) x.vtabs t).len) [id, sid 0x20 p (0x10 + t)])

/-- Glider entries of a coefficient set out of range, or two that name one coefficient (08 R204 item 8, R196). -/
def View.gliders (v : View) (p : Nat) : List Nat :=
  let gs := if v.n 0x20 p 2 = 0 then [] else coefGliders (tget [] v.b (sid 0x20 p 2))
  involve (gs.any fun g => g.2.1 == 3 || (g.2.1 == 1 && !(1 ≤ g.2.2 && g.2.2 ≤ 4800)) || (g.2.1 == 2 && !(1 ≤ g.2.2 && g.2.2 ≤ 16)))
    [sid 0x20 p 2]
  ++ involve ((List.range gs.length).any fun i => (List.range i).any fun j => (nth (0, 0, 0) gs i).1 == (nth (0, 0, 0) gs j).1) [sid 0x20 p 2]

/-- Duplicates of a list. -/
def hasDup : List Nat → Bool
  | [] => false
  | a :: r => r.contains a || hasDup r

/-- Class 0x20 (08 R204). -/
def View.unit20 (v : View) : List Nat :=
  let ps := v.progList
  let pid (p : Nat) : Nat := sid 0x20 p 1
  let geoms := ps.flatMap fun x => (x.2.lines ++ x.2.vtabs).map fun g => (x.1, g)
  let n := geoms.length
  let dir1 := ps.flatMap fun x => (x.2.taps.filter fun t => t.dir == 1).map fun t => (x.1, (t.pb, t.pb + t.count))
  (ps.flatMap fun x => v.unit20one x.1 x.2)
  ++ ((List.range 8).flatMap fun p => v.gliders p)
  ++ ((List.range n).flatMap fun i => (List.range i).flatMap fun j =>
      let a := nth (0, {}) geoms i
      let b := nth (0, {}) geoms j
      involve (overlaps a.2.range b.2.range) [pid a.1, pid b.1])
  ++ (ps.flatMap fun x => ps.flatMap fun y => involve (y.1 < x.1
      && (x.2.outs.any (y.2.outs.contains ·) || x.2.pbws.any (y.2.pbws.contains ·))) [pid x.1, pid y.1])
  ++ (ps.flatMap fun x => dir1.flatMap fun t => involve (x.2.pbws.any fun r => t.2.1 ≤ r && r < t.2.2) [pid x.1, pid t.1])
  ++ ((List.range dir1.length).flatMap fun i => (List.range i).flatMap fun j =>
      let a := nth (0, (0, 0)) dir1 i
      let b := nth (0, (0, 0)) dir1 j
      involve (overlaps a.2 b.2) [pid a.1, pid b.1])
  ++ (v.vtabLoads.flatMap fun l => involve (v.used0.any (overlaps l.2.2.range ·)) [pid l.1, sid 0x20 l.1 (0x10 + l.2.1)])

/-- Reserved bits or bytes of a descriptor that are not 0 (09 R229 item 1). -/
def descReserved (b : List Byte) (d : ModelDesc) : Bool :=
  let z (l : List Byte) : Bool := l.any (· != 0)
  z (sub b 0x1A 6) || z (sub b 0x28 8)
  || (List.range 8).any (fun k => let w := leAt b (0x30 + 4 * k) 4
      if k < d.churnSteps then fld w 11 5 != 0 else w != 0)
  || (groups 32 d.layers.length (b.drop 0x50)).any (fun g => 32 ≤ leAt g 1 1 || z (sub g 10 2) || z (sub g 22 10))

/-- Fields of a descriptor out of range. -/
def descRange (b : List Byte) (d : ModelDesc) : Bool :=
  let n := leAt b 0x10 1
  n == 0 || 8 < n || 8 < d.churnSteps || 8 < d.hostSteps || (15 < d.hostFn && d.hostFn != 0xFF) || 63 < d.bank || 63 < d.page
  || !([48, 96, 192].contains d.hop)
  || (List.range (min 8 d.churnSteps)).any (fun k => d.hop ≤ (nth {} d.masks k).tick)
  || d.layers.any (fun l => 7 < l.tile || l.inW == 0 || 512 < l.inW || l.stW == 0 || 512 < l.stW || 511 < l.stFirst || l.outW == 0
      || 512 < l.outW || l.wOff % 64 != 0 || 47 < l.shD || 47 < l.shG || 47 < l.shH || 47 < l.shO)

/-- Successive layers. -/
def layerPairs (l : List Layer) : List (Layer × Layer) := l.zip (l.drop 1)

/-- Class 0x28 (09 R229). -/
def View.unit28 (v : View) : List Nat :=
  let ms := v.modelList
  let mid (m : Nat) : Nat := sid 0x28 m 1
  let ls := ms.flatMap fun x => x.2.layers.map fun l => (x.1, l)
  let n := ls.length
  let raw (m : Nat) : List Byte := tget [] v.b (mid m)
  (ms.flatMap fun x =>
    let d := x.2
    involve (descReserved (raw x.1) d || descRange (raw x.1) d) [mid x.1]
    ++ involve (d.hop != v.n 0x28 0x40 1) [mid x.1, sid 0x28 0x40 1]
    ++ involve (hasDup (d.layers.map (·.tile))) [mid x.1]
    ++ involve ((layerPairs d.layers).any fun p => p.2.inW != p.1.outW) [mid x.1]
    ++ involve (d.layers.any fun l => l.resid && l.outW != l.inW) [mid x.1]
    ++ involve (d.layers.any fun l => 512 < l.stFirst + l.stW || 0x200000 < l.wOff + l.wBytes || 2048 < l.bOff + l.bWords) [mid x.1]
    ++ involve (d.bankList.any (63 < ·)) [mid x.1]
    ++ (d.bankList.flatMap fun b => involve (b < 64 && v.n 0x30 b 1 != 2) [mid x.1, sid 0x30 b 1])
    ++ ms.flatMap fun y =>
      involve (y.1 < x.1 && d.tiles.any (y.2.tiles.contains ·)
        && !(d.tiles.all (y.2.tiles.contains ·) && y.2.tiles.all (d.tiles.contains ·))) [mid x.1, mid y.1]
      ++ involve (y.1 < x.1 && overlaps d.stage y.2.stage) [mid x.1, mid y.1])
  ++ ((List.range n).flatMap fun i => (List.range i).flatMap fun j =>
      let a := nth (0, {}) ls i
      let b := nth (0, {}) ls j
      involve (a.2.tile == b.2.tile
        && (overlaps (a.2.stFirst, a.2.stFirst + a.2.stW) (b.2.stFirst, b.2.stFirst + b.2.stW)
          || overlaps (a.2.wOff, a.2.wOff + a.2.wBytes) (b.2.wOff, b.2.wOff + b.2.wBytes)
          || overlaps (a.2.bOff, a.2.bOff + a.2.bWords) (b.2.bOff, b.2.bOff + b.2.bWords))) [mid a.1, mid b.1])
  ++ ((List.range 16).flatMap fun m =>
      involve ((v.n 0x28 m 1 == 0) != (v.n 0x28 m 2 == 0)
        || (match v.model m with
            | some d => v.n 0x28 m 2 != 0 && (tget [] v.b (sid 0x28 m 2)).length != d.weightsLength
            | none => false)) [sid 0x28 m 1, sid 0x28 m 2])

/-- Class 0x30 (10 R248). -/
def View.unit30 (v : View) : List Nat :=
  let rs := v.stagedRings
  let ids (g : Nat) : List Nat := [sid 0x30 0x41 g, sid 0x50 (g / 8) (0x100 + g % 8), sid 0x50 (g / 8) (0x110 + g % 8)]
  (rs.flatMap fun g => involve (v.n 0x30 0x41 g == 0xFF) (ids g))
  ++ (List.range 64).flatMap fun b =>
      let here := rs.filter fun g => v.n 0x30 0x41 g == b
      involve (262144 < sumOf (stageSize v.m) here) (here.flatMap ids)

/-- The MAC buffer users of a port number: Net and Herdline port p share one half of a bank (12 R295, 13 R324). -/
def View.macClash (v : View) (p : Nat) : Bool :=
  v.n 0x40 p 1 == 1 && v.n 0x41 p 1 == 1 && v.n 0x40 p 0x13 == v.n 0x41 p 0xD && v.n 0x40 p 0x13 < 64

/-- A wake pattern enabled with an all-zero MASK. -/
def View.maskZero (v : View) (c p en n : Nat) : Bool :=
  (List.range n).any fun k => bit (v.n c p en) k && (List.range 4).all fun i => v.n c p (0x80 + 8 * k + i) == 0

/-- IDs of WAKE_EN and the masks. -/
def maskIds (c p en n : Nat) : List Nat :=
  sid c p en :: (List.range n).flatMap fun k => (List.range 4).map fun i => sid c p (0x80 + 8 * k + i)

/-- Class 0x40 (12 R321). -/
def View.unit40 (v : View) : List Nat :=
  (List.range 2).flatMap fun p =>
    let i (q : Nat) : Nat := sid 0x40 p q
    let b := v.n 0x40 p 0x13
    involve (v.n 0x40 p 1 == 1 && (63 < b || v.n 0x30 b 1 != 5)) [i 1, i 0x13, sid 0x30 b 1]
    ++ involve (v.macClash p) [i 1, i 0x13, sid 0x41 p 1, sid 0x41 p 0xD]
    ++ involve (v.n 0x40 p 4 == 0 && popcount (v.n 0x40 p 5) 5 != 1) [i 4, i 5]
    ++ involve (v.n 0x40 p 0xF ≤ v.n 0x40 p 0x10) [i 0xF, i 0x10]
    ++ involve (v.n 0x40 p 0xD == 1 && !bit (v.n 0x40 p 0x50) 16) [i 0xD, i 0x50]
    ++ involve (v.maskZero 0x40 p 0x14 8) (maskIds 0x40 p 0x14 8)

/-- Class 0x41 (13 R347). -/
def View.unit41 (v : View) : List Nat :=
  (List.range 2).flatMap fun p =>
    let i (q : Nat) : Nat := sid 0x41 p q
    let b := v.n 0x41 p 0xD
    involve (v.n 0x41 p 1 == 1 && (63 < b || v.n 0x30 b 1 != 5)) [i 1, i 0xD, sid 0x30 b 1]
    ++ involve (v.macClash p) [i 1, i 0xD, sid 0x40 p 1, sid 0x40 p 0x13]
    ++ involve (v.n 0x41 p 1 == 1 && !bit (v.n 0x41 p 0x50) 16) [i 1, i 0x50]
    ++ involve (v.maskZero 0x41 p 0x14 4) (maskIds 0x41 p 0x14 4)

/-- Class 0x42 (13 R348). -/
def View.unit42 (v : View) : List Nat :=
  (List.range 2).flatMap fun p =>
    let role := v.n 0x42 p 2
    involve (role == 1 && (v.n 0x41 p 3 != 0 || v.n 0x41 p 2 == 0)) [sid 0x42 p 2, sid 0x41 p 3, sid 0x41 p 2]
    ++ involve (role == 0 && v.n 0x41 p 3 == 0) [sid 0x42 p 2, sid 0x41 p 3]
    ++ involve (v.n 0x42 p 3 < 2 * v.n 0x42 p 4) [sid 0x42 p 3, sid 0x42 p 4]

/-- Enabled streams. -/
def View.streams (v : View) : List Nat := (List.range 0x40).filter fun e => 0x20 ≤ e && v.n 0x43 e 1 == 1

/-- Class 0x43 (13 R349). -/
def View.unit43 (v : View) : List Nat :=
  let es := v.streams
  let i (e q : Nat) : Nat := sid 0x43 e q
  (es.flatMap fun e => let b := v.n 0x43 e 0xA
    involve (63 < b || v.n 0x30 b 1 != 3) [i e 1, i e 0xA, sid 0x30 b 1])
  ++ ((List.range 64).flatMap fun b =>
      let here := es.filter fun e => v.n 0x43 e 0xA == b
      involve (262144 < sumOf (streamSize v.m) here) (here.flatMap fun e => [i e 1, i e 3, i e 9, i e 0xA]))
  ++ (es.flatMap fun e => es.flatMap fun k =>
      involve (k < e && (0x30 ≤ e) == (0x30 ≤ k) && v.n 0x43 e 2 == v.n 0x43 k 2 && v.n 0x43 e 4 == v.n 0x43 k 4
        && (0x30 ≤ e || (v.n 0x43 e 7 == v.n 0x43 k 7 && v.n 0x43 e 8 == v.n 0x43 k 8)))
        ([e, k].flatMap fun x => [i x 1, i x 2, i x 4, i x 7, i x 8]))

/-- C7 in order: reason and setting IDs of the first failure. -/
def View.c7 (v : View) : Option (Nat × List Nat) :=
  let steps : List (Nat × (Unit → List Nat)) :=
    [(0x30, fun _ => v.domainOff), (0x31, fun _ => v.vatRole), (0x32, fun _ => v.route), (0x33, fun _ => v.clock),
     (0x34, fun _ => v.churnSep), (0x35, fun _ => v.unit03), (0x35, fun _ => v.unit12), (0x35, fun _ => v.unit17),
     (0x35, fun _ => v.unit20), (0x35, fun _ => v.unit28), (0x35, fun _ => v.unit30), (0x35, fun _ => v.unit40),
     (0x35, fun _ => v.unit41), (0x35, fun _ => v.unit42), (0x35, fun _ => v.unit43)]
  steps.findSome? fun st => let ids := st.2 (); if ids.isEmpty then none else some (st.1, ids)

/-! ### C8: the ledger (02 R28) -/

/-- The slots of a program with a port A access: slot and geometry. -/
def Prog.accesses (p : Prog) : List (Nat × Geom) :=
  ((List.range p.words.length).zip p.words).filterMap fun e => (p.access e.2).map fun g => (e.1, g)

/-- The lowest bank that two access lists, each in slot order, both use in one slot; `n` bounds the walk. -/
def slotClash : Nat → List (Nat × Geom) → List (Nat × Geom) → Option Nat
  | 0, _, _ => none
  | _ + 1, [], _ => none
  | _ + 1, _, [] => none
  | n + 1, a :: r, b :: t =>
    if a.1 < b.1 then slotClash n r (b :: t)
    else if b.1 < a.1 then slotClash n (a :: r) t
    else
      let lo := max a.2.bank b.2.bank
      let rest := slotClash n r t
      if lo ≤ min a.2.lastBank b.2.lastBank then some (match rest with | some k => min lo k | none => lo) else rest

/-- Packet length and wire charge of a transmit stream (13 R341, 02 R28). -/
def wireCharge (ch fmt code : Nat) : Nat :=
  let f := if fmt = 4 then 1 else fmt
  let n := 2 ^ code
  let fr := (if f < 2 then 48 else 16) / n
  let l := max 64 (34 + ch * fr * (if f % 2 = 0 then 2 else 3))
  n * 8 * (l + 20)

/-- Terms of the ledger over a configuration. -/
structure Ledger where
  /-- first PU whose program is not 16,384 slots -/
  l1 : Option Nat
  /-- lowest Vat with a slot clash -/
  l2 : Option Nat
  /-- first model of more than 8 steps -/
  l3 : Option Nat
  /-- L4 sum of each tile -/
  l4 : List Nat
  /-- L5 total of each Vat -/
  l5 : List Nat
  /-- L6 left side -/
  l6 : Nat
  /-- L7 left side of each Herdline port -/
  l7 : List Nat
  hop : Nat
  period : Nat
deriving DecidableEq, Repr

/-- Evaluate the ledger (02 R28). -/
def ledgerOf (m : Map Word) (progs : List (Option Prog)) (models : List (Option ModelDesc)) (fns : Nat) : Ledger :=
  let ps := progs.map fun p => match p with | some x => x.accesses | none => []
  let ms := models.filterMap id
  let hop := cfgN m 0x28 0x40 1
  let pairs := (List.range 8).flatMap fun i => (List.range i).map fun j => (i, j)
  let clashes := pairs.filterMap fun x => slotClash 40000 (nth [] ps x.1) (nth [] ps x.2)
  let all := ps.flatten
  let rings := (List.range 128).filterMap fun g =>
    let c := cfgN m 0x50 (g / 8) (0x100 + g % 8)
    if c = 0 then none else some (cfgN m 0x30 0x41 g, ceilDiv c 2)
  let strs := ((List.range 0x40).filter fun e => 0x20 ≤ e && cfgN m 0x43 e 1 == 1)
  { l1 := firstFrom (fun p => match (progs[p]?).join with | some x => x.slots != 16384 | none => false) 8,
    l2 := firstFrom (fun b => clashes.contains b) 64,
    l3 := firstFrom (fun k => match (models[k]?).join with | some d => 8 < d.steps | none => false) 16,
    l4 := (List.range 8).map fun t => sumOf (fun d => if d.tiles.contains t then (d.steps + d.layers.length + 1) * 2048 else 0) ms,
    l5 := (List.range 64).map fun b =>
      sumOf (fun a => if a.2.bank ≤ b && b ≤ a.2.lastBank then 1 else 0) all
      + ceilDiv (16 * sumOf (fun d => if d.bankList.contains b then d.steps * (d.inW + d.outW) else 0) ms) hop
      + sumOf (fun e => if cfgN m 0x43 e 0xA = b then ceilDiv (cfgN m 0x43 e 3) 2 else 0) strs
      + sumOf (fun r => if r.1 = b then r.2 else 0) rings,
    l6 := ledgerRing m ms fns,
    l7 := (List.range 2).map fun p => sumOf (fun e =>
      if 0x30 ≤ e && cfgN m 0x43 e 2 = p then wireCharge (cfgN m 0x43 e 3) (cfgN m 0x43 e 5) (cfgN m 0x43 e 6) else 0) strs,
    hop := hop, period := cfgN m 0x50 0 0 }

/-- The first failing term: code and index, as REASON (02 R31). -/
def Ledger.fail (l : Ledger) : Option Nat :=
  match l.l1 with
  | some p => some (0x01 + 256 * p)
  | none => match l.l2 with
    | some b => some (0x02 + 256 * b)
    | none => match l.l3 with
      | some k => some (0x03 + 256 * k)
      | none => match firstFrom (fun t => (l.hop - 1) * 20480 < nth 0 l.l4 t) 8 with
        | some t => some (0x04 + 256 * t)
        | none => match firstFrom (fun b => 20480 < nth 0 l.l5 b) 64 with
          | some b => some (0x05 + 256 * b)
          | none =>
            if l.period * 16384 < l.l6 then some 0x06
            else (firstFrom (fun p => 7496 < nth 0 l.l7 p) 2).map fun p => 0x07 + 256 * p

end Sys2Proof.Machine
end

