-- ==== Sys2Proof/Machine/Streams.lean ====
section
/-! DEFINITION. Machine/Streams.lean: the frames of a Herdline stream: the jitter buffer of a receive stream and the packets of a
transmit stream (13 R341, R342). -/

namespace Sys2Proof.Machine

/-- CHANNELS of a stream. -/
def State.streamCh (s : State) (e : Nat) : Nat := s.cfg 0x43 e 3

/-- Round a Q1.31 sample to `bits` bits: nearest, ties away from zero, saturated (06 R129). -/
def roundTo (bits : Nat) (w : Word) : Int := clampI (-(2 ^ (bits - 1))) (2 ^ (bits - 1) - 1) (rndShr w.toInt (32 - bits))

/-- Bytes of a sample on the wire, by FORMAT. -/
def fmtBytes (fmt : Nat) : Nat := if fmt % 2 = 0 then 2 else 3

/-- Frames of a block on the wire, by FORMAT. -/
def fmtFrames (fmt : Nat) : Nat := if fmt < 2 then 48 else 16

/-! ### Receiving -/

/-- FORMAT code and number of packets of a block's FORMAT byte. -/
def Blk.code (b : Blk) : Nat := fld b.fmt.toNat 0 3
def Blk.packets (b : Blk) : Nat := 2 ^ fld b.fmt.toNat 3 2

/-- Every packet of the block is present. -/
def Blk.complete (b : Blk) : Bool := b.done || (List.range b.packets).all fun i => b.parts.any fun p => p.1 = i

/-- Its place in the bank, as a buffer of frames. -/
def Blk.buf (b : Blk) : AudioBuf := { addr := b.addr, ch := b.ch }

/-- The frames of a block as sent. -/
def Blk.rawFrames (b : Blk) : List Frame :=
  let w := fmtBytes b.code
  let bytes := (List.range b.packets).flatMap fun i => tget [] b.parts i
  (List.range (fmtFrames b.code)).map fun j => (List.range b.ch).map fun c =>
    BitVec.ofNat 32 (leAt bytes ((j * b.ch + c) * w) w * 2 ^ (32 - 8 * w))

/-- Block `k` of a stream's reservation. -/
def State.streamPlace (s : State) (e k : Nat) : Nat :=
  bankBase (s.cfg 0x43 e 0xA) + (s.stream e).base + k * 192 * s.streamCh e

/-- MASTER code of the port of a stream (01, bus masters). -/
def State.streamMaster (s : State) (e : Nat) : Nat := 9 + s.cfg 0x43 e 2

/-- Blocks that the jitter buffer holds: those complete, with the one being played (13 R342, log 99). -/
def StreamSt.heldBlks (r : StreamSt) : List Blk := r.blocks.filter (·.done) ++ r.cur.toList

/-- A place of the reservation that no held block overlaps. -/
def State.freePlace (s : State) (e : Nat) : Option Nat :=
  let n := 192 * s.streamCh e
  let free (k : Nat) : Bool := (s.stream e).heldBlks.all fun b =>
    decide (b.addr + 192 * b.ch ≤ s.streamPlace e k) || decide (s.streamPlace e k + n ≤ b.addr)
  (firstFrom free (streamBlocks s.cmt.cfg e)).map (s.streamPlace e)

/-- The MAC moves a complete block into the jitter buffer through port B: whether the bank takes it (10 R250, 13 R343). -/
def State.storeBlk (s : State) (e : Nat) (b : Blk) : State × Option Blk :=
  match s.freePlace e with
  | none => (s, none)
  | some a =>
    match s.refusal (s.streamMaster e) a true with
    | some k => (s.capture (s.streamMaster e) 0 k a true, none)
    | none => ((s.vatStores a (b.rawFrames.flatMap fun f => f.flatMap fun x => leBytes 4 x.toNat) []).1,
               some { b with parts := [], done := true, addr := a })

/-- The next block starts: taken, or the previous one repeated whole (13 R342). -/
def State.nextBlock (s : State) (e : Nat) : State :=
  let r := s.stream e
  let later := r.blocks.any fun b => b.done && b.seq != r.nextSeq
  let rest := r.blocks.filter fun x => x.seq != r.nextSeq
  match r.blocks.find? (fun b => b.done && b.seq == r.nextSeq) with
  | some b => s.putStream e { r with blocks := rest, cur := some b, at_ := 0, nextSeq := r.nextSeq + 1 }
  | none =>
    if later then (s.putStream e { r with blocks := rest, at_ := 0, nextSeq := r.nextSeq + 1 }).bump 0x43 e 1
    else (s.putStream e { r with at_ := 0 }).bump 0x43 e 4

/-- One frame drawn from a receive stream through port A; zeros until playing has started. -/
def State.drawStream (s : State) (e : Nat) : State × Frame :=
  let zero : Frame := List.replicate (s.streamCh e) 0
  if !(s.stream e).playing then (s, zero)
  else
    let s := if (s.stream e).cur.isNone || 48 ≤ (s.stream e).at_ then s.nextBlock e else s
    let r := s.stream e
    let s := s.putStream e { r with at_ := r.at_ + 1 }
    match r.cur with
    | none => (s, zero)
    | some b =>
      if b.code < 2 then s.readFrame b.buf r.at_
      else
        let x := if r.at_ % 3 = 0 then (let y := s.readFrame b.buf (r.at_ / 3)
                                        y.1.putStream e { y.1.stream e with hist := (y.2 :: r.hist).take 16 }) else s
        (x, Config.interpolate (r.at_ % 3) (x.stream e).hist)

/-! ### Sending -/

/-- A frame handed to a transmit stream in H1: port A writes it into the block being filled, one in three after the decimator at 16 kHz (13 R341,
R343). -/
def State.handStream (s : State) (e : Nat) (f : Frame) : State :=
  let r := s.stream e
  let j := s.time.tick.toNat % 48
  let new : Blk := { seq := r.nextSeq, fmt := BitVec.ofNat 8 r.fmt, addr := s.streamPlace e (r.nextSeq.toNat % 3), ch := s.streamCh e }
  let b := r.cur.getD new
  let hist := if b.code < 2 then [] else (f :: r.hist).take 48
  let s := s.putStream e { r with cur := some b, at_ := if r.cur.isNone then j else r.at_, hist := hist }
  if b.code < 2 then s.writeFrame b.buf j f
  else if j % 3 = 2 then s.writeFrame b.buf (j / 3) (Config.decimate hist)
  else s

/-- The bytes of frames in a FORMAT. -/
def wireBytes (fmt : Nat) (fs : List Frame) : List Byte :=
  let w := fmtBytes fmt
  fs.flatMap fun f => f.flatMap fun x => leBytes w (BitVec.ofInt (8 * w) (roundTo (8 * w) x)).toNat

/-- Frames of a packet. -/
def TxPkt.frames (k : TxPkt) : Nat := fmtFrames k.blk.code / 2 ^ k.pk

/-- The header of a packet (13 R341). -/
def State.packetHead (s : State) (e : Nat) (k : TxPkt) : List Byte :=
  leBytes 1 0x10 ++ leBytes 1 1 ++ leBytes 1 (s.cfg 0x43 e 4) ++ leBytes 1 (k.blk.code + 8 * k.pk + 32 * k.idx) ++ leBytes 1 k.blk.ch ++ leBytes 1 0
    ++ leBytes 2 k.blk.seq.toNat ++ leBytes 8 k.tick.toNat

/-- Bytes of a packet. -/
def TxPkt.len (k : TxPkt) : Nat := 16 + k.frames * k.blk.ch * fmtBytes k.blk.code

/-- A packet as the MAC reads it through port B when it is sent: none where the bank refuses it or a word cannot be corrected (10 R250, R254, 13
R345). Frames before the first that was handed over are 0. -/
def State.packetOf (s : State) (e : Nat) (k : TxPkt) : State × Option (List Byte) :=
  let n := 4 * k.blk.ch
  let a := k.blk.addr + k.idx * k.frames * n
  match s.refusal (s.streamMaster e) a false with
  | some r => (s.capture (s.streamMaster e) 0 r a false, none)
  | none =>
    let t := s.vatTouches (vatWords a (k.frames * n))
    let bs := s.vatBytes a (k.frames * n)
    let first := if k.blk.code < 2 then k.from_ else ceilDiv k.from_ 3
    let fs : List Frame := (List.range k.frames).map fun j => (List.range k.blk.ch).map fun c =>
      if k.idx * k.frames + j < first then 0 else BitVec.ofNat 32 (leAt bs (j * n + 4 * c) 4)
    if t.2 then (t.1.bump 0x41 (s.cfg 0x43 e 2) 14, none) else (t.1, some (s.packetHead e k ++ wireBytes k.blk.code fs))

/-- The block flip of a transmit stream: unsent packets are dropped, the block is queued (13 R341). -/
def State.flipStream (s : State) (e : Nat) : State :=
  let r := s.stream e
  if !(s.intent 0x43 e && s.cond 0x43 e) then s
  else
    let s := if r.pkts.isEmpty then s else s.bump 0x43 e 6
    let pk := s.cfg 0x43 e 6
    s.putStream e { r with cur := none, nextSeq := r.nextSeq + 1,
                           pkts := match r.cur with
                             | some b => (List.range (2 ^ pk)).map fun i => { blk := b, from_ := r.at_, pk := pk, idx := i, tick := s.time.tick }
                             | none => [] }

end Sys2Proof.Machine
end

