-- ==== Sys2Proof/Machine/Audio.lean ====
section
/-! DEFINITION. Machine/Audio.lean: the fixed audio path (07): port mute ramps (06 R132, R137), converters, filters, gains, DRC,
crossbars, meters, the block flip (04 R88, R89, 13 R341), and phases H1 and H3 of the tick (02 R21). -/

namespace Sys2Proof.Machine

/-! ### Records -/

def State.conv (s : State) (e : Nat) : ConvSt := tget {} s.audio.conv e
def State.putConv (s : State) (e : Nat) (v : ConvSt) : State := s.setAudio { s.audio with conv := tset {} s.audio.conv e v }
def State.gainOf (s : State) (k : Nat) : GainSt := tget {} s.audio.gain k
def State.putGain (s : State) (k : Nat) (v : GainSt) : State := s.setAudio { s.audio with gain := tset {} s.audio.gain k v }
def State.putHpf (s : State) (k : Nat) (v : HpfSt) : State := s.setAudio { s.audio with hpf := tset {} s.audio.hpf k v }
def State.drcOf (s : State) (i : Nat) : DrcSt := tget {} s.audio.drc i
def State.putDrc (s : State) (i : Nat) (v : DrcSt) : State := s.setAudio { s.audio with drc := tset {} s.audio.drc i v }
def State.meter (s : State) (k : Nat) : MeterSt := tget {} s.audio.meters k
def State.putMeter (s : State) (k : Nat) (v : MeterSt) : State := s.setAudio { s.audio with meters := tset {} s.audio.meters k v }

/-- A channel of a frame. -/
def chan (f : Frame) (c : Nat) : Word := nth 0 f c

/-- Magnitude, −1.0 counting as 0x7FFF_FFFF (07 R168). -/
def mag (w : Word) : Nat := min w.toInt.natAbs 0x7FFFFFFF

/-- Class and number of the port behind an endpoint 0x00 to 0x13. -/
def portOfEp (e : Nat) : Nat × Nat :=
  if e < 8 then (0x10, e) else if e < 0x0C then (0x12, e - 8) else if e < 0x10 then (0x11, e - 0x0C) else (0x12, e - 0x10)

/-- The converter endpoints of a port. -/
def epsOfPort (c p : Nat) : List Nat := if c = 0x10 then [p] else if c = 0x11 then [0x0C + p] else [8 + p, 0x10 + p]

/-- CLOCK of a port: slave. -/
def State.portSlave (s : State) (c p : Nat) : Bool := s.cfg c p (if c = 0x12 then 3 else 2) == 1

/-- STARTUP_T of a port. -/
def State.startup (s : State) (c p : Nat) : Nat := s.cfg c p (if c = 0x12 then 0xE else 6)

/-! ### Converters -/

/-- 1.0 in Q8.24. -/
def one24 : Nat := 16777216

/-- A frame in the unit of a converter's place: 1/6 of 2^-24, in which every N is exact. -/
def frameU : Nat := 6 * one24

/-- RATE codes of a TDM port, in Hz (06 R149). -/
def tdmRates : List Nat := [8000, 16000, 24000, 32000, 48000, 96000, 192000]

/-- N of a port, the exact rational nominal factor, in frames of that unit a tick (07 R155). -/
def State.nominalU (s : State) (c p : Nat) : Nat :=
  if c != 0x12 then frameU
  else if s.portSlave c p then
    (let f := (s.port c p).frameHz.toNat
     if 14400000 < f then 4 * frameU else if 7200000 < f then 2 * frameU else frameU)
  else nth 48000 tdmRates (s.cfg c p 5) * (frameU / 48000) + nth 48000 tdmRates (s.cfg c p 5) * (frameU % 48000) / 48000

/-- N as FACTOR shows it, in Q8.24. -/
def State.nominal (s : State) (c p : Nat) : Nat := s.nominalU c p / 6

/-- The port is locked to CK_E (03 R50). -/
def State.portLocked (s : State) (c p : Nat) : Bool :=
  !s.portSlave c p || (c == 0x12 && s.clk.src == some (4 + p) && s.clk.state == .locked)

/-- An endpoint takes or gives frames: its port runs beyond WAIT_CLK. -/
def State.portRuns (s : State) (c p : Nat) : Bool := let st := (s.port c p).st; st != .off && st != .waitClk

/-- Port frames a tick of a converter: N exactly in SYNC, else FACTOR (07 R155). -/
def State.ratio (s : State) (e : Nat) : Nat :=
  let r := s.conv e
  if r.st = .sync then s.nominalU (portOfEp e).1 (portOfEp e).2 else 6 * r.factor.toNat

/-- The part of a port frame that has passed since the last one came or went whole. -/
def ConvSt.part (r : ConvSt) (ratio : Nat) : Nat := match r.ago with | some n => min frameU (n * ratio) | none => 0

/-- Fill of a converter, counted to the fraction of a frame, as it is after this tick's H1: an output frame that is being sent counts by the half
that is left of it on average (07 R157, log 8). -/
def State.fillU (s : State) (e : Nat) : Nat :=
  let r := s.conv e
  let f := s.ratio e
  if isInEp e then r.fifo.length * frameU + r.part f - r.pos - f
  else r.fifo.length * frameU + r.pos + f + frameU / 2 - r.part f

/-- The PDM idle pattern over a sample of an OSR: alternating ones and zeros (06 R127). -/
def idleBits (osr : Nat) : Nat := (4 ^ (osr / 2) - 1) / 3

/-- OSR of a PDM port. -/
def State.osr (s : State) (c p : Nat) : Nat := nth 64 [32, 40, 64, 80, 128] (s.cfg c p 3)

/-- A window of the last `n` entries with one more, newest last. -/
def pushWin {α : Type} (n : Nat) (w : List α) (f : α) : List α := (w ++ [f]).drop (w.length + 1 - n)

/-- The value of a ones density k/n: 2D − 1 in Q1.31, +1.0 saturating (06 R126). -/
def ofDensity (k n : Nat) : Word := wOf (sat32 (rndDiv ((2 * (k : Int) - n) * 2 ^ 31) n))

/-- A sample of the PDM decimator: a ones density that is the same all over the window gives its value (06 R126). -/
def decimated (osr : Nat) (l : List Nat) : Word :=
  let k := popcount (l.headD 0) osr
  if l.length = 21 && l.all (fun b => popcount b osr == k) then ofDensity k osr else Config.pdmDecimate osr l

/-- The decimators of a PDM input port take the bits of one sample, by channel; a line that LINES disables gives zeros (06 R126, R136). -/
def State.decimate (s : State) (p : Nat) (bits : List Nat) : State × Frame :=
  let r := s.port 0x10 p
  let w := pushWin 21 r.bitWin bits
  (s.putPort 0x10 p { r with bitWin := w }, (List.range 16).map fun k =>
    if bit (s.cfg 0x10 p 4) (k / 2) then decimated (s.osr 0x10 p) (w.map fun x => nth 0 x k) else 0)

/-- What a port whose clock is lost supplies: on PDM what the decimators make of the idle pattern, on TDM the last whole frame again (06 R142). -/
def State.supply (s : State) (e : Nat) : State × Frame :=
  let cp := portOfEp e
  if cp.1 = 0x10 then s.decimate cp.2 (List.replicate 16 (idleBits (s.osr 0x10 cp.2)))
  else (s, if (s.port cp.1 cp.2).rxLast.isEmpty then List.replicate (fixedCh e) 0 else (s.port cp.1 cp.2).rxLast)

/-- Frames that a port supplies, one after another. -/
def State.supplies (s : State) (e : Nat) : Nat → State × List Frame
  | 0 => (s, [])
  | n + 1 =>
    let x := s.supply e
    let y := x.1.supplies e n
    (y.1, x.2 :: y.2)

/-- One whole frame made at another ratio than 1 from those at hand: a free value (log 8). -/
def State.resampled (s : State) (e pos : Nat) (fs : List Frame) : State × Frame :=
  let x := s.draw
  let f := Config.resample x.2.toNat e pos fs
  (x.1, (List.range (fixedCh e)).map fun c => nth 0 f c)

/-- One more port frame in a FIFO of 8 T (07 R157, R158): a full one drops its oldest whole frame, unless the port is locked. -/
def State.fifoPut (s : State) (e used : Nat) (f : Frame) : State :=
  let r := s.conv e
  if r.st != .sync && !r.fifo.isEmpty && 8 * s.ratio e < r.fifo.length * frameU + frameU - used then
    (s.putConv e { r with fifo := r.fifo.drop 1 ++ [f] }).bump 0x13 e 1
  else s.putConv e { r with fifo := r.fifo ++ [f] }

/-- A frame arrives at a converter from an input port; `cy` is its length. -/
def State.convPush (s : State) (e : Nat) (f : Frame) (cy : Nat) : State :=
  let r := s.conv e
  if r.st = .idle then s
  else (s.putConv e { r with ago := some 0, arr := r.arr ++ [(1, cy)] }).fifoPut e r.pos f

/-- An output converter takes the frame of a tick in H1 and makes the port frames that it completes. In HOLD the port takes them and discards them
(06 R142). -/
def State.convTake (s : State) (e : Nat) (f : Frame) : State :=
  let r := s.conv e
  if r.st = .idle || r.st = .hold then s
  else
    let p := r.pos + s.ratio e
    let s1 := s.putConv e { r with pos := p % frameU }
    if s.ratio e = frameU then s1.fifoPut e 0 f
    else (List.range (p / frameU)).foldl (fun s k => let x := s.resampled e (r.pos + k) [f]; x.1.fifoPut e 0 x.2) s1

/-- Frames that were due and not there: each a repeat of the last whole frame, counted unless the port is locked (07 R158). -/
def State.convShort (s : State) (e n : Nat) : State := if (s.conv e).st = .sync then s else s.bumpBy 0x13 e 0 n

/-- One tick of an input converter: its frame for the grid. Nothing is drawn until the fill has reached 4 T (07 R157); a slip leaves the phase to go
on. -/
def State.convDraw (s : State) (e : Nat) : State × Frame :=
  let r := s.conv e
  let zero : Frame := List.replicate (fixedCh e) 0
  if r.st = .idle || !(r.primed || 4 * s.ratio e ≤ s.fillU e) then (s, zero)
  else
    let p := r.pos + s.ratio e
    let n := p / frameU
    let x := if r.st = .hold then s.supplies e (n - r.fifo.length) else (s, [])
    let fifo := r.fifo ++ x.2
    let r1 := { r with primed := true, pos := p % frameU, fifo := fifo.drop n }
    if fifo.length < n then
      (let s := (x.1.putConv e r1).convShort e (n - fifo.length)
       (s, if r.last.isEmpty then zero else r.last))
    else if fifo.isEmpty then (x.1.putConv e r1, if r.last.isEmpty then zero else r.last)
    else
      let y := if s.ratio e = frameU then (x.1, fifo.headD zero) else x.1.resampled e r.pos fifo
      (y.1.putConv e { r1 with last := y.2 }, y.2)

/-- An output converter gives the port its next frame; zeros until its FIFO has reached 4 T. -/
def State.convGive (s : State) (e : Nat) : State × Frame :=
  let r := s.conv e
  let zero : Frame := List.replicate (fixedCh e) 0
  if r.st = .idle || !(r.primed || 4 * s.ratio e ≤ r.fifo.length * frameU + r.pos) then (s, zero)
  else
    match r.fifo with
    | [] => ((s.putConv e { r with primed := true, ago := some 0 }).convShort e 1, if r.last.isEmpty then zero else r.last)
    | f :: rest => (s.putConv e { r with primed := true, ago := some 0, fifo := rest, last := f }, f)

/-- A tick passes for a converter. -/
def State.convAge (s : State) (e : Nat) : State :=
  let r := s.conv e
  if r.st = .idle then s else s.putConv e { r with ago := r.ago.map (· + 1) }

/-- A converter starts: SYNC on a locked port, else ACQUIRE with its estimate cleared (07 R155, R156). -/
def State.convStart (s : State) (e : Nat) : State :=
  let cp := portOfEp e
  s.putConv e { st := if s.portLocked cp.1 cp.2 then .sync else .acquire, factor := BitVec.ofNat 32 (s.nominal cp.1 cp.2),
                since := s.time.tick }

/-- A converter goes to IDLE, its FIFO and estimate discarded (07 R172). -/
def State.convIdle (s : State) (e : Nat) : State := s.putConv e {}

/-- The modes of 03 R50: SYNC while the port is locked, TRACK from FACTOR = N otherwise; the fill and the phase are kept (07 R157). -/
def State.convMode (s : State) (e : Nat) : State :=
  let r := s.conv e
  if 0x14 ≤ e then s
  else
    let cp := portOfEp e
    let n := BitVec.ofNat 32 (s.nominal cp.1 cp.2)
    if s.portLocked cp.1 cp.2 then
      (if r.st = .acquire || r.st = .track then s.putConv e { r with st := .sync, factor := n } else s)
    else if r.st = .sync then s.putConv e { r with st := .track, factor := n, arr := [], marks := [] } else s

/-- Limits of FACTOR: 7.5 to 200 kHz on TDM, 8 to 96 kHz on PDM (07, At the edges). -/
def factorLimits (e : Nat) : Nat × Nat :=
  if 0x20 ≤ e then (1, 0xFFFFFFFF) else if (portOfEp e).1 = 0x12 then (2621440, 69905067) else (2796202, 33554432)

/-- A tracking converter estimates FACTOR from the frames that came since the last tick; the estimate at the last H1 of each block is noted (07
R156). -/
def State.convTrack (s : State) (e : Nat) : State :=
  let r := s.conv e
  if r.st = .acquire || r.st = .track then
    (let x := s.draw
     let l := factorLimits e
     let v := max l.1 (min l.2 (Config.estimate x.2.toNat (s.cfg 0x13 e 1) r.factor.toNat r.arr))
     x.1.putConv e { r with factor := BitVec.ofNat 32 v, arr := [],
                            marks := if s.time.tick.toNat % 48 = 47 then (v :: r.marks).take 3 else r.marks })
  else if r.arr.isEmpty then s else s.putConv e { r with arr := [] }

/-- An estimate has changed by less than 2 ppm over a block. -/
def within2ppm (a b : Nat) : Bool := ((a : Int) - b).natAbs * 500000 < b

/-- The estimate has changed by less than 2 ppm over each of the last 2 blocks. -/
def ConvSt.steady (r : ConvSt) : Bool :=
  match r.marks with
  | a :: b :: c :: _ => within2ppm a b && within2ppm b c
  | _ => false

/-- The input of a converter meets its validity rules; a receive converter accepts 47.9 to 48.1 kHz (07 R156, At the edges). -/
def State.convValid (s : State) (e : Nat) : Bool :=
  if 0x20 ≤ e then (let f := (s.conv e).factor.toNat; decide (479 * one24 ≤ 480 * f) && decide (480 * f ≤ 481 * one24))
  else (s.port (portOfEp e).1 (portOfEp e).2).clk && !(s.port (portOfEp e).1 (portOfEp e).2).periodBad

/-- The lock test: 144 T since the start and a steady estimate; with a valid input lock is there after 960 T in any case (07 R156). -/
def State.lockMet (s : State) (e : Nat) : Bool :=
  let r := s.conv e
  r.st == .acquire && r.since.toNat + 144 ≤ s.time.tick.toNat && (e < 0x20 || s.convValid e)
    && (r.steady || (r.since.toNat + 960 ≤ s.time.tick.toNat && s.convValid e))

/-- ACQUIRE → TRACK. -/
def State.convLock (s : State) (e : Nat) : State :=
  if s.lockMet e then (s.putConv e { s.conv e with st := .track }).post0 0x34 (unitReason 0x13 e) else s

/-- The fill lies outside 2 T to 6 T. -/
def State.fillOut (s : State) (e : Nat) : Bool :=
  e < 0x14 && (s.conv e).primed && (s.fillU e < 2 * s.ratio e || 6 * s.ratio e < s.fillU e)

/-- TRACK → ACQUIRE (07 R159). -/
def State.convUnlock (s : State) (e : Nat) : State :=
  let r := s.conv e
  if r.st = .track && s.fillOut e then
    ((s.putConv e { r with st := .acquire }).bump 0x13 e 2).post0 0x35 (unitReason 0x13 e)
  else s

/-- Every converter's work of one H1. -/
def State.convTick (s : State) (e : Nat) : State := ((s.convTrack e).convUnlock e).convLock e

/-- A converter reports lock (06 R137). -/
def State.convLocked (s : State) (e : Nat) : Bool := let st := (s.conv e).st; st == .track || st == .sync

/-! ### Port mute ramps (06 R132, R137) -/

/-- Enabled converter endpoints of a port. -/
def State.liveEps (s : State) (c p : Nat) : List Nat := (epsOfPort c p).filter (epEn s.cmt.cfg)

/-- SETTLE ends when its conditions hold: the converters are locked, a master's from its first frame on, STARTUP_T is over, and a slave's clock is
still valid. -/
def State.settleOver (s : State) (c p : Nat) : Bool :=
  let r := s.port c p
  r.st == .settle && r.since.toNat + s.startup c p ≤ s.time.tick.toNat
    && ((s.liveEps c p).all fun e => s.convLocked e) && (!s.portSlave c p || (r.clk && !r.periodBad))

/-- SETTLE → RAMP_UP. -/
def State.rampUp (s : State) (c p : Nat) : State :=
  if s.settleOver c p then (s.putPort c p { s.port c p with st := .rampUp }).post0 0x31 (unitReason c p) else s

/-- One frame of a ramp up; g = 32 is RUN. -/
def State.rampUpFrame (s : State) (c p : Nat) : State :=
  let r := s.port c p
  if r.st = .rampUp then s.putPort c p { r with g := min 32 (r.g + 1), st := if 31 ≤ r.g then .run else .rampUp } else s

/-- A port enters SETTLE at tick `t`: a slave's converters start (06 R136, R138, 07 R156), a master's with its first frame. -/
def State.enterSettle (s : State) (c p : Nat) (t : BitVec 64) : State :=
  let s := s.putPort c p { s.port c p with st := .settle, g := 0, since := t, clk := true }
  if !s.portSlave c p then s
  else (s.liveEps c p).foldl (fun s e =>
    let s := s.convStart e
    s.putConv e { s.conv e with since := t }) s

/-- The count of valid periods, and on TDM of correctly framed frames, is met (06 R138). -/
def PortSt.counted (r : PortSt) (c : Nat) : Bool := 256 ≤ r.periods && (c != 0x12 || 16 ≤ r.frames)

/-- A slave port in WAIT_CLK whose count is met enters SETTLE (06 R138, R139). -/
def State.settleDue (s : State) (c p : Nat) : State :=
  if (s.port c p).st == .waitClk && s.portSlave c p && (s.port c p).counted c then s.enterSettle c p s.time.tick else s

/-- One frame of a ramp down; g = 0 is WAIT_CLK and the converters go to IDLE (07 R172); where the clock has returned and its count is met the
port goes on to SETTLE (06 R139). -/
def State.rampDownFrame (s : State) (c p : Nat) : State :=
  let r := s.port c p
  if r.st = .rampDown then
    (let s := s.putPort c p { r with g := r.g - 1, st := if r.g ≤ 1 then .waitClk else .rampDown }
     if r.g ≤ 1 then ((epsOfPort c p).foldl (fun s e => s.convIdle e) s).settleDue c p else s)
  else s

/-- A port's part of one H1. -/
def State.portTick (s : State) (c p : Nat) : State :=
  if (s.port c p).st = .off then s else ((s.rampUp c p).rampUpFrame c p).rampDownFrame c p

/-- Every audio port, in class and port order. -/
def allPorts : List (Nat × Nat) :=
  (List.range 8).map (fun p => (0x10, p)) ++ (List.range 4).map (fun p => (0x11, p)) ++ (List.range 4).map (fun p => (0x12, p))

/-- A frame scaled by g/32, rounded to nearest with ties away from zero (log 8). -/
def scaleG (g : Nat) (f : Frame) : Frame := if g = 32 then f else f.map fun w => wOf (rndShr (w.toInt * g) 5)

/-! ### Filters -/

/-- Corner code and order of a channel's filter. -/
def State.hpfSet (s : State) (e c : Nat) : Nat × Nat := (s.cfg 0x15 e (c * 256 + 1), s.cfg 0x15 e (c * 256 + 2))

/-- One sample through a filter (07 R161): direct form I, 64-bit accumulator, rounded and saturated. -/
def HpfSt.step (r : HpfSt) (k : List Int) (order : Nat) (x : Word) : HpfSt × Word :=
  let b0 := nth 0 k 0
  let b1 := if order = 1 then -b0 else -2 * b0
  let b2 := if order = 1 then 0 else b0
  let acc := b0 * x.toInt + b1 * r.x1.toInt + b2 * r.x2.toInt - nth 0 k 1 * r.y1.toInt - nth 0 k 2 * r.y2.toInt
  let y := wOf (sat32 (rndShr (clampI (-(2 ^ 63)) (2 ^ 63 - 1) acc) 30))
  ({ x1 := x, x2 := r.x1, y1 := y, y2 := r.y1 }, y)

/-- A channel's filter. -/
def State.hpf1 (s : State) (e c : Nat) (x : Word) : State × Word :=
  let k := s.hpfSet e c
  if k.1 = 0 then (s, x)
  else
    let r := (tget {} s.audio.hpf (64 * e + c)).step (hpfCoef k.1 k.2) k.2 x
    (s.putHpf (64 * e + c) r.1, r.2)

/-! ### Gains (07 R163) -/

/-- Hundredths of a decibel that mute counts as during a ramp. -/
def muteCdb : Int := -14400

/-- The gain that acts now, in hundredths of a decibel. -/
def GainSt.now (r : GainSt) : Rat := if r.n = 0 then (if r.zc then r.g0 else r.goal) else r.g0 + ((r.goal : Rat) - r.g0) * r.k / r.n

/-- TARGET as hundredths of a decibel; mute is −14,400. -/
def targetOf (w : Word) : Int := if w = 0x80000000 then muteCdb else w.toInt

/-- Linear gain, Q5.27; mute is exactly 0. -/
def linear (g : Rat) : Int := if g ≤ (muteCdb : Rat) then 0 else gainOfCdb g

/-- A sample times a linear gain: nearest, ties away from zero, saturated. -/
def applyGain (g : Rat) (x : Word) : Word := if g = 0 then x else wOf (sat32 (rndShr (x.toInt * linear g) 27))

/-- A zero crossing between two samples. -/
def crosses (prev x : Word) : Bool := x == 0 || (prev.msb != x.msb)

/-- Channels of an endpoint's gain record. -/
def State.zcGroup (s : State) (e : Nat) : List Nat :=
  (List.range (fixedCh e)).filter fun c => (s.gainOf (64 * e + c)).zc

/-- Take the pending step of a channel. -/
def State.gainStep (s : State) (e c : Nat) : State :=
  let r := s.gainOf (64 * e + c)
  if r.zc then s.putGain (64 * e + c) { r with zc := false, crossed := false, g0 := r.goal } else s

/-- A crossing of a channel with a pending step: it steps, or with LINK once every pending channel of the endpoint has crossed. -/
def State.gainCross (s : State) (e c : Nat) : State :=
  let r := s.gainOf (64 * e + c)
  if !r.zc then s
  else if s.cfg 0x16 e 0xFF01 = 0 then s.gainStep e c
  else
    let s := s.putGain (64 * e + c) { r with crossed := true }
    if (s.zcGroup e).all fun k => (s.gainOf (64 * e + k)).crossed then (s.zcGroup e).foldl (fun s k => s.gainStep e k) s else s

/-- ZC_TIMEOUT of a channel is reached. -/
def State.zcOver (s : State) (e c : Nat) : Bool :=
  let r := s.gainOf (64 * e + c)
  r.zc && r.start.toNat + s.cfg 0x16 e (c * 256 + 4) ≤ s.time.tick.toNat

/-- The step at the timeout: each channel that has not crossed counts one (07 R163, log 8). -/
def State.gainTimeout (s : State) (e c : Nat) : State :=
  let group := if s.cfg 0x16 e 0xFF01 = 1 then s.zcGroup e else [c]
  group.foldl (fun s k =>
    let s := if (s.gainOf (64 * e + k)).crossed then s else s.bump 0x16 e k
    s.gainStep e k) s

/-- What a tick does to a channel's gain before its sample `x` is multiplied (07 R163). -/
def State.gainTick (s : State) (e c : Nat) (x : Word) : State :=
  let r := s.gainOf (64 * e + c)
  let s :=
    if 0 < r.n then
      (if r.k + 1 = r.n then s.putGain (64 * e + c) { r with k := 0, n := 0, g0 := r.goal, prev := x }
       else s.putGain (64 * e + c) { r with k := r.k + 1, prev := x })
    else if r.zc && r.start.toNat ≤ s.time.tick.toNat then
      (let hit := crosses r.prev x
       let s := s.putGain (64 * e + c) { r with prev := x }
       if s.zcOver e c then s.gainTimeout e c else if hit then s.gainCross e c else s)
    else s.putGain (64 * e + c) { r with prev := x }
  s

/-- The gains of a frame: every channel's step is decided before the frame is multiplied. -/
def State.gainFrame (s : State) (e : Nat) (f : Frame) : State × Frame :=
  let s := (List.range f.length).foldl (fun s c => s.gainTick e c (chan f c)) s
  (s, (List.range f.length).map fun c => applyGain (s.gainOf (64 * e + c)).now (chan f c))

/-- Filters, then gains, of an input endpoint's frame (07 R154 step 5). -/
def State.shapeIn (s : State) (e : Nat) (f : Frame) : State × Frame :=
  let r := (List.range f.length).foldl (fun (a : State × Frame) c =>
    let x := a.1.hpf1 e c (chan f c)
    (x.1, a.2 ++ [x.2])) (s, [])
  r.1.gainFrame e r.2

/-! ### DRC (07 R165, R166) -/

/-- Channels, look-ahead and the other settings of an instance number. -/
def State.drcN (s : State) (i p : Nat) : Nat := s.cfg 0x17 i p

/-- The static curve, in hundredths of a decibel: level, threshold, ratio, knee. -/
def drcCurve (l t : Rat) (ratio knee : Nat) : Rat :=
  let d : Rat := l - t
  let w : Rat := knee
  let q : Rat := 100 / (ratio : Rat) - 1
  if d < -w / 2 then 0
  else if d ≤ w / 2 then (if knee = 0 then 0 else q * (d + w / 2) * (d + w / 2) / (2 * w))
  else q * d

/-- Level of the largest magnitude of a frame; a level of 0 counts as −144 dBFS. -/
def drcDetect (f : Frame) : Rat :=
  let m := f.foldl (fun a w => max a (mag w)) 0
  if m = 0 then -14400 else cdbOfMag m

/-- The smoothed reduction after a tick. -/
def State.drcGain (s : State) (i : Nat) (r : DrcSt) (delay : List Frame) : Rat :=
  let t : Rat := (s.cfgW 0x17 i 4).toInt
  let ratio := s.drcN i 5
  if ratio = 0 then
    (let targets := (delay.take (s.drcN i 9 + 1)).map fun f => min 0 (t - drcDetect f)
     let m : Rat := targets.foldl min 0
     if m ≤ r.g then m else smooth (s.drcN i 8) r.g m)
  else
    let gt := drcCurve (drcDetect (delay.headD [])) t ratio (s.drcN i 6)
    smooth (if gt < r.g then s.drcN i 7 else s.drcN i 8) r.g gt

/-- One instance acts on the latched output bus frame. -/
def State.drcTick (s : State) (i : Nat) : State :=
  if !(s.cfg 0x17 i 1 == 1 && s.domOn 39) then s
  else
    let r := s.drcOf i
    let first := s.drcN i 2
    let n := s.drcN i 3
    let mk : Rat := s.drcN i 0xA
    let lim := s.drcN i 5 == 0
    let x : Frame := (List.range n).map fun c =>
      let w := tget 0 s.audio.outLatch (first + c)
      if lim then applyGain mk w else w
    let delay := (x :: r.delay).take 97
    let g := s.drcGain i r delay
    let y := (nth (List.replicate n 0) delay (s.drcN i 9)).map fun w => applyGain (if lim then g else g + mk) w
    let out := (List.range n).foldl (fun m c => tset 0 m (first + c) (chan y c)) s.audio.outLatch
    (s.putDrc i { g := g, delay := delay }).setAudio { (s.putDrc i { g := g, delay := delay }).audio with outLatch := out }

/-! ### Crossbars and frames -/

/-- Output ramps (GAIN 0x40 to 0x43) on the output bus frame. -/
def State.outRamp (s : State) (e : Nat) : State :=
  if !s.domOn 39 then s
  else
    let f : Frame := (List.range 64).map fun c => tget 0 s.audio.outLatch (64 * (e - 0x40) + c)
    let r := s.gainFrame e f
    r.1.setAudio { r.1.audio with
      outLatch := (List.range 64).foldl (fun m c => tset 0 m (64 * (e - 0x40) + c) (chan r.2 c)) r.1.audio.outLatch }

/-- The frame that the output crossbar gives an output endpoint of `n` channels. -/
def State.outFrame (s : State) (e n : Nat) : Frame :=
  (List.range n).map fun c =>
    let v := s.cfg 0x14 1 (64 * e + c)
    if v = 0xFFFF || !s.domOn 39 then 0 else tget 0 s.audio.outLatch v

/-- Record the frame handed to an endpoint. -/
def State.noteOut (s : State) (e : Nat) (f : Frame) : State := s.setAudio { s.audio with endOut := tset [] s.audio.endOut e f }

/-- Hand a frame to an output port's converter, scaled by the port's mute gain. -/
def State.handPort (s : State) (e : Nat) : State :=
  let cp := portOfEp e
  if !s.portRuns cp.1 cp.2 || !epEn s.cmt.cfg e then s
  else
    let f := scaleG (s.port cp.1 cp.2).g (s.outFrame e (fixedCh e))
    (s.noteOut e f).convTake e f

/-- Hand a frame to a CAPTURE ring: port A writes it at the tick's place in the block being captured (04 R89, 10 R248). -/
def State.handRing (s : State) (g : Nat) : State :=
  if !s.audioRing g 2 then s
  else
    let f := s.outFrame (0x80 + g) (s.audioCh g)
    let h := s.haudio g
    let b := h.cap.getD (s.freeBuf g)
    let s := s.putHaudio g { h with cap := some { b with n := min (b.n + 1) 48 } }
    (s.writeFrame b (s.time.tick.toNat % 48) f).noteOut (0x80 + g) f

/-- Hand a frame to a Herdline transmit stream. -/
def State.handHerd (s : State) (e : Nat) : State :=
  if !(s.intent 0x43 e && s.cond 0x43 e) then s
  else
    let f := s.outFrame e (s.streamCh e)
    (s.noteOut e f).handStream e f

/-- Steps 1 to 3 of 07 R154, after the ports' ramps and the converters' modes. -/
def State.h1Out (s : State) : State :=
  let s := allPorts.foldl (fun s cp => s.portTick cp.1 cp.2) s
  let s := ((List.range 0x30).filter isConvEp).foldl (fun s e => s.convTick e) s
  let s := (List.range 32).foldl (fun s i => s.drcTick i) s
  let s := [0x40, 0x41, 0x42, 0x43].foldl (fun s e => s.outRamp e) s
  let s := (List.range 8).foldl (fun s k => s.handPort (0x0C + k)) s
  let s := (List.range 16).foldl (fun s k => s.handHerd (0x30 + k)) s
  (List.range 128).foldl (fun s g => s.handRing g) s

/-! ### Block flip (04 R88, R89, 13 R341) -/

/-- A PLAY ring takes its oldest staged buffer, or a block of zeros (04 R88). -/
def State.flipPlay (s : State) (g : Nat) : State :=
  if !s.audioRing g 1 then s
  else
    let h := s.haudio g
    match h.staged with
    | [] => s.putHaudio g { h with playing := none, gap := h.gap + 1 } |>.bump 0x50 (g / 8) (4 * (g % 8) + 2)
    | b :: rest =>
      (s.putHaudio g { h with staged := rest, playing := some b, gap := 0 }).finish g b.id (okOrGap h.gap s.time.tick.toNat)

/-- A CAPTURE ring's block goes to its oldest posted buffer, or is dropped whole (04 R89). -/
def State.flipCapture (s : State) (g : Nat) : State :=
  if !s.audioRing g 2 then s
  else
    let h := s.haudio g
    match h.posted with
    | [] => (s.putHaudio g { h with cap := none, gap := h.gap + 1 }).bump 0x50 (g / 8) (4 * (g % 8) + 2)
    | id :: rest =>
      let b := h.cap.getD (s.freeBuf g)
      s.putHaudio g { h with posted := rest, cap := none, gap := 0, written := h.written ++ [{ b with id := id, tick := s.time.tick, gap := h.gap }] }

/-- The block flip of the last tick of a block. -/
def State.blockFlips (s : State) : State :=
  let s := (List.range 128).foldl (fun s g => (s.flipPlay g).flipCapture g) s
  (List.range 16).foldl (fun s k => s.flipStream (0x30 + k)) s

/-! ### Inputs -/

/-- The frame that an input endpoint gives. -/
def State.inFrame (s : State) (e : Nat) : State × Frame :=
  if 0x80 ≤ e then
    let g := e - 0x80
    let z : Frame := List.replicate (s.audioCh g) 0
    let h := s.haudio g
    match h.playing with
    | none => (s, z)
    | some b => (s.putHaudio g { h with playing := if b.n < 47 then some { b with n := b.n + 1 } else none }).readFrame b b.n
  else if 0x20 ≤ e then
    (if !(s.intent 0x43 e && s.domOn 36) || (s.conv e).st = .idle then (s, List.replicate (s.streamCh e) 0)
     else
       let r := s.conv e
       let p := r.pos + s.ratio e
       let n := p / frameU
       let x := (List.range n).foldl (fun (a : State × List Frame) _ =>
         let y := a.1.drawStream e
         (y.1, a.2 ++ [y.2])) (s, [])
       let y := if s.ratio e = frameU then (x.1, x.2.headD (List.replicate (s.streamCh e) 0)) else x.1.resampled e r.pos (r.last :: x.2)
       let f : Frame := (List.range (s.streamCh e)).map fun c => nth 0 y.2 c
       (y.1.putConv e { r with pos := p % frameU, last := f }, f))
  else
    let cp := portOfEp e
    if !s.portRuns cp.1 cp.2 || !epEn s.cmt.cfg e then (s, List.replicate (fixedCh e) 0)
    else
      let x := s.convDraw e
      (x.1, scaleG (s.port cp.1 cp.2).g x.2)

/-- Input endpoints, host rings apart. -/
def inEps : List Nat := (List.range 0x30).filter isInEp

/-- The input endpoints whose frames are made in a tick. -/
def State.liveIns (s : State) : List Nat :=
  inEps.filter (epEn s.cmt.cfg) ++ ((List.range 128).filter fun g => s.audioRing g 1 || (s.haudio g).playing.isSome).map (0x80 + ·)

/-- Gains of input endpoints that give no frame in this tick: their ramps go on, on samples of 0 (07 R163, log 8). -/
def State.idleGains (s : State) (live : List Nat) : State :=
  (s.audio.gain.filter fun g => !live.contains (g.1 / 64) && !(0x40 ≤ g.1 / 64 && g.1 / 64 < 0x44)).foldl
    (fun s g => s.gainTick (g.1 / 64) (g.1 % 64) 0) s

/-- Steps 4 to 6 of 07 R154: frames, filters and gains, input crossbar. -/
def State.h1In (s : State) : State :=
  if !s.domOn 38 then s.setAudio { s.audio with nextIn := [] }
  else
    let live := s.liveIns
    let r := live.foldl (fun (a : State × Map Frame) e =>
      let x := a.1.inFrame e
      let y := x.1.shapeIn e x.2
      (y.1, tset [] a.2 e y.2)) (s, [])
    let bus := (routesOf r.1.cmt.cfg 0).foldl (fun m x => tset 0 m x.1 (chan (tget [] r.2 (x.2 / 64)) (x.2 % 64))) ([] : Map Word)
    let s := r.1.idleGains live
    let s := ((List.range 0x30).filter isConvEp).foldl (fun s e => s.convAge e) s
    s.setAudio { s.audio with nextIn := bus }

/-! ### Meters (07 R168) -/

/-- METER instance of a meter. -/
def meterInst (k : Nat) : Nat := if k < 256 then 0 else if k < 512 then 1 else 2

/-- A signal meter takes a sample in H3. -/
def State.meterTake (s : State) (k : Nat) (x : Word) : State :=
  let i := meterInst k
  let r := s.meter k
  let m := mag x
  let t := s.time.tick
  let ms := meanSquare (s.cfg 0x18 i 3) r.ms m
  let level := BitVec.ofNat 16 (levelOf ms)
  let clip := r.clip || m == 0x7FFFFFFF
  if r.peak.toNat < m then
    s.putMeter k { peak := BitVec.ofNat 32 m, ms := ms, level := level, clip := clip, hold := 0 < s.cfg 0x18 i 1,
                   holdEnd := t + BitVec.ofNat 64 (s.cfg 0x18 i 1) }
  else
    let d := s.cfg 0x18 i 2
    let p := r.peak.toNat * 2 ^ 32 + r.low
    let p := if r.holdEnd.toNat < t.toNat && 0 < d then decay d p else p
    s.putMeter k { peak := BitVec.ofNat 32 (p / 2 ^ 32), low := p % 2 ^ 32, ms := ms, level := level, clip := clip,
                   hold := r.hold && t.toNat < r.holdEnd.toNat, holdEnd := r.holdEnd }

/-- H3: every meter latches (02 R21); a meter whose block is off keeps its values. -/
def State.h3 (s : State) : State :=
  let s := if s.domOn 38 then (List.range 256).foldl (fun s k => s.meterTake k (tget 0 s.audio.inBus k)) s else s
  let s := if s.domOn 39 then (List.range 256).foldl (fun s k => s.meterTake (256 + k) (tget 0 s.audio.outLatch k)) s else s
  let s := if s.domOn 39 then (List.range 32).foldl (fun s i =>
      if s.cfg 0x17 i 1 = 1 then
        s.putMeter (512 + i) { s.meter (512 + i) with level := BitVec.ofNat 16 (min 0xFFFF (reduction (s.drcOf i).g)) }
      else s) s else s
  s.setAudio { s.audio with meterTick := s.time.tick }

/-! ### Commands -/

/-- The meters that a METER_SNAP returns, as bytes (07 R169). -/
def MeterSt.bytes (r : MeterSt) : List Byte :=
  leBytes 4 r.peak.toNat ++ leBytes 2 r.level.toNat ++ leBytes 1 (b2n r.clip + 2 * b2n r.hold) ++ leBytes 1 0

/-- METER_SNAP (07 R169): CLIP is cleared where the issuing function owns the METER instance number. -/
def execMeterSnap (ring : Nat) (s : State) : Host.Outcome State Fault Refusal :=
  .next (match (s.ring ring).oldest 0x40 with
    | none => s
    | some q =>
      let first := q.desc.argN % 65536
      let n := q.desc.argN / 65536
      let f := ring / 8
      match s.dmaWrite f q.desc.addrN ((List.range n).flatMap fun k => (s.meter (first + k)).bytes) with
      | (s1, some r) => s1.finish ring q.id (access r)
      | (s1, none) =>
        let s2 := (List.range n).foldl (fun s k =>
          if f = 0 || s.cfg 1 0x18 (0x4000 + meterInst (first + k)) = f then
            s.putMeter (first + k) { s.meter (first + k) with clip := false } else s) s1
        s2.finish ring q.id (ok s.audio.meterTick.toNat))

/-- ASRC_LOCK (07 R156): the lock test is met. -/
def execAsrcLock (ep : Nat) (s : State) : Host.Outcome State Fault Refusal := .next (if isConvEp ep then s.convLock ep else s)

/-- ASRC_UNLOCK (07 R159). -/
def execAsrcUnlock (ep : Nat) (s : State) : Host.Outcome State Fault Refusal := .next (if isConvEp ep then s.convUnlock ep else s)

/-- GAIN_ZC_STEP (07 R163): the channel's sample of this tick is a crossing. -/
def execGainZcStep (ep : Nat) (ch : Nat) (s : State) : Host.Outcome State Fault Refusal :=
  .next (if unitOk 0x16 ep && ch < fixedCh ep && (s.gainOf (64 * ep + ch)).start.toNat ≤ s.time.tick.toNat && !s.zcOver ep ch
    then s.gainCross ep ch else s)

/-- ZC_TIMEOUT (07 R163): no crossing before A + ZC_TIMEOUT. -/
def execZcTimeout (ep : Nat) (ch : Nat) (s : State) : Host.Outcome State Fault Refusal :=
  .next (if unitOk 0x16 ep && ch < fixedCh ep && s.zcOver ep ch then s.gainTimeout ep ch else s)

/-- PEAK_HOLD_EXPIRY (07 R168): the last tick of the hold. -/
def execPeakHoldExpiry (meter : Nat) (s : State) : Host.Outcome State Fault Refusal :=
  let r := s.meter meter
  .next (if meter < 512 && r.hold && r.holdEnd.toNat ≤ s.time.tick.toNat then s.putMeter meter { r with hold := false } else s)

end Sys2Proof.Machine
end

