-- ==== Sys2Proof/Machine/Separator.lean ====
section
/-! DEFINITION. Machine/Separator.lean: the Separator (09): the step, beats, staging, tap capture, the staging flip and the host's
SEP_STEP and SEP_RESULT. -/

namespace Sys2Proof.Machine

/-! ### Arithmetic (09 R217, R218) -/

/-- An entry of the tables of R218 at a pre-activation. -/
def lutAt (entry : Nat → Nat) (z : Int) : Int :=
  let u := (z + 32768).toNat
  let w := entry (u / 64)
  clampI 0 65535 ((w % 65536 : Nat) + rndShr ((BitVec.ofNat 16 (w / 65536)).toInt * ((u % 64 : Nat) : Int)) 6)

/-- exp(n/64) × 2^128, by its series. -/
def expFix (n : Nat) : Nat :=
  ((List.range 64).foldl (fun (a : Nat × Nat) k => (a.1 + a.2, a.2 * n / (64 * (k + 1)))) (0, 2 ^ 128)).1

/-- 65,536 × σ(x) at x = (i − 512)/64, rounded to nearest (09 R227). -/
def sigma16 (i : Nat) : Nat :=
  let e := expFix (if i < 512 then 512 - i else i - 512)
  let one := 2 ^ 128
  let num := if i < 512 then one else e
  (2 * 65536 * num + (e + one)) / (2 * (e + one))

/-- Entry i of both built-in tables. -/
def builtinEntry (i : Nat) : Nat :=
  min 65535 (sigma16 i) + 65536 * ((sigma16 (i + 1) - sigma16 i) % 65536)

/-- A value clamped, and 1 where the clamp changed it. -/
def clampN (lo hi v : Int) : Int × Nat := (clampI lo hi v, if clampI lo hi v = v then 0 else 1)

/-- What a step needs of a layer: its weights as a function of byte offset and size, its biases, its tables. -/
structure LayerEnv where
  l : Layer := {}
  weight : Nat → Nat → Int := fun _ _ => 0
  bias : Nat → Int := fun _ => 0
  lutA : Nat → Nat := fun _ => 0
  lutG : Nat → Nat := fun _ => 0

/-- Dot product of a matrix row with a vector; `o` is the row's first byte and `e` the element size. -/
def LayerEnv.dot (n : LayerEnv) (o e : Nat) (x : List Int) : Int :=
  ((List.range x.length).zip x).foldl (fun a p => a + n.weight (o + p.1 * e) e * p.2) 0

/-- One state channel: new state, value passed on, saturations. -/
def LayerEnv.channel (n : LayerEnv) (x : List Int) (j : Nat) (h : Int) : Int × Int × Nat :=
  let l := n.l
  let o2 := l.stW * l.inW * l.eIn
  let o3 := o2 + l.stW * l.inW * l.eD
  let pin := n.bias j + n.dot (j * l.inW * l.eIn) l.eIn x
  let pd := n.bias (l.stW + j) + n.dot (o2 + j * l.inW * l.eD) l.eD x
  let pg := n.bias (2 * l.stW + j) + n.dot (o3 + j * l.inW * l.eG) l.eG x
  let zd := clampN (-32768) 32767 (rndShr pd l.shD)
  let zg := clampN (-32768) 32767 (rndShr pg l.shG)
  let a := lutAt n.lutA zd.1
  let g := lutAt n.lutG zg.1
  let h1 := clampN (-(2 ^ 47)) (2 ^ 47 - 1) (pin + rndShr ((h - pin) * a) 16)
  let v := clampN (-32768) 32767 (rndShr (h1.1 * g) (16 + l.shH))
  (h1.1, v.1, zd.2 + zg.2 + h1.2 + v.2)

/-- One output element: value and saturations. -/
def LayerEnv.output (n : LayerEnv) (x v : List Int) (k : Nat) : Int × Nat :=
  let l := n.l
  let o4 := l.stW * l.inW * (l.eIn + l.eD + l.eG)
  let q := n.bias (3 * l.stW + k) + n.dot (o4 + k * l.stW * l.eOut) l.eOut v
  let t := rndShr q l.shO
  clampN (-32768) 32767 (if l.resid then t + nth 0 x k else t)

/-- One step of one row: new states, outputs, saturations. -/
def LayerEnv.row (n : LayerEnv) (x h : List Int) : List Int × List Int × Nat :=
  let cs := (List.range n.l.stW).map fun j => n.channel x j (nth 0 h j)
  let v := cs.map (·.2.1)
  let os := (List.range n.l.outW).map fun k => n.output x v k
  (cs.map (·.1), os.map (·.1), sumOf (·.2.2) cs + sumOf (·.2) os)

/-! ### Staging -/

/-- First byte of staging buffer `p` of a model. -/
def ModelDesc.buffer (d : ModelDesc) (p : Bool) : Nat :=
  bankBase d.bank + d.page * 4096 + (if p then 128 * d.steps * (d.inW + d.outW) else 0)

/-- Address of input element e of row r of step k, and of an output element. -/
def ModelDesc.inAddr (d : ModelDesc) (p : Bool) (k r e : Nat) : Nat := d.buffer p + ((k * 64 + r) * d.inW + e) * 2
def ModelDesc.outAddr (d : ModelDesc) (p : Bool) (k r e : Nat) : Nat :=
  d.buffer p + 128 * d.steps * d.inW + ((k * 64 + r) * d.outW + e) * 2

/-- Write bytes into staging through port A, word by word; a bank that is not On takes nothing (10 R249, R250). -/
def State.stagePut (s : State) (a : Nat) (bs : List Byte) : State :=
  (vatWords a bs.length).foldl (fun s w =>
    let p := partIn a bs w
    if s.bankOn (vatBankOf w) then (s.vatStoreWord p.1 p.2).1 else s) s

/-- What the check of a read of a model's weights or staging finds: CORR, or UNCORR with SEP_ECC once per hop (09 R238). -/
def State.sepNote (s : State) (m : Nat) (e : Ecc) : State :=
  match e with
  | .ok => s
  | .corrected => s.bump 0x28 m 4
  | .uncorrectable =>
    let s := s.bump 0x28 m 5
    let r := s.model m
    if r.eccPosted then s else (s.putModel m { r with eccPosted := true }).post0 0x41 (unitReason 0x28 m)

/-- Read `n` bytes of staging through port A: those of a word that cannot be corrected read 0 (09 R238, 10 R254). -/
def State.vatRead (s : State) (m a n : Nat) : State × List Byte :=
  let x := (vatWords a n).foldl (fun (x : State × List Byte) w =>
    if !x.1.bankOn (vatBankOf w) then (x.1, x.2 ++ List.replicate 8 0)
    else
      let t := x.1.vatTouch w
      (t.1.sepNote m t.2, x.2 ++ (if t.2 = .uncorrectable then List.replicate 8 0 else t.1.vatBytes w 8))) (s, [])
  (x.1, sub x.2 (a % 8) n)

/-- The same as int16 elements. -/
def State.stageInts (s : State) (m a n : Nat) : State × List Int :=
  let x := s.vatRead m a (2 * n)
  (x.1, (List.range n).map fun e => leIntAt x.2 (2 * e) 2)

/-- int16 bytes. -/
def int16 (v : Int) : List Byte := leBytes 2 (BitVec.ofInt 16 v).toNat

/-! ### Beats (09 R223) -/

/-- Models of the tile group of a tile, in number order. -/
def State.group (s : State) (t : Nat) : List Nat :=
  (List.range 16).filter fun m => match (s.model m).desc with | some d => d.tiles.contains t | none => false

/-- What a layer reads; a weight of a word that cannot be corrected reads 0 (09 R238). -/
def State.layerEnv (s : State) (m k : Nat) (l : Layer) (err : SepErr) : LayerEnv :=
  let base := 0x50000000 + l.tile * 0x200000 + l.wOff
  let lut := 0x51000000 + l.tile * 0x2000
  let bias := (s.tile l.tile).bias
  let bad (w : Nat) : Bool := err.weights.contains (m, k, w, .uncorrectable)
  { l := l,
    weight := fun o e => if bad (o / 8) || bad ((o + e - 1) / 8) then 0 else leIntAt (memBytes s.mem (base + o) e) 0 e,
    bias := fun i => (tget 0 bias (l.bOff + i)).toInt,
    lutA := fun i => leNat (memBytes s.mem (lut + 4 * i) 4),
    lutG := fun i => leNat (memBytes s.mem (lut + 4096 + 4 * i) 4) }

/-- State channels of a row of a layer. -/
def State.accRow (s : State) (l : Layer) (r : Nat) : List Int :=
  let a := (s.tile l.tile).acc
  (List.range l.stW).map fun j => (tget 0 a (r * 512 + l.stFirst + j)).toInt

/-- Store state channels of a row of a layer. -/
def State.putAccRow (s : State) (l : Layer) (r : Nat) (h : List Int) : State :=
  let t := s.tile l.tile
  s.putTile l.tile { t with acc := ((List.range h.length).zip h).foldl (fun a p => tset 0 a (r * 512 + l.stFirst + p.1) (BitVec.ofInt 48 p.2)) t.acc }

/-- A layer processes a row in a step (09 R219). -/
def State.layerRow (s : State) (m k : Nat) (l : Layer) (err : SepErr) (st : StepRec) (r : Nat) : State :=
  let rs := bit st.reset.toNat r
  let ac := bit st.active.toNat r
  let s := if rs then s.putAccRow l r (List.replicate l.stW 0) else s
  if !ac then s
  else
    let ms := s.model m
    let y := (s.layerEnv m k l err).row (tget [] ms.pipe (k * 64 + r)) (s.accRow l r)
    let s := (s.putAccRow l r y.1).bumpBy 0x28 m 1 y.2.2
    s.putModel m { s.model m with pipe := tset [] (s.model m).pipe ((k + 1) * 64 + r) y.2.1 }

/-- Inputs of a step are read from staging into layer 0; elements that nothing was staged for are 0 (09 R220). -/
def State.readStep (s : State) (m : Nat) (d : ModelDesc) (k : Nat) (st : StepRec) : State :=
  let s := if st.active = 0 then s else s.bump 0x28 m 0
  (List.range 64).foldl (fun s r =>
    if bit st.active.toNat r then
      let x := s.stageInts m (d.inAddr (!s.sep.buf) k r 0) d.inW
      let here := st.cov.filter fun c => c.1 == r
      let v := (List.range d.inW).map fun e => if here.any fun c => c.2.1 ≤ e && e < c.2.1 + c.2.2 then nth 0 x.2 e else 0
      x.1.putModel m { x.1.model m with pipe := tset [] (x.1.model m).pipe r v }
    else s) s

/-- Outputs of a step are written to staging. -/
def State.writeStep (s : State) (m : Nat) (d : ModelDesc) (k : Nat) (st : StepRec) : State :=
  (List.range 64).foldl (fun s r =>
    if bit st.active.toNat r then
      s.stagePut (d.outAddr s.sep.buf k r 0) ((tget [] (s.model m).pipe (d.layers.length * 64 + r)).flatMap int16)
    else s) s

/-- What has become of the words that a beat reads (09 R238): weight reads are counted, staging words keep the cells they are left with. -/
def State.sepEcc (s : State) (m : Nat) (d : ModelDesc) (err : SepErr) : State :=
  let s := (err.weights.filter fun x => x.1 = m).foldl (fun s x => s.sepNote m x.2.2.2) s
  (err.staging.filter fun x => x.1 = m).foldl (fun s x => s.upset (d.buffer (!s.sep.buf) + 8 * x.2.1) x.2.2) s

/-- Beat b of a model's span. -/
def State.modelBeat (s : State) (m : Nat) (d : ModelDesc) (err : SepErr) : State :=
  let b := (s.model m).beat
  let cur := (s.model m).cur
  let n := d.layers.length
  let s := if cur.isEmpty then s
    else
      let s := s.sepEcc m d err
      let s := if n + 1 ≤ b ∧ b - n - 1 < cur.length then s.writeStep m d (b - n - 1) (nth {} cur (b - n - 1)) else s
      let s := (List.range n).reverse.foldl (fun s k =>
        if k + 1 ≤ b ∧ b - k - 1 < cur.length then
          (List.range 64).foldl (fun s r => s.layerRow m k (nth {} d.layers k) err (nth {} cur (b - k - 1)) r) s
        else s) s
      if b < cur.length then s.readStep m d b (nth {} cur b) else s
  s.putModel m { s.model m with beat := b + 1 }

/-- The lowest tile of a tile's group, which holds the group's place in the hop. -/
def State.leadTile (s : State) (t : Nat) : Nat :=
  match s.group t with
  | [] => t
  | m :: _ => (match (s.model m).desc with | some d => d.tiles.foldl min t | none => t)

/-- Beats of a tile group that have passed in this hop. -/
def State.groupBeats (s : State) (t : Nat) : Nat := (s.tile (s.leadTile t)).beats

/-- The models of a group with the first beat of each span: one after another in number order, whether or not they run (09 R223). -/
def State.spans (s : State) (t : Nat) : List (Nat × ModelDesc × Nat) :=
  ((s.group t).foldl (fun (a : List (Nat × ModelDesc × Nat) × Nat) m =>
    match (s.model m).desc with
    | some d => (a.1 ++ [(m, d, a.2)], a.2 + d.span)
    | none => a) ([], 0)).1

/-- The next beat of a tile group: that of the model in whose span it lies. A model that does not run misses it for good (09 R223, R236). -/
def State.groupBeat (s : State) (t : Nat) (err : SepErr) : State :=
  let g := s.groupBeats t
  let u := s.leadTile t
  let here := (s.spans t).find? fun x => x.2.2 ≤ g && g < x.2.2 + x.2.1.span
  let s := s.putTile u { s.tile u with beats := g + 1 }
  match here with
  | none => s
  | some x =>
    if s.beatsRun x.1 x.2.1 && !(s.model x.1).miss then s.modelBeat x.1 x.2.1 err else s.putModel x.1 { s.model x.1 with miss := true }

/-- A beat of the group falls in this tick: ten start in each tick of the hop. -/
def State.beatDue (s : State) (t : Nat) : Bool :=
  s.groupBeats t < 10 * (s.time.tick.toNat + 1 - s.sep.hopStart.toNat) && !s.time.ckeOff && s.time.started

/-- SEP_BEAT (09 R223). -/
def execSepBeat (tile : Nat) (err : SepErr) (s : State) : Host.Outcome State Fault Refusal :=
  .next (if s.beatDue tile then s.groupBeat tile err else s)

/-- The beats of a tick that are still to be made, for each tile group by its lowest tile. -/
def State.tickBeats (s : State) (env : TickEnv) : State :=
  (List.range 8).foldl (fun s t =>
    let lead := (s.group t).all fun m => match (s.model m).desc with | some d => d.tiles.all (t ≤ ·) | none => true
    if (s.group t).isEmpty || !lead then s
    else
      let errs := (env.sep.filter fun x => x.1 = t).map (·.2)
      ((List.range 10).foldl (fun (a : State × List SepErr) _ =>
        if a.1.beatDue t then (a.1.groupBeat t (a.2.headD {}), a.2.drop 1) else a) (s, errs)).1) s

/-! ### Capture (08 R200, 09 R220) -/

/-- Note what has been staged for a step. -/
def State.cover (s : State) (m k : Nat) (c : Nat × Nat × Nat) : State :=
  let r := s.model m
  let st := nth {} r.nxt k
  s.putModel m { r with nxt := r.nxt.set k { st with cov := c :: st.cov } }

/-- A DIR 0 tap captures its patch registers into the staging buffer being filled. -/
def State.captureTap (s : State) (t : Tap) : State :=
  match (s.model t.model).desc with
  | none => s
  | some d =>
    (s.stagePut (d.inAddr s.sep.buf t.step t.row t.first)
      ((List.range t.count).flatMap fun i => leBytes 4 (tget 0 s.churn.patchR (t.pb + i)).toNat)).cover t.model t.step (t.row, t.first, 2 * t.count)

/-- The masks of a Churn step are captured. -/
def State.captureMask (s : State) (m k : Nat) (x : MaskEnt) : State :=
  let r := s.model m
  let w (i : Nat) : BitVec 32 := tget 0 s.churn.patchR (x.pb + i)
  s.putModel m { r with nxt := r.nxt.set k { nth {} r.nxt k with reset := w 1 ++ w 0, active := w 3 ++ w 2 } }

/-- What is captured after the H0 flip of a tick. -/
def State.capture0 (s : State) : State :=
  let o := s.time.tick.toNat - s.sep.hopStart.toNat
  let s := (List.range 8).foldl (fun s p =>
    if s.puUp p then ((s.pu p).taps.filter fun t => t.dir = 0 && t.off = o).foldl (fun s t => s.captureTap t) s else s) s
  (List.range 16).foldl (fun s m =>
    match (s.model m).desc with
    | none => s
    | some d => (List.range d.churnSteps).foldl (fun s k =>
        let x := nth {} d.masks k
        if x.en && x.tick = o then s.captureMask m k x else s) s) s

/-! ### Publication (09 R232, R233) -/

/-- The highest-numbered step in which a row was active. -/
def lastActive (cur : List StepRec) (r : Nat) : Option Nat :=
  ((List.range cur.length).filter fun k => bit (nth {} cur k).active.toNat r).getLast?

/-- Write the registers of a DIR 1 tap from elements. -/
def State.publishTap (s : State) (t : Tap) (el : List Int) : State :=
  (List.range t.count).foldl (fun s i =>
    let v := BitVec.ofInt 16 (nth 0 el (2 * i + 1)) ++ BitVec.ofInt 16 (nth 0 el (2 * i))
    s.setChurn { s.churn with patchR := tset 0 s.churn.patchR (t.pb + i) v }) s

/-- DIR 1 taps of a model. -/
def State.resultTaps (s : State) (m : Nat) : List Tap :=
  (List.range 8).flatMap fun p => (s.pu p).taps.filter fun t => t.dir = 1 && t.model = m

/-- Every DIR 1 register of a model takes HOLD_VALUE (09 R233). -/
def State.publishHold (s : State) (m : Nat) (hold : BitVec 16) : State :=
  (s.resultTaps m).foldl (fun s t => s.publishTap t (List.replicate (2 * t.count) hold.toInt)) s

/-- The output elements of a row in step k of the hop that ends: HOLD_VALUE where the row was inactive. -/
def State.outRow (s : State) (m : Nat) (d : ModelDesc) (cur : List StepRec) (k r : Nat) : State × List Int :=
  if bit (nth {} cur k).active.toNat r then s.stageInts m (d.outAddr s.sep.buf k r 0) d.outW
  else (s, List.replicate d.outW d.hold.toInt)

/-- DIR 1 registers take each row's outputs of the highest-numbered step in which it was active (09 R233). -/
def State.publishTaps (s : State) (m : Nat) (d : ModelDesc) (cur : List StepRec) : State :=
  (s.resultTaps m).foldl (fun s t =>
    let x := match lastActive cur t.row with
      | some k => s.outRow m d cur k t.row
      | none => (s, List.replicate d.outW d.hold.toInt)
    x.1.publishTap t ((List.range (2 * t.count)).map fun e => nth d.hold.toInt x.2 (t.first + e))) s

/-- Rows open to the host, ascending. -/
def ModelDesc.hostRows (d : ModelDesc) : List Nat := (List.range 64).filter fun r => bit d.rows.toNat r

/-- The bytes of a SEP_RESULT (09 R232). -/
def State.resultBytes (s : State) (m : Nat) (d : ModelDesc) (cur : List StepRec) (hopTick : Nat) : State × List Byte :=
  let st (k : Nat) : StepRec := nth {} cur (d.churnSteps + k)
  let filled := sumOf (fun k => if (st k).fed.isSome then 2 ^ k else 0) (List.range d.hostSteps)
  let x := ((List.range d.hostSteps).flatMap fun k => d.hostRows.map fun r => (d.churnSteps + k, r)).foldl
    (fun (x : State × List Byte) kr => let y := x.1.outRow m d cur kr.1 kr.2; (y.1, x.2 ++ y.2.flatMap int16)) (s, [])
  (x.1, leBytes 8 hopTick ++ leBytes 1 d.hostSteps ++ leBytes 1 filled ++ leBytes 6 0
    ++ (List.range 8).flatMap (fun k => leBytes 2 (if k < d.hostSteps && (st k).fed.isSome then (st k).tag.toNat else 0)) ++ x.2)

/-- A publication fills the oldest posted SEP_RESULT, or counts RESULT_DROP. -/
def State.fillResult (s : State) (m : Nat) (d : ModelDesc) (cur : List StepRec) : State :=
  let r := s.model m
  match r.posted with
  | [] => s.bump 0x28 m 3
  | (g, id, a) :: rest =>
    let x := s.resultBytes m d cur s.sep.hopStart.toNat
    x.1.putModel m { x.1.model m with posted := rest,
                                      filling := r.filling ++ [{ ring := g, id := id, tick := s.time.tick, addr := a, data := x.2 }] }

/-- A SEP_RESULT write that has not ended stops (09 R239). -/
def State.stopFills (s : State) (m : Nat) : State :=
  let r := s.model m
  r.filling.foldl (fun s x => s.finish x.ring x.id (access 5)) (s.putModel m { r with filling := [] })

/-! ### Host steps (09 R231) -/

/-- The copy of a SEP_STEP's data into step k of the buffer being filled has ended; RESET and ACTIVE act on the rows of HOST_ROWS only (09 R221). A
failed one leaves the step with nothing (04 R95). -/
def State.copyStep (s : State) (m : Nat) (d : ModelDesc) (k g : Nat) (q : Req) (ok : Bool) : State :=
  let void (s : State) (e : Nat) : State :=
    (s.putModel m { s.model m with nxt := (s.model m).nxt.set k { used := true } }).finish g q.id (access e)
  if !ok then void s 5
  else
    match s.dmaRead (g / 8) q.desc.addrN (d.hostP * d.inW * 2) with
    | (s1, .error r) => void s1 r
    | (s1, .ok b) =>
      let s1 := ((List.range d.hostP).zip d.hostRows).foldl (fun s x =>
        s.stagePut (d.inAddr s.sep.buf k x.2 0) (sub b (x.1 * d.inW * 2) (d.inW * 2))) s1
      let r := s1.model m
      let st : StepRec := { reset := q.desc.arg2 &&& d.rows, active := q.desc.arg3 &&& d.rows, used := true, fed := some (g, q.id), copied := true,
                            tag := q.desc.tag, cov := d.hostRows.map fun r => (r, 0, d.inW) }
      s1.putModel m { r with nxt := r.nxt.set k st }

/-- The step of the hop being staged that waits for the data of a request. -/
def ModelSt.slotOf (r : ModelSt) (g id : Nat) : Option Nat :=
  (List.range r.nxt.length).find? fun k => let st := nth {} r.nxt k; st.fed == some (g, id) && !st.copied

/-- SEP_STEP (09 R231): the copy of the ring's oldest SEP_STEP that has its step in the hop being staged ends. -/
def execSepStep (ring : Nat) (ok : Bool) (s : State) : Host.Outcome State Fault Refusal :=
  .next (match (s.ring ring).reqs.find? (fun q =>
      q.desc.op = 0x30 && q.live && q.ended.isNone && ((s.model q.desc.model).slotOf ring q.id).isSome) with
    | none => s
    | some q =>
      let m := q.desc.model
      match (s.model m).desc, (s.model m).slotOf ring q.id with
      | some d, some k => s.copyStep m d k ring q ok
      | _, _ => s)

/-- SEP_RESULT (09 R230, R232): the buffer is posted. -/
def execSepResult (ring : Nat) (s : State) : Host.Outcome State Fault Refusal :=
  .next (match (s.ring ring).oldest 0x31 with
    | none => s
    | some q =>
      match s.hostCheck ring q.desc with
      | some o => s.finish ring q.id o
      | none =>
        let m := q.desc.model
        let s := s.take ring q.id
        s.putModel m { s.model m with posted := (s.model m).posted ++ [(ring, q.id, q.desc.addr)] })

/-- SEP_RESULT_WRITTEN (09 R232, R239): the write of the oldest filled buffer has ended. -/
def execSepResultWritten (model : Nat) (ok : Bool) (s : State) : Host.Outcome State Fault Refusal :=
  let r := s.model model
  .next (match r.filling with
    | [] => s
    | x :: rest =>
      let s := s.putModel model { r with filling := rest }
      if ok then s.finishWrite x.ring x.id x.addr.toNat x.data (Machine.ok x.tick.toNat) else s.finish x.ring x.id (access 5))

/-! ### The staging flip (02 R22, 09 R222, R231 to R236) -/

/-- The flip that ends the hop in which a model was changed or removed: the old model's results are published, those of a removed one are not; the
SEP_STEPs whose steps have run complete (02 R34, 09 R235, R237). -/
def State.flipOld (s : State) (m : Nat) : State :=
  match (s.model m).old with
  | none => s
  | some o =>
    let s := s.putModel m { s.model m with old := none }
    let s := if o.ran && (s.model m).desc.isSome then (s.publishTaps m o.desc o.cur).bump 0x28 m 3 else s.publishHold m o.desc.hold
    if o.ran then (o.cur.filterMap (·.fed)).foldl (fun s x => s.finish x.1 x.2 (ok s.sep.hopStart.toNat)) s else s

/-- A host step whose data had not come by its flip runs with ACTIVE = 0. -/
def StepRec.missed (x : StepRec) : Bool := x.fed.isSome && !x.copied

/-- The flip of one model. A hop whose beats were not all made, or whose model is down or skipped, publishes nothing, and its SEP_STEPs go to the
next hop, before those whose data came too late (09 R231, R236, R240). -/
def State.flipModel (s : State) (m : Nat) : State :=
  let fresh := (s.model m).old.isNone
  let s := s.flipOld m
  match (s.model m).desc with
  | none => s
  | some d =>
    let s := s.stopFills m
    let done := s.hopRan m && s.modelUp m
    let r := s.model m
    let late := r.nxt.filter StepRec.missed
    let staged := if r.phase = 0 then [] else r.nxt.map fun x => if x.missed then { used := true } else x
    let s := if r.phase = 0 then s else s.bumpBy 0x28 m 2 late.length
    let fed := r.cur.filterMap (·.fed)
    let s :=
      if done then fed.foldl (fun s x => s.finish x.1 x.2 (ok s.sep.hopStart.toNat)) ((s.publishTaps m d r.cur).fillResult m d r.cur)
      else if r.phase = 0 && !fresh then s
      else s.publishHold m d.hold
    let again := if done then [] else fed
    let moved := if r.phase = 0 then r.nxt.filterMap (·.fed) else late.filterMap (·.fed)
    let r := s.model m
    s.putModel m { r with phase := if r.phase = 0 then 1 else 2, cur := staged, nxt := d.freshSteps, beat := 0, miss := false, pipe := [],
                          queued := again ++ moved ++ r.queued, eccPosted := false }

/-- After the exchange the waiting SEP_STEPs take the steps of the hop now being staged, oldest first. -/
def State.refill (s : State) (m : Nat) : State :=
  let w := (s.model m).queued
  w.foldl (fun s x => s.assignStep m x.1 x.2) (s.putModel m { s.model m with queued := [] })

/-- The staging flip: publication, then the buffers exchange roles. -/
def State.stagingFlips (s : State) : State :=
  let s := (List.range 16).foldl (fun s m => s.flipModel m) s
  let s := s.setSep { s.sep with buf := !s.sep.buf, hopStart := s.time.tick + 1, tiles := s.sep.tiles.map fun e => (e.1, { e.2 with beats := 0 }) }
  (List.range 16).foldl (fun s m => s.refill m) s

end Sys2Proof.Machine
end

