-- ==== Sys2Proof/Machine/Clocks.lean ====
section
/-! DEFINITION. Machine/Clocks.lean: the APLL and its sources, XO, and the CPLL (03). -/

namespace Sys2Proof.Machine

def State.src (s : State) (k : Nat) : SrcSt := tget {} s.clk.srcs k
def State.putSrc (s : State) (k : Nat) (v : SrcSt) : State := s.setClk { s.clk with srcs := tset {} s.clk.srcs k v }

/-- REF_PRIMARY and REF_SECONDARY. -/
def State.refPri (s : State) : Nat := s.cfg 2 0 0
def State.refSec (s : State) : Nat := s.cfg 2 0 1

/-- A source that REF_PRIMARY or REF_SECONDARY names. -/
def State.selected (s : State) (k : Nat) : Bool := s.refPri == k || s.refSec == k

/-- A source is usable (03 R46). -/
def State.usable1 (s : State) (k : Nat) : Bool :=
  if k = 0 then true
  else if k = 1 then !s.clk.discLost
  else s.clk.xoOk && (s.src k).qual && !(s.src k).lost

/-- FREQ_TRIM in 1/48 ppb. -/
def State.trim48 (s : State) : Int := 48 * (s.cfgW 2 0 4).toInt

/-- Clamp an offset to ±500 ppm (03 R42). -/
def clamp500 (v : Int) : Int := clampI (-24000000) 24000000 v

/-- Units of phase, 1/48 ppb of a tick, in one cy. -/
def phaseCy : Int := 2343750

/-- Phase of a period of the frame or word clock of a source: 48, 96 or 192 kHz (03 R45); a port's by its measured frame rate. -/
def State.srcPeriod (s : State) (k : Nat) : Int :=
  let code := if k = 3 then s.cfg 2 0 8
    else
      let hz := (s.port 0x12 (k - 4)).frameHz.toNat
      if hz < 7200000 then 0 else if hz < 14400000 then 1 else 2
  48000000000 / 2 ^ code

/-- A phase as the nearest one of a period: from half a period back to half a period on. -/
def wrapPhase (p v : Int) : Int := (v + p / 2) % p - p / 2

/-- What the loop takes out of a phase error in a tick: some of it, and never more (log 92). -/
def loopStep (e : Int) : Int := clampI (-(1 + Config.loopPull e.natAbs : Nat)) (1 + Config.loopPull e.natAbs : Nat) e

/-- Phase is tracked: a reference is active and steps 1 to 3 of 03 R47 are done. -/
def ClkSt.tracks (c : ClkSt) : Bool := 2 ≤ c.src.getD 0 && !c.slewing

/-- The alignment pull (03 R53, R60): towards PHASE_OFFSET, up to 50 ppm, with WCLK_IN or a frame clock active and tracked. -/
def State.alignPull (s : State) : Int :=
  match s.clk.src with
  | some k =>
    if s.cfg 2 0 6 = 1 && 3 ≤ k && s.clk.tracks then
      clampI (-2400000) 2400000 (wrapPhase (s.srcPeriod k) (phaseCy * (s.cfg 2 0 7 : Nat) - s.clk.buildOut))
    else 0
  | none => 0

/-- The target but for the alignment pull, in 1/48 ppb (03 R42, R47, R49), and 0 while a profile that stops CK_E is entered (14 R359). -/
def State.apllBase (s : State) : Int :=
  if s.pwr.entry then 0
  else match s.clk.src with
  | none => s.clk.held
  | some 0 => clamp500 s.trim48
  | some 1 => clamp500 s.trim48
  | some k => clamp500 (48 * (s.src k).ppb + (if s.clk.slewing then 0 else loopStep s.clk.phErr))

/-- The target (03 R42): a faster CK_E starts slot 0 earlier after the edge, so the pull towards a later slot 0 is taken off. -/
def State.apllTarget (s : State) : Int := if s.pwr.entry then 0 else clamp500 (s.apllBase - s.alignPull)

/-- The secondary, taken because the primary was not usable, stays (03 R46): without REVERT until it fails, with REVERT until a reference that
is the primary has stayed qualified for 1,024 blocks. -/
def State.staysSec (s : State) : Bool :=
  s.clk.failedOver && s.usable1 s.refSec && (s.cfg 2 0 2 == 0 || (2 ≤ s.refPri && (s.src s.refPri).qualFor < 1024))

/-- The source that 03 R46 takes, none for holdover; a DISC that is lost while active leads to holdover whenever it was LOCKED (03 R51). -/
def State.chooseSrc (s : State) : Option Nat :=
  if s.clk.state = .holdover && !s.clk.xoOk then none
  else if s.staysSec then some s.refSec
  else if s.usable1 s.refPri then some s.refPri
  else if s.usable1 s.refSec then some s.refSec
  else if s.clk.sinceLock ≤ 12288 || (s.clk.src == some 1 && s.clk.discLost) then none
  else some 0

/-- Mean of the offsets of the last 256 ms in LOCKED, rounded down; the present offset when there are none (03 R49, log 91). -/
def ClkSt.mean (c : ClkSt) : Int := if c.hist.isEmpty then c.offset48 else c.hist.foldl (· + ·) 0 / (c.hist.length : Int)

/-- The APLL goes to holdover: the mean is the target, which the offset reaches under 03 R43. -/
def State.toHoldover (s : State) : State :=
  if s.clk.state = .holdover then s
  else (s.setClk { s.clk with state := .holdover, src := none, slewing := false, failedOver := false, held := s.clk.mean }).post0 0x24 0x02FF

/-- The APLL takes a source: steps 1 and 2 of 03 R47. -/
def State.takeSrc (s : State) (k : Nat) : State :=
  (s.setClk { s.clk with src := some k, slewing := true, lockFor := 0,
                         state := if k ≤ 1 then .free else .acquire }).post0 0x23 (0x200 + k)

/-- Source choice of H5 (03 R46). -/
def State.h5Source (s : State) : State :=
  if s.clk.state = .stopped then s
  else
    match s.chooseSrc with
    | none => s.toHoldover
    | some k =>
      let s := s.setClk { s.clk with failedOver := k == s.refSec && k != s.refPri }
      if s.clk.src = some k then s else s.takeSrc k

/-- A tick of phase (03 R47, R53): what the offset differs from the source's moves slot 0 against its edges; the build-out moves by as much of
the alignment pull as the offset carries, and the rest is phase error. `pull` and `base` are those of the offset's target. -/
def State.phaseTick (s : State) (pull base : Int) : State :=
  let c := s.clk
  if !c.tracks then s
  else
    let src := 48 * (s.src (c.src.getD 0)).ppb
    let moved := clampI (min 0 pull) (max 0 pull) (base - c.offset48)
    s.setClk { c with buildOut := c.buildOut + moved, phErr := c.phErr - (c.offset48 - src) - moved }

/-- The lock test (03 R48): the frequency error, against the target, is at most 0.5 ppm and the phase error about the build-out at most 200 ns. -/
def State.lockTest (s : State) : Bool :=
  s.clk.tracks && (s.apllTarget - s.clk.offset48).natAbs ≤ 24000 && s.clk.phErr.natAbs ≤ 460800000

/-- The ticks the lock test has held; LOCKED ends when the phase error exceeds 2 µs (03 R48). -/
def State.lockTick (s : State) : State :=
  let c := s.clk
  let out := c.state = .locked && c.tracks && 4608000000 < c.phErr.natAbs
  s.setClk { c with lockFor := if s.lockTest then min (c.lockFor + 1) 1536 else 0, state := if out then .acquire else c.state }

/-- One tick of slewing: SLEW ppm per ms is SLEW × 1,000 in 1/48 ppb per tick (03 R43). FREE and DISC are LOCKED while the offset equals the
target, else FREE (03 R48, R49). -/
def State.slewTick (s : State) : State :=
  let c := s.clk
  if c.state = .stopped then s
  else
    let t := s.apllTarget
    let pull := s.alignPull
    let base := s.apllBase
    let lim : Int := (s.cfg 2 0 3 : Nat) * 1000
    let s := s.setClk { c with offset48 := c.offset48 + clampI (-lim) lim (t - c.offset48) }
    match c.src with
    | some k =>
      if 1 < k then (s.phaseTick pull base).lockTick
      else if s.clk.offset48 = t then
        (if c.state = .free then (s.setClk { s.clk with state := .locked, slewing := false }).post0 0x20 (0x200 + k) else s)
      else if c.state = .locked then s.setClk { s.clk with state := .free }
      else s
    | none => s

/-- A tick of the APLL's record: the time since LOCKED (03 R46) and the ticks of DISC (03 R51), and in the last tick of a block the offset for
the mean of holdover (03 R49) and the time a source has stayed qualified (03 R46; log 91). -/
def State.clkTick (s : State) : State :=
  let c := s.clk
  let last := s.time.tick.toNat % 48 = 47
  let locked := c.state = .locked
  s.setClk { c with
    sinceLock := if locked then 0 else min (c.sinceLock + 1) 100000,
    hist := if locked && last then (c.offset48 :: c.hist).take 256 else c.hist,
    discCount := if c.src = some 1 then c.discCount + 1 else c.discCount,
    srcs := if last then c.srcs.map (fun e => (e.1, if e.2.qual && !e.2.lost then { e.2 with qualFor := min (e.2.qualFor + 1) 2000 } else e.2)) else c.srcs }

/-- The clock outputs take their settings at the edge that starts slot 0 (03 R54): 20,480, 10,240 or 5,120 cy, and 80 or 40 cy. -/
def State.clkOuts (s : State) : State :=
  s.setClk { s.clk with wclk := nth 0 [0, 20480, 10240, 5120] (s.cfg 2 0 9), mclk := nth 0 [0, 80, 40] (s.cfg 2 0 0xA) }

/-- Level of a clock output with a period at a cy of the tick (03 R54): it rises at slot 0 and is high for half of each period; no period, low. -/
def outLevel (period cy : Nat) : Bool := period != 0 && decide (cy % period < period / 2)

/-- The WCLK_OUT pin at a cy of the tick. -/
def State.wclkPin (s : State) (cy : Nat) : Bool := outLevel s.clk.wclk cy
/-- The MCLK_OUT pin at a cy of the tick. -/
def State.mclkPin (s : State) (cy : Nat) : Bool := outLevel s.clk.mclk cy

/-- A source is lost (03 R59). -/
def State.loseSrc (s : State) (k : Nat) : State :=
  let r := s.src k
  if r.lost then s
  else
    let s := s.putSrc k { r with lost := true, qual := false, good := 0, qualFor := 0 }
    let s := if s.clk.src = some k && s.clk.state = .locked then s.setClk { s.clk with state := .acquire } else s
    if s.selected k then s.post0 0x21 (0x200 + k) else s

/-- DISC is lost (03 R51). -/
def State.loseDisc (s : State) : State :=
  if s.clk.discLost then s
  else
    let s := s.setClk { s.clk with discLost := true }
    if s.selected 1 then s.post0 0x21 0x201 else s

/-- The DISC count has reached DISC_TIMEOUT. -/
def State.discOver (s : State) : Bool :=
  s.clk.src == some 1 && s.cfg 2 0 5 != 0 && 48 * s.cfg 2 0 5 ≤ s.clk.discCount

/-- REF_MEASURE (03 R45, R59): one window of a source has been measured; a lost source stays lost until it qualifies again. -/
def execRefMeasure (src : Nat) (ppb : Int) (s : State) : Host.Outcome State Fault Refusal :=
  let r := s.src src
  let bar := src == 2 && s.clk.bootCfg.toNat % 4 == 3
  .next (if !(2 ≤ src && src < 8) || !s.clk.xoOk || !s.domOn 19 then s
    else if ppb < -500000 || 500000 < ppb then
      (let s' := s.putSrc src { r with ppb := ppb, good := 0, qual := false, qualFor := 0 }
       let s' := if r.qual && s.clk.src = some src && s.clk.state = .locked then s'.setClk { s'.clk with state := .acquire } else s'
       if r.qual && s.selected src then s'.post0 0x22 (0x200 + src) else s')
    else
      let ok := -450000 ≤ ppb && ppb ≤ 450000 && !bar
      let g := if ok then min (r.good + 1) 16 else 0
      let q := r.qual || 16 ≤ g
      s.putSrc src { r with ppb := ppb, lost := r.lost && !q, good := g, qual := q })

/-- CLK_REF_LOST (03 R59). -/
def execClkRefLost (src : Nat) (s : State) : Host.Outcome State Fault Refusal := .next (if 2 ≤ src && src < 8 then s.loseSrc src else s)

/-- BUILD_OUT_CAPTURE (03 R47 step 3): once the frequency error is at most 0.5 ppm, the phase of slot 0 after the source's edge, in 1/48 ppb of a
tick, is captured, and phase is tracked about it. -/
def execBuildOutCapture (phase : Int) (s : State) : Host.Outcome State Fault Refusal :=
  let c := s.clk
  .next (if c.slewing && 2 ≤ (c.src.getD 0) && (s.apllTarget - c.offset48).natAbs ≤ 24000 then
      s.setClk { c with slewing := false, buildOut := phase, phErr := 0, lockFor := 0 }
    else s)

/-- The APLL is LOCKED on its source; the first lock since it started gives CK_E to the tick grid (02 R24, 03 R64). -/
def State.lockNow (s : State) : State :=
  let s := (s.setClk { s.clk with state := .locked, slewing := false, sinceLock := 0 }).post0 0x20 (0x200 + s.clk.src.getD 0)
  if s.time.started && !s.time.ckeOff then s
  else (s.setTime { s.time with started := true, ckeOff := false }).resumeHop

/-- CLK_LOCK (03 R48, R24): the lock test has held for 32 blocks (log 91), or FREE or DISC has reached its target; the first lock since the APLL
started gives CK_E to the tick grid. -/
def execClkLock (s : State) : Host.Outcome State Fault Refusal :=
  let c := s.clk
  let ready := (c.state == .acquire && s.lockTest && c.lockFor == 1536) || (c.state == .free && c.src.isSome && c.offset48 == s.apllTarget)
  .next (if ready && s.domOn 19 then s.lockNow else s)

/-- APLL_LOCK_LOSS (03 R48): the phase error about the build-out is found, in ns, beyond 2 µs. -/
def execApllLockLoss (phaseNs : Int) (s : State) : Host.Outcome State Fault Refusal :=
  .next (if s.clk.state == .locked && 2 ≤ s.clk.src.getD 0 && (phaseNs < -2000 || 2000 < phaseNs) then
      s.setClk { s.clk with state := .acquire, phErr := 2304000 * phaseNs, lockFor := 0 }
    else s)

/-- REVERT_TO_PRIMARY (03 R46). -/
def execRevertToPrimary (s : State) : Host.Outcome State Fault Refusal :=
  .next (if s.clk.failedOver && s.cfg 2 0 2 = 1 && s.clk.src == some s.refSec && s.usable1 s.refPri
      && (s.refPri < 2 || 1024 ≤ (s.src s.refPri).qualFor) then s.takeSrc s.refPri else s)

/-- DISC_LOST (03 R51). -/
def execDiscLost (s : State) : Host.Outcome State Fault Refusal := .next (if s.discOver then s.loseDisc else s)

/-- XO_FAIL (03 R62): holdover at once while CK_E runs, the PLLs on CK_E / 40; no source is measured, and none loses its qualification. -/
def execXoFail (s : State) : Host.Outcome State Fault Refusal :=
  .next (if !s.clk.xoOk then s
    else
      let run := s.clk.state != .stopped
      let s := s.setClk { s.clk with xoOk := false, pllOnCke := run }
      let s := if run then s.toHoldover else s
      s.post0 0x25 0x02F0)

/-- XO_RECOVER (03 R59, R62): the PLLs return to XO through their bypass paths, so cores that the CPLL clocks wait on the bypass for its lock; the
next H5 leaves holdover for the source it chooses. -/
def execXoRecover (s : State) : Host.Outcome State Fault Refusal :=
  .next (if s.clk.xoOk then s
    else
      let back := s.clk.pllOnCke && s.clk.cpllLock
      s.setClk { s.clk with xoOk := true, pllOnCke := false,
                            onBypass := s.clk.onBypass || back, cpllLock := s.clk.cpllLock && !back,
                            oppTarget := if back then some s.clk.opp else s.clk.oppTarget })

/-! ### CPLL and VDD_CPU (03 R55, R60, R63, 14 R363) -/

/-- A POL channel supplies VDD_CPU and the power controller commands it. -/
def State.vddPol (s : State) : Bool := s.cfg 3 0x40 0x11 != 0xFF

/-- The voltage of an operating point, in mV. -/
def State.oppMv (s : State) (o : Nat) : Int :=
  if !s.vddPol then 850
  else if s.cfg 3 0x40 0x10 = 1 then (Config.fusedMv o : Int) + s.pwr.trim
  else nth 700 [700, 750, 850, 950] o

/-- VDD_CPU is commanded to a target; a commanded channel is sent VOUT_COMMAND, with the target in mV (log 33). -/
def State.sendVdd (s : State) (mv : Int) : State :=
  let p := { s.pwr with vddMv := mv, vddOk := min s.pwr.vddOk mv }
  if s.vddPol && s.domOn 63 then s.setPwr { p with busSent := (s.cfg 3 0x40 0x11, 0x21, mv.toNat) :: p.busSent } else s.setPwr p

/-- VDD_CPU takes a target, commanded where it moves. -/
def State.commandVdd (s : State) (mv : Int) : State := if s.pwr.vddMv = mv then s else s.sendVdd mv

/-- After the cores have switched, the voltage comes down to what they need. -/
def State.lowerVdd (s : State) : State := if s.oppMv s.clk.opp < s.pwr.vddMv then s.commandVdd (s.oppMv s.clk.opp) else s

/-- The frequency change itself: to the bypass, the CPLL re-locks; OPP 0 leaves it off. -/
def State.beginOpp (s : State) (o : Nat) : State :=
  if o = 0 then (s.setClk { s.clk with opp := 0, onBypass := true, cpllLock := false, oppTarget := none }).lowerVdd
  else s.setClk { s.clk with onBypass := true, cpllLock := false, oppTarget := some o }

/-- Start a transition to an OPP, the higher voltage first; one under way goes on (03 R60). -/
def State.startOpp (s : State) (o : Nat) : State :=
  if s.clk.oppTarget.isSome || s.pwr.vWait.isSome then s.setClk { s.clk with oppNext := some o }
  else if s.clk.opp = o && (s.clk.onBypass == (o == 0)) then s
  else if s.clk.opp < o && s.vddPol && s.pwr.vddOk < s.oppMv o then
    (s.sendVdd (s.oppMv o)).setPwr { (s.sendVdd (s.oppMv o)).pwr with vWait := some (o, s.oppMv o), vAt := s.time.tick }
  else s.beginOpp o

/-- The next of the applied operating points starts. -/
def State.nextOpp (s : State) : State :=
  match s.clk.oppNext with
  | none => s
  | some o => (s.setClk { s.clk with oppNext := none }).startOpp o

/-- CPLL_LOCK (03 R55). -/
def execCpllLock (s : State) : Host.Outcome State Fault Refusal :=
  .next (match s.clk.oppTarget with
    | none => s
    | some o => ((s.setClk { s.clk with opp := o, onBypass := false, cpllLock := true, oppTarget := none }).lowerVdd).nextOpp)

/-- The transition under way has failed: the cores stay on the bypass, or at the old operating point (03 R63, 14 R363). -/
def State.oppFail (s : State) : State :=
  (s.setClk { s.clk with oppTarget := none, opp := if s.clk.onBypass then 0 else s.clk.opp }).post0 0x26 0x02F1

/-- CPLL_FAIL (03 R63). -/
def execCpllFail (s : State) : Host.Outcome State Fault Refusal :=
  .next (if s.clk.oppTarget.isSome then s.oppFail.nextOpp else s)

end Sys2Proof.Machine
end

