-- ==== Sys2Proof/Machine/Ports.lean ====
section
/-! DEFINITION. Machine/Ports.lean: PDM and TDM ports (06): frames, qualification of slave clocks, clock loss and framing errors. -/

namespace Sys2Proof.Machine

/-- Class of a port. -/
def portCode (p : PortId) : Nat := match p.cls with | .pdmi => 0x10 | .pdmo => 0x11 | .tdm => 0x12

/-- The port exists, its domain is on and CK_E runs. -/
def State.portOk (s : State) (p : PortId) : Bool :=
  unitOk (portCode p) p.idx && s.domOn (portDom (portCode p) p.idx) && !s.time.ckeOff

/-- Places of SLIP_REP, SLIP_DROP and CLAMP in STATS_SNAP (06 R150). -/
def slipRep : Nat := 2
def slipDrop (c : Nat) : Nat := if c = 0x10 then 2 else 3
def clampPlace (c : Nat) : Nat := if c = 0x11 then 1 else 4

/-- BCLK periods of a TDM frame (06 R128). -/
def State.frameBits (s : State) (p : Nat) : Nat := s.cfg 0x12 p 6 * (if s.cfg 0x12 p 7 = 1 then 32 else 16)

/-- Period in cy of a master port's clock: the divider of its OSR, or V (06 R124, R130). -/
def State.masterDiv (s : State) (c p : Nat) : Nat :=
  if c = 0x12 then 983040000 / (nth 48000 tdmRates (s.cfg c p 5) * s.frameBits p) else 20480 / s.osr c p

/-- What a stop or a restart leaves of a port's record: what R145 remembers of its microphone lines. -/
def PortSt.fresh (r : PortSt) : PortSt := { stuck := r.stuck, runs := r.runs, stuckDue := r.stuckDue }

/-- A port starts at tick `t` (06 R136): master SETTLE, slave WAIT_CLK; filters start cleared. -/
def State.portStart (s : State) (c p : Nat) (t : BitVec 64) : State :=
  let rate := nth 48000 tdmRates (s.cfg c p 5)
  let s := (epsOfPort c p).foldl (fun s e => (s.convIdle e).setAudio { (s.convIdle e).audio with
      hpf := (s.convIdle e).audio.hpf.filter fun x => x.1 / 64 != e }) s
  let r := (s.port c p).fresh
  if s.portSlave c p then s.putPort c p { r with st := .waitClk }
  else
    let hz := if c = 0x12 then rate * s.frameBits p else 48000 * s.osr c p
    let s := s.putPort c p { r with hz := BitVec.ofNat 32 hz, frameHz := BitVec.ofNat 32 (if c = 0x12 then 100 * rate else 0),
                                    div := s.masterDiv c p }
    s.enterSettle c p t

/-- What a TDM output drives in an empty slot or while OFF (06 R128, R140). -/
def State.tdmIdle (s : State) (p : Nat) : Option Word := if s.cfg 0x12 p 0xB = 1 then none else some 0

/-- What the data outputs of a port that is OFF drive (06 R140). -/
def State.offPins (s : State) (c p : Nat) : List (Option Word) :=
  if c = 0x11 then List.replicate 8 (some 0x80000000) else if c = 0x12 then List.replicate 16 (s.tdmIdle p) else []

/-- What the data outputs of a port drive: while OFF, from reset on, the levels of 06 R140 (R146). -/
def State.portPins (s : State) (c p : Nat) : List (Option Word) := if (s.port c p).st = .off then s.offPins c p else (s.port c p).pins

/-- A port stops (06 R136, R140): OFF, g = 0, master clock pins low, outputs idle. -/
def State.portStop (s : State) (c p : Nat) : State :=
  let s := s.putPort c p (s.port c p).fresh
  (epsOfPort c p).foldl (fun s e => s.convIdle e) s

/-! ### Clock pins of a master (06 R124, R128, R130, R140) -/

/-- Cycles since slot 0 of the last tick whose TICK is a multiple of 6, from which a master's frames are counted. -/
def State.gridCy (s : State) (slot : Nat) : Nat := s.time.tick.toNat % 6 * 20480 + slot

/-- A master port drives its clocks: from slot 0 of the tick in which it starts, and low while it is OFF. -/
def State.drivesClk (s : State) (c p : Nat) : Bool :=
  let r := s.port c p
  r.st != .off && 0 < r.div && (r.st != .settle || r.since.toNat ≤ s.time.tick.toNat)

/-- Level of a master's clock pin in a slot: PDM CLK rises at slot 0; a BCLK starts each period on the edge that launches data. -/
def State.clkPin (s : State) (c p slot : Nat) : Bool :=
  let r := s.port c p
  s.drivesClk c p
    && (if c = 0x12 then (if s.cfg c p 0xC = 0 then decide (r.div / 2 ≤ s.gridCy slot % r.div) else decide (s.gridCy slot % r.div < r.div / 2))
        else decide (slot % r.div < r.div / 2))

/-- FS over the BCLK periods of a frame with FS_POL = 0: high for the first BCLK, low in the first half, or high in the first half (06, FORMAT). -/
def fsActive (fmt n k : Nat) : Bool := if fmt < 2 then k == 0 else if fmt = 2 then decide (n / 2 ≤ k) else decide (k < n / 2)

/-- FORMAT of a TDM port. -/
def State.tdmFmt (s : State) (p : Nat) : Nat := s.cfg 0x12 p 4

/-- BCLK of a master's frame in a slot, counted from the frame marker. -/
def State.bclkOf (s : State) (p slot : Nat) : Nat := s.gridCy slot / (s.port 0x12 p).div % s.frameBits p

/-- Level of a master's FS pin in a slot. -/
def State.fsPin (s : State) (p slot : Nat) : Bool :=
  s.drivesClk 0x12 p && (fsActive (s.tdmFmt p) (s.frameBits p) (s.bclkOf p slot) != (s.cfg 0x12 p 0xD == 1))

/-- BCLK periods from the marker to the first bit of slot 0 (06, FORMAT). -/
def fmtDelay (fmt : Nat) : Nat := if fmt = 0 || fmt = 2 then 1 else 0

/-- Level of a master's DOUT in a slot: launched with each BCLK. -/
def State.doutPin (s : State) (p slot : Nat) : Option Bool := nth (some false) (s.port 0x12 p).wire (s.bclkOf p slot)

/-- Frames that a master port of `rate` Hz starts in tick t (06 R124, R130). -/
def framesIn (rate t : Nat) : Nat :=
  let l := 983040000 / rate
  let o := t % 6 * 20480
  ceilDiv (o + 20480) l - ceilDiv o l

/-- The same for a port. -/
def State.framesDue (s : State) (c p : Nat) : Nat :=
  if (s.port c p).st = .off || s.time.tick.toNat < (s.port c p).since.toNat then 0
  else framesIn (if c = 0x12 then nth 48000 tdmRates (s.cfg c p 5) else 48000) s.time.tick.toNat

/-! ### Frames -/

/-- Exchange the two channels of every data line (06 R123). -/
def edgeSwap {α : Type} (d : α) (f : List α) : List α := (List.range f.length).map fun c => nth d f (if c % 2 = 0 then c + 1 else c - 1)

/-- Channel `k` of a window of `n` frames; frames before the first are zeros (06 R136: filters start cleared). -/
def winChan (n : Nat) (w : List Frame) (k : Nat) : List Word := List.replicate (n - w.length) 0 ++ w.map fun f => chan f k

/-- The bits of a PDM input port's channels over a sample: channel 2d from the rising edges of line d, channel 2d + 1 from the falling ones, or
exchanged (06 R123). -/
def State.pdmBits (s : State) (p : Nat) (x : PinFrame) : List Nat :=
  let osr := s.osr 0x10 p
  let raw := (List.range 16).map fun k => nth 0 (if k % 2 = 0 then x.rise else x.fall) (k / 2) % 2 ^ osr
  if s.cfg 0x10 p 5 = 1 then edgeSwap 0 raw else raw

/-- The levels that a TDM port samples on a line: at the rising edges, or with BCLK_POL = 1 at the falling ones (06 R128). -/
def State.sampled (s : State) (p : Nat) (rise fall : Nat) : Nat := if s.cfg 0x12 p 0xC = 1 then fall else rise

/-- Slot `k` of a received TDM frame: the leading WORD_BITS bits, most significant first, left-aligned (06 R128, R129). -/
def State.tdmSlot (s : State) (p : Nat) (din k : Nat) : Word :=
  let first := fmtDelay (s.tdmFmt p) + k * (if s.cfg 0x12 p 7 = 1 then 32 else 16)
  BitVec.ofNat 32 (sumOf (fun j => if bit din (first + j) then 2 ^ (31 - j) else 0) (List.range (nth 16 [16, 24, 32] (s.cfg 0x12 p 8))))

/-- The frame received from the pins: PDM samples by line and edge, after the decimator, or the words of the TDM slots (06 R123, R126, R128). -/
def State.rxFrame (s : State) (c p : Nat) (x : PinFrame) : State × Frame :=
  if c = 0x10 then s.decimate p (s.pdmBits p x)
  else
    let din := s.sampled p (nth 0 x.rise 0) (nth 0 x.fall 0)
    (s, (List.range 16).map fun k => if k < s.cfg c p 6 && bit (s.cfg c p 9) k then s.tdmSlot p din k else 0)

/-- A run of equal bits, with one more. -/
def runStep (r : Bool × Nat) (b : Bool) : Bool × Nat := if r.2 != 0 && r.1 == b then (b, r.2 + 1) else (b, 1)

/-- The longest run within the bits of a sample, after a run before it; and the run at its end. -/
def runBits (n bits : Nat) (r : Bool × Nat) : Nat × (Bool × Nat) :=
  (List.range n).foldl (fun x k => let y := runStep x.2 (bit bits k); (max x.1 y.2, y)) (r.2, r)

/-- A PDM input port notes the bits it has latched: a channel with 1,024 equal ones is stuck and its event is due, unless it was already; a channel
that has seen the other value is so no more (06 R145). -/
def State.noteBits (s : State) (p : Nat) (bits : List Nat) : State :=
  let n := s.osr 0x10 p
  (List.range 16).foldl (fun s k =>
    let r := s.port 0x10 p
    let old := nth (false, 0) r.runs k
    let x := runBits n (nth 0 bits k) old
    let same := x.2.2 == old.2 + n
    let stuck := if same || old.2 = 0 then r.stuck else r.stuck.filter (· != k)
    let due := 1024 ≤ x.1 && !stuck.contains k && !r.stuckDue.contains k && (same || old.2 < 1024)
    s.putPort 0x10 p { r with runs := (List.range 16).map (fun j => if j = k then x.2 else nth (false, 0) r.runs j), stuck := stuck,
                              stuckDue := if due then r.stuckDue ++ [k] else r.stuckDue }) s

/-- ±0.891 in Q1.31 (06 R127). -/
def pdmLimit : Int := 1913407930

/-- A sample limited to ±0.891. -/
def pdmLim (w : Word) : Int := clampI (-pdmLimit) pdmLimit w.toInt

/-- A channel of a PDM output over a sample: silence is the idle pattern, which decodes to zero (06 R127). -/
def modulated (osr : Nat) (l : List Word) : Word := if l.all (· == 0) then 0 else Config.pdmModulate osr l

/-- The words driven for a frame, and how many samples were limited or saturated (06 R127 to R129): the window of the interpolator takes
the limited samples. -/
def State.txWords (s : State) (c p : Nat) (f : Frame) : State × List (Option Word) × Nat :=
  if c = 0x11 then
    let r := s.port c p
    let line (k : Nat) : Bool := bit (s.cfg c p 4) (k / 2)
    let w := pushWin 17 r.pdmWin ((List.range 8).map fun k => if line k then wOf (pdmLim (chan f k)) else 0)
    let out := (List.range 8).map fun k =>
      some (if line k then modulated (s.osr c p) (winChan 17 w k) else if s.cfg c p 7 = 1 then 0x80000000 else 0)
    (s.putPort c p { r with pdmWin := w }, if s.cfg c p 5 = 1 then edgeSwap none out else out,
     ((List.range 8).filter fun k => line k && pdmLim (chan f k) != (chan f k).toInt).length)
  else
    let word := nth 16 [16, 24, 32] (s.cfg c p 8)
    let live (k : Nat) : Bool := k < s.cfg c p 6 && bit (s.cfg c p 0xA) k
    (s, (List.range 16).map fun k => if live k then some (BitVec.ofInt 32 (roundTo word (chan f k) * 2 ^ (32 - word))) else s.tdmIdle p,
     ((List.range 16).filter fun k => live k && rndShr (chan f k).toInt (32 - word) != roundTo word (chan f k)).length)

/-- The levels of a slot's word, most significant bit first, the rest of the slot low; an empty slot is idle (06 R128, R129). -/
def slotLevels (bits word : Nat) (w : Option Word) : List (Option Bool) :=
  (List.range bits).map fun j => w.map fun v => decide (j < word) && bit v.toNat (31 - j)

/-- DOUT over a frame from its marker on: where the first bit comes one BCLK late, the last level of the frame before comes first. -/
def State.wireOf (s : State) (p : Nat) (ws : List (Option Word)) : List (Option Bool) :=
  let live (k : Nat) : Bool := bit (s.cfg 0x12 p 0xA) k
  let bits := if s.cfg 0x12 p 7 = 1 then 32 else 16
  let levels := (List.range (s.cfg 0x12 p 6)).flatMap fun k =>
    if live k then slotLevels bits (nth 16 [16, 24, 32] (s.cfg 0x12 p 8)) (nth none ws k)
    else List.replicate bits ((s.tdmIdle p).map fun _ => false)
  if fmtDelay (s.tdmFmt p) = 1 then ((s.port 0x12 p).wire.getLast?.getD ((s.tdmIdle p).map fun _ => false)) :: levels else levels

/-- A frame is driven at the pins. -/
def State.txDrive (s : State) (c p : Nat) (f : Frame) : State :=
  let w := s.txWords c p f
  let r := w.1.port c p
  (w.1.putPort c p { r with pins := w.2.1, wire := if c = 0x12 then s.wireOf p w.2.1 else r.wire }).bumpBy c p (clampPlace c) w.2.2

/-- A received frame goes through the port's FIFO to its converter; a full FIFO drops its oldest frame, which a locked port does not count (06
R144). -/
def State.rxPush (s : State) (c p e : Nat) (f : Frame) (cy : Nat) : State :=
  let r := s.port c p
  if (s.conv e).st = .idle then
    (if 2 ≤ r.rxFifo.length then
      (s.putPort c p { r with rxFifo := r.rxFifo.drop 1 ++ [f], rxLast := f }).bumpBy c p (slipDrop c) (if s.portLocked c p then 0 else 1)
     else s.putPort c p { r with rxFifo := r.rxFifo ++ [f], rxLast := f })
  else (r.rxFifo ++ [f]).foldl (fun s x => s.convPush e x cy) (s.putPort c p { r with rxFifo := [], rxLast := f })

/-- The converter gives the port its next frame, when it runs. -/
def State.txFetch (s : State) (c p e : Nat) : State :=
  if (s.conv e).st = .idle then s
  else
    let x := s.convGive e
    let q := x.1.port c p
    if 2 ≤ q.txFifo.length then
      (x.1.putPort c p { q with txFifo := q.txFifo.drop 1 ++ [x.2] }).bumpBy c p (slipDrop c) (if s.portLocked c p then 0 else 1)
    else x.1.putPort c p { q with txFifo := q.txFifo ++ [x.2] }

/-- A frame is due at the pins: the next of the FIFO, or the last one again, which a locked port does not count (06 R144). -/
def State.txFrame (s : State) (c p e : Nat) : State :=
  let s := s.txFetch c p e
  let r := s.port c p
  let z : Frame := List.replicate (fixedCh e) 0
  match r.txFifo with
  | [] => (s.txDrive c p (if r.txLast.isEmpty then z else r.txLast)).bumpBy c p slipRep (if s.portLocked c p then 0 else 1)
  | f :: rest => (s.putPort c p { r with txFifo := rest, txLast := f }).txDrive c p f

/-- One whole frame is exchanged with the pins (06 R134): a master's converters start with its first (07 R155). -/
def State.exchange (s : State) (c p : Nat) (x : PinFrame) : State :=
  let s := s.putPort c p { s.port c p with sent := (s.port c p).sent + 1 }
  (s.liveEps c p).foldl (fun s e =>
    let s := if !s.portSlave c p && (s.conv e).st == .idle && s.domOn (if isInEp e then 36 else 37) then s.convStart e else s
    if isInEp e then (let y := s.rxFrame c p x; y.1.rxPush c p e y.2 x.cy) else s.txFrame c p e) s

/-- The port exchanges frames. -/
def PortSt.open (r : PortSt) : Bool := r.st == .settle || r.st == .rampUp || r.st == .run

/-- A frame that no PORT_FRAME brings: its bits are free values (log 98). -/
def State.freePins (s : State) : State × PinFrame :=
  let x := s.draw
  let line (k : Nat) : Nat := Config.pinBits x.2.toNat k
  (x.1, { rise := (List.range 8).map line, fall := (List.range 8).map fun k => line (8 + k) })

/-- A master port exchanges each frame of a tick that has not yet come, `n` at most. -/
def State.restFrames (s : State) (c p : Nat) : Nat → State
  | 0 => s
  | n + 1 =>
    if (s.port c p).sent < s.framesDue c p then
      (let x := s.freePins
       (x.1.exchange c p x.2).restFrames c p n)
    else s

/-- Every master port has exchanged the frames of this tick (06 R124, R130). -/
def State.masterFrames (s : State) : State :=
  allPorts.foldl (fun s cp =>
    let r := s.port cp.1 cp.2
    if r.open && !s.portSlave cp.1 cp.2 && s.domOn (portDom cp.1 cp.2) then s.restFrames cp.1 cp.2 4 else s) s

/-- A tick ends for the ports. -/
def State.portsEnd (s : State) : State := s.setPorts (s.ports.map fun e => (e.1, { e.2 with sent := 0 }))

/-- FS as a slave port samples it: true while it is at its level of FS_POL = 0 high. -/
def State.fsAt (s : State) (p : Nat) (x : PinFrame) (k : Nat) : Bool := bit (s.sampled p x.fsRise x.fsFall) k != (s.cfg 0x12 p 0xD == 1)

/-- A frame of a slave TDM port is correctly framed (06 R131): the next marker comes after SLOTS × SLOT_BITS periods, in I2S and LJ the second edge
half a frame after the marker, and the frame rate lies between 7.5 and 200 kHz. -/
def State.framed (s : State) (p : Nat) (x : PinFrame) : Bool :=
  let n := s.frameBits p
  let fmt := s.tdmFmt p
  x.len == n && 4916 ≤ x.cy && x.cy ≤ 131072
    && (if fmt < 2 then s.fsAt p x 0 else (List.range n).all fun k => s.fsAt p x k == fsActive fmt n k)

/-- A correctly framed frame of a slave TDM port whose 256 periods are counted (06 R138). -/
def State.countFrame (s : State) (p : Nat) : State :=
  let r := s.port 0x12 p
  if r.periods < 256 then s else (s.putPort 0x12 p { r with frames := min 16 (r.frames + 1) }).settleDue 0x12 p

/-- A slave port declares clock loss (06 R141, R142, 07 R172, 03 R59). A loss in RAMP_DOWN finds no row in the table of R141: the count starts again
and nothing is posted or counted, as in WAIT_CLK (DESIGN CHOICE, log 98). -/
def State.portLoss (s : State) (c p : Nat) : State :=
  let r := s.port c p
  let lost := { r with clk := false, periods := 0, sum := 0, window := [], frames := 0, errRun := 0, hz := 0, frameHz := 0 }
  let src := fun (s : State) => if c = 0x12 then s.loseSrc (4 + p) else s
  if r.st = .off || !s.portSlave c p then s
  else if r.st = .waitClk || r.st = .rampDown then s.putPort c p lost
  else
    let s := ((src (s.putPort c p lost)).bump c p 0).post0 0x30 (unitReason c p)
    if r.st = .settle then
      (s.liveEps c p).foldl (fun s e => s.convIdle e) (s.putPort c p { s.port c p with st := .waitClk, g := 0 })
    else
      (s.liveEps c p).foldl (fun s e => s.putConv e { s.conv e with st := .hold }) (s.putPort c p { s.port c p with st := .rampDown })

/-- The frame of a direction in which a framing error falls: on receipt the last whole frame again, in sending the next whole frame is lost (06
R143). -/
def State.slipFrame (s : State) (p e : Nat) : State :=
  if isInEp e then (let x := s.supply e; (x.1.rxPush 0x12 p e x.2 0).bump 0x12 p 2)
  else
    let s := s.txFetch 0x12 p e
    let r := s.port 0x12 p
    (s.putPort 0x12 p { r with txFifo := r.txFifo.drop 1 }).bump 0x12 p 3

/-- A frame of a slave TDM port is not correctly framed (06 R138, R139, R141, R143): counted, and the fourth in a row is clock loss, which alone is
reported. -/
def State.frameErr (s : State) (p : Nat) : State :=
  let r := s.port 0x12 p
  if 3 ≤ r.errRun then s.portLoss 0x12 p
  else
    let s := ((s.putPort 0x12 p { r with errRun := r.errRun + 1, periods := 0, frames := 0 }).bump 0x12 p 1).post0 0x32 (unitReason 0x12 p)
    if r.open then (s.liveEps 0x12 p).foldl (fun s e => s.slipFrame p e) s else s

/-- PORT_FRAME (06 R134, R144): a master's frame while one is due in this tick; a slave's whenever it comes, a TDM frame held to its framing first. -/
def execPortFrame (port : PortId) (pins : PinFrame) (s : State) : Host.Outcome State Fault Refusal :=
  let c := portCode port
  let p := port.idx
  let r := s.port c p
  .next (if !s.portOk port || r.st = .off then s
    else if !s.portSlave c p then
      (if r.sent < s.framesDue c p then
        (let s := if c = 0x10 then s.noteBits p (s.pdmBits p pins) else s
         s.exchange c p pins)
      else s)
    else if c = 0x12 && !s.framed p pins then s.frameErr p
    else
      let s := if c = 0x10 then s.noteBits p (s.pdmBits p pins) else s
      let s := if c = 0x12 then s.putPort c p { s.port c p with errRun := 0, frameHz := BitVec.ofNat 32 (98304000000 / pins.cy) } else s
      let s := if r.open then s.exchange c p pins else s
      if c = 0x12 then s.countFrame p else s)

/-! ### Clocks of slave ports -/

/-- A slave clock period is valid (06 R125, R131). -/
def periodOk (c period high : Nat) : Bool :=
  if c = 0x12 then 39 ≤ period && period ≤ 3900 && 16 ≤ high && high + 16 ≤ period
  else 152 ≤ period && period ≤ 1966 && 60 ≤ high && high + 60 ≤ period

/-- The decimated rate over 256 periods lies between 8 and 96 kHz (06 R125). -/
def rateOk (osr sum : Nat) : Bool := sum * osr ≤ 122880 * 256 && 10240 * 256 ≤ sum * osr

/-- SETTLE (06 R125, R131, R138): one more period of a slave clock has been measured. -/
def execSettle (port : PortId) (periodCy : Nat) (highCy : Nat) (s : State) : Host.Outcome State Fault Refusal :=
  let c := portCode port
  let p := port.idx
  .next (if !s.portOk port || !s.portSlave c p || (s.port c p).st = .off then s
    else
      let r := s.port c p
      let w := (periodCy :: r.window).take 256
      let sum := sumOf id w
      let full := w.length = 256
      let good := periodOk c periodCy highCy && (c == 0x12 || !full || rateOk (s.osr c p) sum)
      (s.putPort c p { r with clk := true, lastPeriod := BitVec.ofNat 12 (min periodCy 0xFFF), periodBad := !good, window := w, sum := sum,
                              hz := BitVec.ofNat 32 (if full && 0 < sum then 983040000 * 256 / sum else 0),
                              periods := if good then min 256 (r.periods + 1) else 0, frames := if good then r.frames else 0 }).settleDue c p)

/-- PORT_CLK_LOST (06 R141). -/
def execPortClkLost (port : PortId) (s : State) : Host.Outcome State Fault Refusal :=
  .next (if s.portOk port then s.portLoss (portCode port) port.idx else s)

/-- PORT_CLK_OK (06 R137). -/
def execPortClkOk (port : PortId) (s : State) : Host.Outcome State Fault Refusal :=
  .next (if s.portOk port then s.rampUp (portCode port) port.idx else s)

/-- RAMP_UP_END (06 R132): the frame at which g reaches 32. -/
def execRampUpEnd (port : PortId) (s : State) : Host.Outcome State Fault Refusal :=
  .next (if s.portOk port && 31 ≤ (s.port (portCode port) port.idx).g then s.rampUpFrame (portCode port) port.idx else s)

/-- RAMP_DOWN_END (06 R132): the frame at which g reaches 0. -/
def execRampDownEnd (port : PortId) (s : State) : Host.Outcome State Fault Refusal :=
  .next (if s.portOk port && (s.port (portCode port) port.idx).g ≤ 1 then s.rampDownFrame (portCode port) port.idx else s)

/-- PORT_FRAME_ERR (06 R141, R143): a marker of a slave TDM port that came early, or not by the end of the frame. -/
def execPortFrameErr (port : PortId) (s : State) : Host.Outcome State Fault Refusal :=
  let c := portCode port
  .next (if s.portOk port && c == 0x12 && s.portSlave c port.idx && (s.port c port.idx).st != .off then s.frameErr port.idx else s)

/-- The channels of a PDM data line: the even and the odd one (06 R123). -/
def pdmChannel (line : Nat) (odd : Bool) : Nat := 2 * line + if odd then 1 else 0

/-- PDM_STUCK (06 R145): the last 1,024 bits of a channel were equal for the first time. -/
def execPdmStuck (port : PortId) (line : Nat) (odd : Bool) (s : State) : Host.Outcome State Fault Refusal :=
  let ch := pdmChannel line odd
  let p := port.idx
  let r := s.port 0x10 p
  .next (if s.portOk port && (portCode port) == 0x10 && r.stuckDue.contains ch then
      ((s.putPort 0x10 p { r with stuckDue := r.stuckDue.filter (· != ch), stuck := r.stuck ++ [ch] }).bump 0x10 p 1).post0 0x33
        (0x1000 + 16 * p + ch)
    else s)

end Sys2Proof.Machine
end

