-- ==== Sys2Proof/Machine/Profile.lean ====
section
/-! DEFINITION. Machine/Profile.lean: the projected configuration (05 R107), what a profile's device commit writes (14 R355, R356,
R360), how the power controller raises it (05 R114, 14 R357), and wake causes (14 R361). -/

namespace Sys2Proof.Machine

/-- A configuration: settings, blob contents by setting, profile, and the values a profile saved (14 R356). -/
structure Proj where
  m : Map Word := []
  b : Map (List Byte) := []
  profile : Nat := 0
  saved : Option (List (Nat × BitVec 32)) := none
deriving DecidableEq, Repr

/-- The applied configuration. -/
def State.applied (s : State) : Proj := { m := s.cmt.cfg, b := s.cmt.blobs, profile := s.pwr.profile, saved := s.pwr.saved }

/-- Set several settings. -/
def setAll (m : Map Word) (ts : List (Nat × Word)) : Map Word := ts.foldl (fun m t => cfgSet m t.1 t.2) m

/-- Tuples that give a value other than the present one. -/
def changing (m : Map Word) (ts : List (Nat × Word)) : List (Nat × Word) := ts.filter fun t => cfgOf m t.1 != t.2

/-! ### Wake listening (14 R360) -/

/-- A Net port enters wake listening in Quiet: ENABLE, a wake pattern enabled, and its MAC stays on. -/
def netListens (m : Map Word) (profile p : Nat) : Bool :=
  profile == 2 && cfgN m 0x40 p 1 == 1 && cfgN m 0x40 p 0x14 != 0 && cfgN m 3 (53 + p) 1 == 1

/-- A Herdline port enters wake listening: `active` says that Cowbell is active on it; a coordinator never does. -/
def herdListens (m : Map Word) (profile p : Nat) (active : Bool) : Bool :=
  let cow := cfgN m 0x42 p 1 == 1
  2 ≤ profile && cfgN m 0x41 p 1 == 1 && !(cow && cfgN m 0x42 p 2 == 1)
    && (cfgN m 0x41 p 0x14 != 0 || (cow && cfgN m 0x42 p 2 == 0 && active))

/-! ### What a profile's device commit writes -/

/-- The saved values: DOM_ON of every domain, and CPU_OPP. -/
def savedOf (m : Map Word) : List (Nat × BitVec 32) :=
  (List.range 64).map (fun d => (sid 3 d 1, cfgOf m (sid 3 d 1))) ++ [(sid 2 0 0x10, cfgOf m (sid 2 0 0x10))]

/-- Disabling values for the audio units, routes, PUs, streams and banks that Quiet and Wake-only shed. -/
def shedAudio (m : Map Word) : List (Nat × Word) :=
  (List.range 8).map (fun p => (sid 0x10 p 1, 0)) ++ (List.range 4).map (fun p => (sid 0x11 p 1, 0))
    ++ (List.range 4).flatMap (fun p => [(sid 0x12 p 1, 0), (sid 0x12 p 2, 0)])
    ++ (List.range 32).map (fun i => (sid 0x17 i 1, 0))
    ++ (routesOf m 0).map (fun r => (sid 0x14 0 r.1, 0xFFFF)) ++ (routesOf m 1).map (fun r => (sid 0x14 1 r.1, 0xFFFF))
    ++ (List.range 8).flatMap (fun p => [(sid 0x20 p 1, 0), (sid 0x20 p 2, 0), (sid 0x20 p 3, 0)]
        ++ (List.range 8).map fun t => (sid 0x20 p (0x10 + t), 0))
    ++ (List.range 0x20).map (fun e => (sid 0x43 (0x20 + e) 1, 0))
    ++ (List.range 64).flatMap (fun b => if cfgN m 0x30 b 2 = 0 then [(sid 0x30 b 2, 1)] else [])

/-- Disabling values for models with a shed tile. -/
def shedModels (m : Map Word) (b : Map (List Byte)) (profile : Nat) : List (Nat × Word) :=
  (List.range 16).flatMap fun k =>
    if cfgN m 0x28 k 1 = 0 then []
    else if profileSheds m profile 48 || (descriptorOf (tget [] b (sid 0x28 k 1))).tiles.any (fun t => profileSheds m profile (40 + t)) then
      [(sid 0x28 k 1, 0), (sid 0x28 k 2, 0)]
    else []

/-- Disabling values for the network ports that do not listen. -/
def shedPorts (m : Map Word) (profile : Nat) (active : Nat → Bool) : List (Nat × Word) :=
  (List.range 2).flatMap fun p =>
    (if netListens m profile p then [] else [(sid 0x40 p 1, 0)])
    ++ (if herdListens m profile p (active p) then [] else [(sid 0x41 p 1, 0), (sid 0x42 p 1, 0)])

/-- The settings that the device commit for `profile` writes over a configuration (14 R355, R356). -/
def Proj.devTuples (x : Proj) (profile : Nat) (active : Nat → Bool) : List (Nat × Word) :=
  let back := match x.saved with | some l => l | none => []
  let m := setAll x.m back
  if profile = 0 then changing x.m back
  else
    let opp := cfgN m 2 0 0x10
    let w := ((List.range 64).filter fun d => profileSheds m profile d).map (fun d => (sid 3 d 1, (0 : Word)))
      ++ (if profile = 1 then [(sid 2 0 0x10, BitVec.ofNat 32 (min opp 1))] else [])
      ++ shedModels m x.b profile
      ++ (if 2 ≤ profile then shedAudio m ++ shedPorts m profile active else [])
    let all := setAll m w
    changing x.m (back.map (fun t => (t.1, cfgOf all t.1)) ++ w.filter fun t => !back.any fun u => u.1 == t.1)

/-- The configuration after a commit (05 R107): a tuple of DOM_ON also replaces the saved value (14 R364). -/
def Proj.after (x : Proj) (active : Nat → Bool) (c : Commit) : Proj :=
  match c.profile with
  | some (p, _) =>
    let m1 := setAll x.m (match x.saved with | some l => l | none => [])
    { m := setAll x.m (x.devTuples p active), b := x.b, profile := p, saved := if p = 0 then none else some (savedOf m1) }
  | none =>
    { m := setAll x.m c.tuples,
      b := c.tuples.foldl (fun b t => match c.resolved.find? (fun r => r.1 = t.1) with
        | some r => tset [] b t.1 r.2
        | none => if (blobKind t.1).isSome && t.2.toNat == 0 then tdel b t.1 else b) x.b,
      profile := x.profile,
      saved := x.saved.map fun l => l.map fun (u : Nat × BitVec 32) => match c.tuples.find? (fun t => t.1 = u.1) with
        | some t => (u.1, t.2)
        | none => u }

/-- Cowbell is active on a port. -/
def State.cowActive (s : State) (p : Nat) : Bool := (s.herd0 p).cow.active

/-- The projection with the first `k` pending commits applied (05 R107). -/
def State.projAt (s : State) (k : Nat) : Proj := (s.cmt.queue.take k).foldl (fun x c => x.after s.cowActive c) s.applied

/-! ### Raising a device commit (05 R114, 14 R357) -/

/-- Replace the pending queue. -/
def State.putQueue (s : State) (q : List Commit) : State := s.setCmt { s.cmt with queue := q }

/-- Device commits in a queue. -/
def devCount (q : List Commit) : Nat := (q.filter fun c => c.fn.isNone).length

/-- A device commit enters the queue behind the other device commits and ahead of every function's commit; those it displaces are
checked again (01 R18, 05 R107, R116). -/
def placeDev (q : List Commit) (c : Commit) : List Commit :=
  (q.filter fun x => x.fn.isNone) ++ [c]
    ++ (q.filter fun x => x.fn.isSome).map fun x =>
        { x with loading := false, loadedAt := none, done := [], recheck := x.recheck || x.checked.isSome, devRecheck := x.devRecheck || x.checked.isSome }

/-- The youngest device commit of a queue that has not begun loading, replaced by `c`; none where all have. -/
def replaceDev (q : List Commit) (c : Commit) : Option (List Commit) :=
  match (q.filter fun x => x.fn.isNone && !x.loading).getLast? with
  | none => none
  | some y => some (q.map fun x => if x = y then c else x)

/-- Enter a device commit, in the place of another where 4 are pending. -/
def State.enterDev (s : State) (c : Commit) : State :=
  if devCount s.cmt.queue < 4 then s.putQueue (placeDev s.cmt.queue c)
  else
    match replaceDev s.cmt.queue c with
    | some q => s.putQueue (q.map fun x => if x.fn.isSome && x.checked.isSome then { x with recheck := true, devRecheck := true } else x)
    | none => s.setCmt { s.cmt with waiting := s.cmt.waiting ++ [c] }

/-- A profile device commit (14 R357): the first H4 at or after the next tick. -/
def State.raiseDev (s : State) (profile cause : Nat) : State :=
  s.enterDev { profile := some (profile, cause), checked := some s.time.tick, applyAt := s.time.tick + 2 }

/-- Reserve in place of Full while mains is lost (14 R357). -/
def State.mainsProfile (s : State) (profile : Nat) : Nat := if profile = 0 && s.psu.mainsLost then 1 else profile

/-- PROFILE_REQ has applied: a request for the profile in force raises no commit. -/
def State.requestProfile (s : State) (profile : Nat) : State :=
  let p := s.mainsProfile profile
  if p = s.pwr.profile then s else s.raiseDev p 1

/-- Mains loss and return (14 R357): a profile commit in Full and in Reserve only. -/
def State.mainsEvent (s : State) (lost : Bool) : State :=
  if lost && s.pwr.profile = 0 then s.raiseDev 1 2 else if !lost && s.pwr.profile = 1 then s.raiseDev 0 3 else s

/-! ### POL channels (14 R362) -/

/-- DOMAINS mask of a POL channel. -/
def State.polMask (s : State) (k : Nat) : Nat := s.cfg 3 (0x80 + k) 2 + 2 ^ 32 * s.cfg 3 (0x80 + k) 3

/-- Set a domain's state. -/
def State.putDom (s : State) (d : Nat) (v : DomState) : State := s.setPwr { s.pwr with dom := tset .off s.pwr.dom d v }

/-- A domain's state as DOM_STATE gives it. -/
def State.domSt (s : State) (d : Nat) : DomState := tget .off s.pwr.dom d

/-- A domain holds its POL channels on: it is on, powering up, or about to. -/
def State.domHolds (s : State) (d : Nat) : Bool := s.domSt d == .on || s.domSt d == .poweringUp || s.pwr.upQ.contains d

/-- POL_EN follows the domains of each mask; an unused channel's power good is gone. -/
def State.refreshPol (s : State) : State :=
  let on (k : Nat) : Bool := (List.range 64).any fun d => bit (s.polMask k) d && s.domHolds d
  let en := sumOf (fun k => if on k then 2 ^ k else 0) (List.range 8)
  let rose := (List.range 8).filter fun k => bit en k && !bit s.pwr.polEn.toNat k
  s.setPwr { s.pwr with polEn := BitVec.ofNat 8 en, polPg := s.pwr.polPg &&& BitVec.ofNat 8 en,
                        polAt := rose.foldl (fun m k => tset 0 m k s.time.tick) s.pwr.polAt }

/-! ### Wake causes (14 R361) -/

/-- A wake cause in a profile that stops CK_E (14 R361, R364): recorded, the lowest of a tick winning; the first raises the leaving
commit and abandons an entry in progress; with CK_E stopped it powers domain 19 through its POL channels, and tries again where that has
failed (R365). -/
def State.wake (s : State) (cause : Nat) : State :=
  let w := s.pwr
  if w.profile < 2 || (cause = 3 && w.profile != 2) then s
  else
    let keep := w.wakeAt == s.time.tick && w.wakeCause != 0 && w.wakeCause.toNat < cause
    let s := s.setPwr { w with wakeCause := if keep then w.wakeCause else BitVec.ofNat 4 cause, wakeAt := s.time.tick }
    let p := s.mainsProfile (s.cfg 3 0x40 2)
    if w.phase = 2 || p = w.profile then
      (if s.time.ckeOff && w.phase = 2 && s.domSt 19 = .failed then (s.putDom 19 .poweringUp).refreshPol else s)
    else
      let s := (s.setPwr { s.pwr with phase := 2, entry := false }).raiseDev p 0x10
      if s.time.ckeOff then (s.putDom 19 .poweringUp).refreshPol else s

end Sys2Proof.Machine
end

