-- ==== Sys2Proof/Machine/Rings.lean ====
section
/-! DEFINITION. Machine/Rings.lean: sweeps, dispatch, vector messages, NOP, host-audio descriptors and STATS_SNAP (04). A command
whose precondition does not hold in the state is no event of the machine: the state stays (log 1). -/

namespace Sys2Proof.Machine

/-! ### Sweeps -/

/-- Functions that a sweep serves, in its rotating order (04 R86 step 1). -/
def State.served (s : State) : List Nat :=
  let all := ((List.range 16).map fun k => (s.host.sweepFirst + 1 + k) % 16)
  all.filter fun f => (s.fnOf f).enable && s.fnExists f && (List.range 8).any fun k => (s.ring (8 * f + k)).on

/-- A doorbell record that could not be read (04 R97). -/
def State.dbFault (s : State) (f : Nat) : State :=
  (s.putFn f { s.fnOf f with dbFault := true }).postOwn f 0x11 f

/-- Read the records of a sweep; a record not yet read or not readable is left out (04 R86, R97). -/
def State.readRecords (s : State) (env : SweepEnv) : List Nat → State × List (Nat × List Byte)
  | [] => (s, [])
  | f :: r =>
    if env.unread.contains f then s.readRecords env r
    else if env.dbErr.contains f then (s.dbFault f).readRecords env r
    else
      match s.dmaRead f ((s.fnOf f).db.toNat / 64 * 64) 64 with
      | (s1, .ok b) =>
        let x := s1.readRecords env r
        (x.1, (f, b) :: x.2)
      | (s1, .error _) => (s1.dbFault f).readRecords env r

/-- IDX of ring k in a record (04 R75). -/
def idxOf (rec_ : List Byte) (k : Nat) : Nat := leAt rec_ (4 * k) 2

/-- Take a head from the record, or stop the ring (04 R86 step 2, At the edges). -/
def State.takeHead (s : State) (g v : Nat) : State :=
  let r := s.ring g
  if !r.live then s
  else if r.size ≤ v then s.ringError g
  else if r.isCq then
    (if r.used < (v + r.size - r.head) % r.size then s.ringError g else s.putRing g { r with head := v })
  else s

/-- Index update for the rings of one record; a slot that frees lets EVT_LOST be written (04 R83). -/
def State.takeRecord (s : State) (x : Nat × List Byte) : State :=
  ((List.range 8).foldl (fun s k => s.takeHead (8 * x.1 + k) (idxOf x.2 k)) s).writeLost x.1

/-- Descriptors that a ring may fetch now (04 R86 step 3). -/
def State.fetchCount (s : State) (g tail : Nat) : Nat :=
  let r := s.ring g
  let c := s.ring (s.cqOf g)
  if r.live && !r.isCq && tail < r.size && c.live && c.isCq then
    let lim := if r.role = 0 then 64 else s.audioDepth g
    min (min ((tail + r.size - r.idx) % r.size) (lim - r.reqs.length)) c.free
  else 0

/-- Append fetched descriptors to a ring, reserving their completion slots (04 R80). -/
def State.addReqs (s : State) (g : Nat) (ds : List (Desc × Option Outc)) : State :=
  let r := s.ring g
  let c := s.cqOf g
  let qs := (List.range ds.length).zip ds |>.map fun x =>
    ({ id := r.nextId + x.1, desc := x.2.1, ended := x.2.2 } : Req)
  let s := s.putRing g { r with reqs := r.reqs ++ qs, nextId := r.nextId + ds.length, idx := (r.idx + ds.length) % r.size }
  let rc := s.ring c
  let s := s.putRing c { rc with resv := rc.resv + ds.length }
  s.bumpBy 0x50 (g / 8) (4 * (g % 8)) ds.length

/-- Fetch `n` descriptors from consecutive slots with one read; a failed read completes each slot (04 R97). -/
def State.fetchRun (s : State) (env : SweepEnv) (g n : Nat) : State :=
  if n = 0 then s
  else
    let r := s.ring g
    let a := r.start + 32 * r.idx
    let x := s.dmaRead (g / 8) a (32 * n)
    match x.2 with
    | .ok b =>
      if env.fetchErr.contains g then x.1.addReqs g (List.replicate n ({}, some (access 5)))
      else x.1.addReqs g ((List.range n).map fun i => (descOf (sub b (32 * i) 32), none))
    | .error e => x.1.addReqs g (List.replicate n ({}, some (access (if e = 6 then 5 else e))))

/-- Fetch from one ring up to its tail; the run stops at the end of the ring and goes on at slot 0. -/
def State.fetchRing (s : State) (env : SweepEnv) (g tail : Nat) : State :=
  let n := s.fetchCount g tail
  let n1 := min n ((s.ring g).size - (s.ring g).idx)
  (s.fetchRun env g n1).fetchRun env g (n - n1)

/-- A request that waits in front of another: not yet completed (04 R77, FENCE). -/
def Req.pendingReq (q : Req) : Bool := q.ended.isNone

/-- Whether a request may be dispatched: no request before it waits for dispatch, and a FENCE waits for every one before it. -/
def mayDispatch (before : List Req) (q : Req) : Bool :=
  before.all (fun x => x.live || x.ended.isSome) && (!q.desc.fence || before.all fun x => x.ended.isSome)

/-- No RESULT locator (05 R108). -/
def noLoc : Nat := 0xFFFFFFFF

/-- A COMMIT is dispatched (04 R92, 05 R107, R108 C1 and C2): by its token; as new it is pending from here on, in order of dispatch. -/
def State.beginCommit (s : State) (g : Nat) (q : Req) : State :=
  let f := g / 8
  let t := q.desc.arg2
  let n := q.desc.argN
  if !s.domOn 19 then s.finish g q.id (unitDown 1 0)
  else
    match (s.fnOf f).tokens.find? (fun x => x.1 = t) with
    | some x => s.finish g q.id { status := 1, result := BitVec.ofNat 32 x.2.toNat }
    | none =>
      if t != 0 && s.cmt.queue.any (fun c => c.fn == some f && c.token == t) then
        (s.take g q.id).setCmt { (s.take g q.id).cmt with
          tokWait := s.cmt.tokWait ++ [{ fn := f, token := t, ring := g, id := q.id }] }
      else if 4 ≤ (s.cmt.queue.filter fun c => c.fn.isSome).length then s.finish g q.id (rejected 1 noLoc)
      else if !(32 ≤ n && n ≤ 66336) then s.finish g q.id (rejected 2 noLoc)
      else
        (s.take g q.id).setCmt { (s.take g q.id).cmt with
          queue := s.cmt.queue ++ [{ fn := some f, ring := g, id := q.id, token := t, target := q.desc.arg3, len := n, fetching := true }] }

/-- Dispatch one request: a unit in quiesce by now refuses it (04 R94), a COMMIT takes its place among the pending commits, a SEP_STEP its step. -/
def State.dispatchReq (s : State) (g : Nat) (q : Req) : State :=
  let off := (target (g / 8) q.desc).any fun u => s.offline u.1 u.2
  match target (g / 8) q.desc with
  | some u =>
    if off then s.finish g q.id (unitOffline u.1 u.2)
    else
      let r := s.ring g
      let s := s.putRing g { r with reqs := r.reqs.map fun x =>
        if x.id = q.id then { x with live := true, epoch := (s.unitOf u.1 u.2).epoch } else x }
      if q.desc.opcode.toNat = 2 then s.beginCommit g q
      else if q.desc.opcode.toNat = 0x30 then
        (match s.hostCheck g q.desc with
         | some o => s.finish g q.id o
         | none => s.assignStep q.desc.model g q.id)
      else s
  | none =>
    let r := s.ring g
    s.putRing g { r with reqs := r.reqs.map fun x => if x.id = q.id then { x with live := true } else x }

/-- Dispatch what the order of the ring allows, oldest first; `n` bounds the number of requests. -/
def State.dispatchRing (s : State) (g : Nat) : Nat → State
  | 0 => s
  | n + 1 =>
    let qs := (s.ring g).reqs
    match qs.find? (fun q => !q.live && q.ended.isNone) with
    | none => s
    | some q =>
      if mayDispatch (qs.takeWhile fun x => x.id != q.id) q then (s.dispatchReq g q).dispatchRing g n else s

/-- Check the request `id` of a ring; the first failing check decides its completion (04 R87). -/
def State.checkReq (s : State) (g id : Nat) : State :=
  match (s.ring g).reqs.find? (fun q => q.id = id && q.ended.isNone) with
  | none => s
  | some q =>
    match s.checkDesc g q.desc with
    | none => s
    | some o => s.finish g id o

/-- Checks and dispatch of the requests of a ring fetched in this sweep (04 R86 step 4). -/
def State.checkRing (s : State) (g first : Nat) : State :=
  let s := s.flushRing g ((s.ring g).reqs.length + 1)
  let ids := ((s.ring g).reqs.filter fun q => first ≤ q.id).map (·.id)
  let s := ids.foldl (fun s id => s.checkReq g id) s
  s.dispatchRing g ((s.ring g).reqs.length + 1)

/-- One sweep (04 R86). -/
def State.sweepOnce (s : State) (env : SweepEnv) : State :=
  let s := (List.range 128).foldl (fun s g => s.tryEnable g) s
  let fs := s.served
  let s := s.setHost { s.host with sweepFirst := match fs with | [] => s.host.sweepFirst | f :: _ => f }
  let s := if env.unread.any (fun f => fs.contains f) then s.bump 0x01 0 0 else s
  let (s, recs) := s.readRecords env fs
  let s := recs.foldl (fun s x => s.takeRecord x) s
  let marks := (List.range 128).map fun g => (s.ring g).nextId
  let s := recs.foldl (fun s x => (List.range 8).foldl (fun s k => s.fetchRing env (8 * x.1 + k) (idxOf x.2 k)) s) s
  recs.foldl (fun s x => (List.range 8).foldl (fun s k => s.checkRing (8 * x.1 + k) (nth 0 marks (8 * x.1 + k))) s) s

/-- A sweep starts in this tick (04 R85, R98). -/
def State.sweepDue (s : State) : Bool :=
  let t := s.time.tick.toNat
  let t0 := s.host.sweepT0.toNat
  s.engineOn && s.time.started && !s.time.ckeOff && t0 ≤ t && (t - t0) % s.cfg 0x50 0 0 == 0

/-- SWEEP (04 R86). -/
def execSweep (env : SweepEnv) (s : State) : Host.Outcome State Fault Refusal :=
  .next (if s.sweepDue then s.sweepOnce env else s)

/-- FENCE_RELEASE (04 R77): what waits in front has completed, so the FENCE descriptor is dispatched, and what follows it. -/
def execFenceRelease (ring : Nat) (s : State) : Host.Outcome State Fault Refusal :=
  .next (s.dispatchRing ring ((s.ring ring).reqs.length + 1))

/-! ### Vectors -/

/-- The vector's condition at the end of tick t (04 R84), t being the tick that TICK has just ended (log 12). -/
def State.vecReady (s : State) (f v : Nat) : Bool :=
  let e := s.vec (16 * f + v)
  let t := s.time.tick.toNat - 1
  0 < e.n && (s.cfg 0x50 f (0x20 + v) ≤ e.n || e.since.toNat + s.cfg 0x50 f (0x10 + v) ≤ t)

/-- Raise a PLIC message source (11 R277): pending, merged while pending or claimed. -/
def State.plicSet (s : State) (src : Nat) : State :=
  s.setCc { s.cc with plic := { s.cc.plic with pend := tset false s.cc.plic.pend src true } }

/-- A vector is masked: by its own control bit, by Function Mask, or with MSI-X not enabled (04 R84, 19 R452, log 4). -/
def State.vecMasked (s : State) (f v : Nat) : Bool :=
  let c := (tget 0 s.pcie.cfg (4096 * f + 0x50)).toNat
  bit (s.vec (16 * f + v)).ctl.toNat 0 || bit c 30 || !bit c 31

/-- Send a vector's message (04 R84, R69). Every send resets n, that of a held message also where n counts entries whose own condition is not
yet met (log 94). -/
def State.sendVec (s : State) (f v : Nat) : State :=
  let k := 16 * f + v
  let e := s.vec k
  if s.standalone then (s.putVec k { e with n := 0 }).plicSet (64 + k)
  else if s.vecMasked f v then s.putVec k { e with n := 0, pba := true }
  else
    let s := s.putVec k { e with n := 0, pba := false }
    if s.pcieMem then s.setHostMem (memPut s.hostMem e.addr.toNat (leBytes 4 e.data.toNat)) else s

/-- VECTOR_MESSAGE (04 R84): the condition is met, or a message held in the PBA finds its vector unmasked. -/
def execVectorMessage (fn : Nat) (vec : Nat) (s : State) : Host.Outcome State Fault Refusal :=
  let e := s.vec (16 * fn + vec)
  .next (if s.engineOn && fn < 16 && vec < 16
      && (s.vecReady fn vec || (!s.standalone && e.pba && !s.vecMasked fn vec)) then s.sendVec fn vec else s)

/-! ### Descriptors -/

/-- NOP (04 R78): completes with TICK[31:0]. -/
def execNop (ring : Nat) (s : State) : Host.Outcome State Fault Refusal :=
  .next (match (s.ring ring).oldest 0x01 with
    | none => s
    | some q => s.finish ring q.id (ok s.time.tick.toNat))

/-- AUDIO_IN (04 R89): the buffer is posted. -/
def execAudioIn (ring : Nat) (s : State) : Host.Outcome State Fault Refusal :=
  .next (match (s.ring ring).oldest 0x10 with
    | none => s
    | some q =>
      let h := s.haudio ring
      (s.take ring q.id).putHaudio ring { h with posted := h.posted ++ [q.id] })

/-- AUDIO_OUT (04 R88, 10 R248): the oldest buffer is copied into its staging bank, which refuses it unless it is On. -/
def execAudioOut (ring : Nat) (ok : Bool) (s : State) : Host.Outcome State Fault Refusal :=
  .next (match (s.ring ring).oldest 0x11 with
    | none => s
    | some q =>
      if !ok then s.finish ring q.id (access 5)
      else
        match s.dmaRead (ring / 8) q.desc.addrN q.desc.argN with
        | (s1, .error e) => s1.finish ring q.id (access e)
        | (s1, .ok b) =>
          let buf := { s1.freeBuf ring with id := q.id }
          let r := s1.stageWrite ring buf b
          let s2 := r.1
          let h := s2.haudio ring
          if r.2 then (s2.take ring q.id).putHaudio ring { h with staged := h.staged ++ [buf] } else s2.finish ring q.id (access 5))

/-- The bytes of a captured block of 48 frames, of which the last `n` were handed over: what was not is 0. -/
def capBytes (b : AudioBuf) (bs : List Byte) : List Byte :=
  let gone := 4 * b.ch * (48 - b.n)
  List.replicate gone 0 ++ bs.drop gone

/-- CAPTURE_BLOCK_WRITTEN (04 R89): the oldest captured block is read from its bank, and its DMA write ends. -/
def execCaptureBlockWritten (ring : Nat) (ok : Bool) (s : State) : Host.Outcome State Fault Refusal :=
  let h := s.haudio ring
  .next (match h.written with
    | [] => s
    | b :: r =>
      let s := s.putHaudio ring { h with written := r }
      match (s.ring ring).reqs.find? (fun q => q.id = b.id && q.ended.isNone) with
      | none => s
      | some q =>
        match s.stageRead ring b with
        | (s1, none) => s1.finish ring b.id (access 5)
        | (s1, some bs) =>
          if !ok then s1.finish ring b.id (access 5)
          else s1.finishWrite ring b.id q.desc.addrN (capBytes b bs) (okOrGap b.gap b.tick.toNat))

/-- The counters of a class and unit, in order (19 R458). -/
def State.statBytes (s : State) (c i n : Nat) : List Byte :=
  (List.range (n / 4)).flatMap fun k => leBytes 4 (s.count c i k).toNat

/-- Clear the counters of a class and unit. -/
def State.clearStats (s : State) (c i n : Nat) : State :=
  (List.range (n / 4)).foldl (fun s k => s.setCnt (tset 0 s.cnt (cntKey c i k) 0)) s

/-- STATS_SNAP (04 R78, 19 R458): function 0 also clears what it reads. -/
def execStatsSnap (ring : Nat) (s : State) : Host.Outcome State Fault Refusal :=
  .next (match (s.ring ring).oldest 0x41 with
    | none => s
    | some q =>
      let c := q.desc.argN % 256
      let i := fld q.desc.argN 8 8
      match statLen c i with
      | none => s.finish ring q.id (unitDown c i)
      | some n =>
        match s.dmaWrite (ring / 8) q.desc.addrN (s.statBytes c i n) with
        | (s1, some r) => s1.finish ring q.id (access r)
        | (s1, none) => (if ring / 8 = 0 then s1.clearStats c i n else s1).finish ring q.id (ok n))

end Sys2Proof.Machine
end

