-- ==== Sys2Proof/Machine/Frames.lean ====
section
/-! DEFINITION. Machine/Frames.lean: what the four frame ports share (12 R302 to R308, R313, R316, 13 R325): judgement, filters, delivery,
transmit queues and collisions. A port is named by class (0x40 Net, 0x41 Herdline) and number; a frame runs from the destination address
through the FCS. -/

namespace Sys2Proof.Machine

/-! ### Ports -/

/-- A setting of 12 R321 by its parameter of class 0x40; class 0x41 numbers five of them one higher (13 R347). -/
def State.mac (s : State) (c p n : Nat) : Nat := s.cfg c p (if c = 0x41 && 7 ≤ n && n ≤ 0xB then n + 1 else n)

/-- The counters both classes have (12 R322, 13 R350). -/
inductive MacCnt where
  | rxOk | runt | long | trunc | fcs | filtered | nobuf | overflow | ctrlUnk | rxBufErr | txOk | coll | excess | late | wake
deriving DecidableEq, Repr

/-- Place of a counter in STATS_SNAP. -/
def macPlace (c : Nat) : MacCnt → Nat
  | .rxOk => 0 | .runt => 1 | .long => 2 | .trunc => 3 | .fcs => 4 | .filtered => 5 | .nobuf => 6 | .overflow => 7
  | .ctrlUnk => if c = 0x40 then 9 else 8
  | .rxBufErr => if c = 0x40 then 10 else 9
  | .txOk => if c = 0x40 then 11 else 10
  | .coll => if c = 0x40 then 14 else 11
  | .excess => if c = 0x40 then 15 else 12
  | .late => if c = 0x40 then 16 else 13
  | .wake => if c = 0x40 then 18 else 23

/-- Count one on a MAC counter. -/
def State.macBump (s : State) (c p : Nat) (k : MacCnt) : State := s.bump c p (macPlace c k)

/-- Replace a port's record. -/
def State.putNet (s : State) (p : Nat) (v : NetPort) : State := s.setNet { s.net with ports := tset {} s.net.ports p v }
def State.putHerd (s : State) (p : Nat) (v : HerdPort) : State := s.setHerd { s.herd with ports := tset {} s.herd.ports p v }

/-- The transmit side of a port: its queues (8 holds the frame of an attempt that collided), the frame on the line, collisions and
backoff of the frame being tried, and the wire. -/
structure TxSide where
  queues : Map (List TxEnt) := []
  cur : Option (Nat × TxEnt) := none
  colls : Nat := 0
  backoff : Option Nat := none
  wire : List (List Byte) := []
deriving DecidableEq, Repr

def State.tx (s : State) (c p : Nat) : TxSide :=
  if c = 0x40 then let r := s.net0 p; { queues := r.queues, cur := r.cur, colls := r.colls, backoff := r.backoff, wire := r.wire }
  else let r := s.herd0 p; { queues := r.queues, cur := r.cur, colls := r.colls, backoff := r.backoff, wire := r.wire }

def State.putTx (s : State) (c p : Nat) (v : TxSide) : State :=
  if c = 0x40 then s.putNet p { s.net0 p with queues := v.queues, cur := v.cur, colls := v.colls, backoff := v.backoff, wire := v.wire }
  else s.putHerd p { s.herd0 p with queues := v.queues, cur := v.cur, colls := v.colls, backoff := v.backoff, wire := v.wire }

/-- A frame boundary of a Net port: the PAUSE frames that waited for it go onto the wire, ahead of every queue (12 R312). -/
def State.boundary (s : State) (c p : Nat) : State :=
  let r := s.net0 p
  if c = 0x40 && !r.pauseWait.isEmpty then
    (s.putNet p { r with wire := r.pauseWait.reverse ++ r.wire, pauseWait := [] }).bumpBy 0x40 p 12 r.pauseWait.length
  else s

/-- Posted buffers for raw frames. -/
def State.rxBufs (s : State) (c p : Nat) : List RxBuf := if c = 0x40 then (s.net0 p).posted else (s.herd0 p).raw
def State.putRxBufs (s : State) (c p : Nat) (v : List RxBuf) : State :=
  if c = 0x40 then s.putNet p { s.net0 p with posted := v } else s.putHerd p { s.herd0 p with raw := v }

/-- A port takes part in traffic: intent and condition up (05 R117). -/
def State.portUp (s : State) (c p : Nat) : Bool := p < 2 && s.intent c p && s.cond c p

/-! ### Frames -/

/-- FCS of the bytes before it, lowest byte first on the wire. -/
def fcsOf (b : List Byte) : List Byte := leBytes 4 (crc32 b).toNat

/-- Destination and source address, EtherType. -/
def destOf (fr : List Byte) : List Byte := fr.take 6
def srcOf (fr : List Byte) : List Byte := sub fr 6 6
def typeOf (fr : List Byte) : Nat := beNat (sub fr 12 2)

/-- Judgement of a received frame (12 R303). -/
structure Judge where
  runt : Bool := false
  long : Bool := false
  trunc : Bool := false
  fcs : Bool := false
  /-- 13 bytes or fewer: dropped whatever DELIVER_BAD holds -/
  tiny : Bool := false
deriving DecidableEq, Repr

def State.judge (s : State) (c p : Nat) (fr : List Byte) (fcsOk : Bool) : Judge :=
  let n := fr.length
  { runt := n < 64, long := s.maxLen c p (isTagged fr) < n, trunc := 9216 < n, fcs := !fcsOk, tiny := n < 14 }

/-- No flag is set. -/
def Judge.clean (j : Judge) : Bool := !j.runt && !j.long && !j.trunc && !j.fcs

/-- The flags of RESULT: RUNT, LONG, TRUNC, FCS_ERR (04 R78). -/
def Judge.bits (j : Judge) : Nat := 0x10000 * b2n j.runt + 0x20000 * b2n j.long + 0x40000 * b2n j.trunc + 0x80000 * b2n j.fcs

/-- Each flag's counter increments once. -/
def State.countJudge (s : State) (c p : Nat) (j : Judge) : State :=
  let s := if j.runt then s.macBump c p .runt else s
  let s := if j.long then s.macBump c p .long else s
  let s := if j.trunc then s.macBump c p .trunc else s
  if j.fcs then s.macBump c p .fcs else s

/-- Address of filter k, and whether it is enabled (12 R321). -/
def State.filterAddr (s : State) (c p k : Nat) : List Byte :=
  leBytes 4 (s.cfg c p (0x40 + k)) ++ leBytes 2 (s.cfg c p (0x50 + k) % 65536)
def State.filterOn (s : State) (c p k : Nat) : Bool := bit (s.cfg c p (0x50 + k)) 16

/-- The lowest enabled filter that holds an address. -/
def State.filterHit (s : State) (c p : Nat) (da : List Byte) : Option Nat :=
  firstFrom (fun k => s.filterOn c p k && s.filterAddr c p k == da) 15

/-- Function and filter code that a frame goes to (12 R304). -/
def State.filterOf (s : State) (c p : Nat) (da : List Byte) : Option (Nat × Nat) :=
  match s.filterHit c p da with
  | some k => some (s.cfg c p (0x60 + k), k)
  | none => if s.mac c p 0xA = 1 then some (s.mac c p 0xB, 15) else none

/-! ### Wake patterns (12 R316) -/

/-- CRC-16 of a byte, from the most significant bit, polynomial 0x1021. -/
def crc16Bits : Nat → BitVec 16 → BitVec 16
  | 0, c => c
  | n + 1, c => crc16Bits n (if c.msb then (c <<< 1) ^^^ 0x1021 else c <<< 1)

def crc16 (l : List Byte) : BitVec 16 := l.foldl (fun c b => crc16Bits 8 (c ^^^ BitVec.ofNat 16 (b.toNat * 256))) 0xFFFF

/-- Pattern n matches the bytes of a frame without its FCS. -/
def State.patMatch (s : State) (c p n : Nat) (fr : List Byte) : Bool :=
  let body := fr.take (fr.length - 4)
  let m (i : Nat) : Bool := bit (s.cfg c p (0x80 + 8 * n + i / 32)) (i % 32)
  let sel := (List.range 128).filter m
  sel.all (· < body.length) && (crc16 (sel.map fun i => nth 0 body i)).toNat == s.cfg c p (0x84 + 8 * n)

/-- Enabled patterns that match a frame. -/
def State.patHits (s : State) (c p : Nat) (fr : List Byte) : List Nat :=
  (List.range (if c = 0x40 then 8 else 4)).filter fun n => bit (s.cfg c p 0x14) n && s.patMatch c p n fr

/-! ### Delivery (12 R305, R315) -/

/-- FRAC of a time: a fraction of a tick cut to 1/8 cy, of which 163,840 make a tick (03 R52, log 91); while CK_E is stopped, XO cycles since the
AON tick × 2^23 (12 R314). -/
def State.fracOf (s : State) (frac : BitVec 32) : Nat :=
  if s.time.ckeOff then frac.toNat / 2 ^ 23 * 2 ^ 23 else frac.toNat * 163840 / 2 ^ 32 * 2 ^ 32 / 163840

/-- A timestamp record: TICK, and the position from slot 0 at which the event came (03 R52). -/
def State.tsRecord (s : State) (frac : BitVec 32) (valid : Bool) (speed : Nat) : List Byte :=
  leBytes 8 s.time.tick.toNat ++ leBytes 4 (s.fracOf frac) ++ leBytes 1 (b2n valid + 2 * b2n s.time.ckeOff) ++ leBytes 1 speed ++ leBytes 2 0

/-- The first buffer of a function, and the others. -/
def takeBuf (f : Nat) : List RxBuf → Option (RxBuf × List RxBuf)
  | [] => none
  | b :: r => if b.fn = f then some (b, r) else (takeBuf f r).map fun x => (x.1, b :: x.2)

/-- Base of a port's region in its BUF_BANK: the transmit buffer, then the receive buffer, 64 KiB each (12 R295, 13 R324). -/
def State.macBase (s : State) (c p : Nat) : Nat := bankBase (s.cfg c p (if c = 0x40 then 0x13 else 0xD)) + p * 0x20000

/-- MASTER code of a port (12 R295, 01 bus masters). -/
def macMaster (c p : Nat) : Nat := (if c = 0x40 then 7 else 9) + p

/-- The MAC stores bytes at offset `o` of the 64 KiB buffer at `a` through port B, going on at its start past its end: whether the bank takes
them (10 R250, log 100). -/
def State.macStore (s : State) (c p a o : Nat) (bs : List Byte) : State × Bool :=
  match s.refusal (macMaster c p) a true with
  | some k => (s.capture (macMaster c p) 0 k a true, false)
  | none => (((s.vatStores (a + o) (bs.take (65536 - o)) []).1.vatStores a (bs.drop (65536 - o)) []).1, true)

/-- The MAC reads `n` bytes at offset `o` of the buffer at `a`, and whether a word of them could not be corrected; none where the bank refuses
(10 R250, R254). -/
def State.macLoad (s : State) (c p a o n : Nat) : State × Option (List Byte × Bool) :=
  match s.refusal (macMaster c p) a false with
  | some k => (s.capture (macMaster c p) 0 k a false, none)
  | none =>
    let m := min n (65536 - o)
    let t := s.vatTouches (vatWords (a + o) m)
    let u := t.1.vatTouches (vatWords a (n - m))
    (u.1, some (s.vatBytes (a + o) m ++ s.vatBytes a (n - m), t.2 || u.2))

/-- The receive side of a port: the frames in its buffer, and where the next one goes. -/
def State.rxHeld (s : State) (c p : Nat) : List RxHeld := if c = 0x40 then (s.net0 p).rxHeld else (s.herd0 p).rxHeld
def State.rxAt (s : State) (c p : Nat) : Nat := if c = 0x40 then (s.net0 p).rxAt else (s.herd0 p).rxAt
def State.putRxHeld (s : State) (c p : Nat) (v : List RxHeld) (o : Nat) : State :=
  if c = 0x40 then s.putNet p { s.net0 p with rxHeld := v, rxAt := o } else s.putHerd p { s.herd0 p with rxHeld := v, rxAt := o }

/-- Fill of a receive buffer: the bytes held and not yet delivered (12 R312). -/
def rxFillOf (l : List RxHeld) : Nat := sumOf (·.len) l

/-- A frame is complete in the receive buffer of a port, for function f: dropped where every buffer that f has posted is spoken for (12 R305). -/
def State.holdFrameRx (s : State) (c p f k : Nat) (fr : List Byte) (j : Judge) (frac : BitVec 32) : State :=
  let held := s.rxHeld c p
  if ((s.rxBufs c p).filter fun b => b.fn == f).length ≤ (held.filter fun h => h.fn == f).length then s.macBump c p .nobuf
  else
    let fr := fr.take 9216
    let o := s.rxAt c p
    let r := s.macStore c p (s.macBase c p + 0x10000) o fr
    if !r.2 then r.1
    else
      let s := r.1
      let stamp := if c = 0x40 && s.cfg 0x40 p 0x12 = 1 then s.tsRecord frac true (s.net0 p).speed else []
      let h : RxHeld := { fn := f, at_ := o, len := fr.length, filt := k, flags := j.bits, bad := s.mac c p 9 == 1, stamp := stamp }
      s.putRxHeld c p (held ++ [h]) ((o + fr.length) % 65536)

/-- A held frame, as read from the receive buffer, goes into the oldest buffer of its function: bytes, record, then completion; a word that could
not be corrected sets FCS_ERR (12 R305, R315, R319). -/
def State.rxHandOver (s : State) (c p : Nat) (h : RxHeld) (fr : List Byte) (bad : Bool) : State :=
  match takeBuf h.fn (s.rxBufs c p) with
  | none => s.macBump c p .nobuf
  | some (b, rest) =>
    let s := s.putRxBufs c p rest
    let flags := if bad && h.flags < 0x80000 then h.flags + 0x80000 else h.flags
    let stamp := !h.stamp.isEmpty && b.ts != 0
    let res := h.len + flags + 0x100000 * b2n stamp + 0x1000000 * h.filt
    match s.dmaWrite h.fn b.addr.toNat fr with
    | (s1, some e) => s1.finish b.ring b.id (access e)
    | (s1, none) =>
      let s1 := if flags = 0 then s1.macBump c p .rxOk else s1
      if stamp then s1.finishWrite b.ring b.id b.ts.toNat h.stamp (ok res) else s1.finish b.ring b.id (ok res)

/-- Deliver a held frame; where a word of it cannot be corrected it is lost unless the port passes bad frames (12 R305, R319). -/
def State.deliverHeld (s : State) (c p : Nat) (h : RxHeld) : State :=
  let r := s.macLoad c p (s.macBase c p + 0x10000) h.at_ h.len
  let x := r.2.getD ([], false)
  let s := if x.2 then r.1.macBump c p .rxBufErr else r.1
  if r.2.isNone || (x.2 && !h.bad) then s else s.rxHandOver c p h x.1 x.2

/-- Everything a receive buffer holds is delivered, in order. -/
def State.deliverAll (s : State) (c p : Nat) : State :=
  match s.rxHeld c p with
  | [] => s
  | l => l.foldl (fun s h => s.deliverHeld c p h) (s.putRxHeld c p [] (s.rxAt c p))

/-- Judgement and filters of a frame that is not consumed by the MAC: where it goes, if anywhere. -/
def State.sieve (s : State) (c p : Nat) (fr : List Byte) (j : Judge) : State × Option (Nat × Nat) :=
  if j.tiny || (!j.clean && s.mac c p 9 = 0) then (s, none)
  else
    match s.filterOf c p (destOf fr) with
    | none => (s.macBump c p .filtered, none)
    | some x => (s, some x)

/-! ### Transmit queues (12 R298, R308) -/

/-- Append to a transmit queue. -/
def State.enqueue (s : State) (c p q : Nat) (e : TxEnt) : State :=
  let t := s.tx c p
  s.putTx c p { t with queues := tset [] t.queues q (tget [] t.queues q ++ [e]) }

/-- The head of the highest non-empty queue below `n`, with the queue's number. -/
def TxSide.head (t : TxSide) (n : Nat) : Option (Nat × TxEnt) :=
  (List.range n).reverse.findSome? fun q => match tget [] t.queues q with
    | [] => none
    | e :: _ => some (q, e)

/-- The side without the head of queue q. -/
def TxSide.drop (t : TxSide) (q : Nat) : TxSide := { t with queues := tset [] t.queues q ((tget [] t.queues q).drop 1) }

/-- Put a frame back at the head of queue q. -/
def TxSide.back (t : TxSide) (q : Nat) (e : TxEnt) : TxSide := { t with queues := tset [] t.queues q (e :: tget [] t.queues q) }

/-- The frame of a request as given, padded to 60 bytes where PAD asks for it (12 R307); none when the read fails. -/
def State.fetchFrame (s : State) (e : TxEnt) : State × Except Nat (List Byte) :=
  match (s.ring e.ring).reqs.find? (fun q => q.id = e.id) with
  | none => (s, .error 5)
  | some q =>
    match s.dmaRead e.fn q.desc.addrN q.desc.len16 with
    | (s1, .error r) => (s1, .error r)
    | (s1, .ok b) => (s1, .ok (b ++ List.replicate (60 - b.length) 0))

/-- A frame of `b` starts: its bytes lie at the start of the transmit buffer, and it is on the line from queue q; where the bank refuses them its
request ends as by a failed read (log 100). -/
def State.startFrame (s : State) (c p q : Nat) (e : TxEnt) (b : List Byte) : State :=
  let r := s.macStore c p (s.macBase c p) 0 b
  let s := r.1
  if r.2 then s.putTx c p { s.tx c p with cur := some (q, { e with len := b.length, started := true }) }
  else if e.own || e.rc.isSome then s
  else s.finish e.ring e.id (access 5)

/-- A frame on the line ends with a transmit error towards the PHY and is not tried again: ACCESS, DMA (12 R319). -/
def State.endBroken (s : State) (c p : Nat) (e : TxEnt) : State :=
  let s := (s.putTx c p { s.tx c p with cur := none, colls := 0 }).boundary c p
  if e.own || e.rc.isSome then s else s.finish e.ring e.id (access 5)

/-- The frame on the line, as the MAC reads it from the transmit buffer, has gone: with its FCS it is on the wire. A word that cannot be corrected
ends it as a failed read does; none where there is no frame, or it broke (12 R309, R319). -/
def State.lineEnd (s : State) (c p : Nat) : State × Option (TxEnt × List Byte) :=
  match (s.tx c p).cur with
  | none => (s, none)
  | some (_, e) =>
    let r := s.macLoad c p (s.macBase c p) 0 e.len
    let s := r.1
    let b := (r.2.getD ([], false)).1
    if r.2.isNone then (s.endBroken c p e, none)
    else if (r.2.getD ([], false)).2 then ((s.bump c p (if c = 0x40 then 17 else 14)).endBroken c p e, none)
    else
      let fr := b ++ fcsOf b
      ((s.putTx c p { s.tx c p with cur := none, colls := 0, wire := fr :: (s.tx c p).wire }).boundary c p, some (e, fr))

/-- A request's frame ends unsent: OK with RESULT[15:0] = 0, and a record without VALID (12 R302, R315). -/
def State.endUnsent (s : State) (c p : Nat) (e : TxEnt) : State :=
  if e.own then s
  else match e.rc with
  | some (_, seq) =>
    if seq = 0 then
      (s.putHerd p { s.herd0 p with rcTx := (s.herd0 p).rcTx.filter fun m => m.ring != e.ring || m.id != e.id }).finish e.ring e.id (ok 0)
    else s
  | none => match e.ts with
    | some a => s.finishWrite e.ring e.id a.toNat (s.tsRecord 0 false (if c = 0x40 then (s.net0 p).speed else 0)) (ok 0)
    | none => s.finish e.ring e.id (ok 0)

/-- A collision of the frame on the line (12 R302). -/
def State.collide (s : State) (c p : Nat) (late : Bool) : State :=
  let t := s.tx c p
  match t.cur with
  | none => s
  | some (_, e) =>
    let n := t.colls + 1
    let s := if n = 1 then s.macBump c p .coll else s
    if late then ((s.putTx c p { t with cur := none, colls := 0 }).macBump c p .late).endUnsent c p e
    else if 16 ≤ n then ((s.putTx c p { t with cur := none, colls := 0 }).macBump c p .excess).endUnsent c p e
    else
      let x := s.draw
      x.1.putTx c p { ({ t with cur := none } : TxSide).back 8 e with colls := n, backoff := some (x.2.toNat % 2 ^ min n 10) }

/-- Every queued, started and posted request of a port ends with an outcome; `posted` says whether its buffers do too. -/
def State.dropTraffic (s : State) (c p : Nat) (o : Outc) (posted : Bool) : State :=
  let t := s.tx c p
  let es := (match t.cur with | some x => [x.2] | none => []) ++ (List.range 9).reverse.flatMap fun q => tget [] t.queues q
  let s := (s.putTx c p { wire := t.wire }).boundary c p
  let s := es.foldl (fun s e => if e.own || e.rc.isSome then s else s.finish e.ring e.id o) s
  if posted then (s.rxBufs c p).foldl (fun s b => s.finish b.ring b.id o) ((s.putRxBufs c p []).putRxHeld c p [] (s.rxAt c p)) else s

/-- An FLR of function f discards its frames not yet started and withdraws its buffers (12 R298). -/
def State.macFlr (s : State) (c p f : Nat) : State :=
  let t := s.tx c p
  let s := s.putTx c p { t with queues := (t.queues.map fun q => (q.1, q.2.filter fun e => e.fn != f || e.own || e.started)).filter fun q => !q.2.isEmpty }
  (s.putRxBufs c p ((s.rxBufs c p).filter fun b => b.fn != f)).putRxHeld c p ((s.rxHeld c p).filter fun h => h.fn != f) (s.rxAt c p)

/-- Class and number of the port that COLLISION, BACKOFF_EXPIRY and NET_TX_DONE name: 0, 1 are Net, 2, 3 Herdline (log 31). -/
def linePort (n : Nat) : Nat × Nat := if n < 2 then (0x40, n) else (0x41, n - 2)

end Sys2Proof.Machine
end

