-- ==== Sys2Proof/Machine/Net.lean ====
section
/-! DEFINITION. Machine/Net.lean: the two Net ports: link manager and MDIO (12 R299 to R301, R311, R323), reception with PAUSE and wake
patterns (R303 to R306, R310, R312, R313, R316, R317), and transmission (R307 to R309). -/

namespace Sys2Proof.Machine

/-! ### The link -/

/-- The link manager reaches a port: enabled, with its MAC and the low-speed peripherals on. -/
def State.netManaged (s : State) (p : Nat) : Bool := p < 2 && s.cfg 0x40 p 1 == 1 && s.domOn (53 + p) && s.domOn 63

/-- The condition of a port goes down: frames dispatched and not completed end UNIT_DOWN (12 R297). -/
def State.netCut (s : State) (p : Nat) : State := s.dropTraffic 0x40 p (unitDown 0x40 p) false

/-- The link goes down, and the condition with it; the pause timer clears (12 R297, R310). -/
def State.netDown (s : State) (p : Nat) : State :=
  (s.putNet p { s.net0 p with link := false, speed := 0, pauseLeft := 0, pauseOut := false, pauseWait := [] }).netCut p

/-- Register 4 of the advertisement `adv` (12 R300): selector 802.3, abilities in bits 5 to 8, pause in bits 10 and 11. -/
def reg4Of (adv : Nat) (rx tx : Bool) : Nat :=
  1 + 0x20 * (adv % 16) + 0x400 * b2n rx + 0x800 * b2n (rx != tx)

/-- Register 0 for a forced mode. -/
def reg0Of (adv : Nat) : Nat :=
  0x2000 * b2n (bit adv 2 || bit adv 3) + 0x40 * b2n (bit adv 4) + 0x100 * b2n (bit adv 1 || bit adv 3 || bit adv 4)

/-- The register writes of a start or restart (12 R299): register number in [31:16], value in [15:0]. -/
def State.mdioWrites (s : State) (p adv : Nat) : List (BitVec 32) :=
  [BitVec.ofNat 32 (4 * 65536 + reg4Of adv (s.cfg 0x40 p 0xC == 1) (s.cfg 0x40 p 0xD == 1)),
   BitVec.ofNat 32 (9 * 65536 + 0x200 * b2n (bit adv 4)),
   BitVec.ofNat 32 (if s.cfg 0x40 p 4 = 1 then 0x1200 else reg0Of adv)]

/-- The link manager starts again with an advertisement. -/
def State.linkRestart (s : State) (p adv : Nat) : State :=
  let s := s.netDown p
  s.putNet p { s.net0 p with adv := BitVec.ofNat 5 adv, triedAt := BitVec.ofNat 64 (blockOf s.time.tick), upAt := none, pauseRx := false,
                             pauseTx := false, mdioPlan := s.mdioWrites p adv }

/-- Start or restart of a port (12 R311, R320). -/
def State.netStart (s : State) (p : Nat) : State :=
  let s := s.linkRestart p (s.cfg 0x40 p 5)
  s.putNet p { s.net0 p with thresh := s.cfg 0x40 p 0x11, fails := 0, phyAbsent := false }

/-- A port is disabled (12 R318): its traffic ends UNIT_DOWN. -/
def State.netStop (s : State) (p : Nat) : State :=
  let s := s.dropTraffic 0x40 p (unitDown 0x40 p) true
  s.putNet p { wire := (s.net0 p).wire }

/-- Pause directions from the advertised bits (12 R300): IEEE 802.3 Table 28B-3 (log 4). -/
def pauseResolve (rx tx pp pa : Bool) : Bool × Bool :=
  let lp := rx
  let la := rx != tx
  let r := if lp && pp then (true, true) else if !lp && la && pp && pa then (false, true) else if lp && la && !pp && pa then (true, false)
    else (false, false)
  (r.1 && rx, r.2 && tx)

/-- The partner's abilities in SPEED_ADV order, from registers 5 and 10 (log 4). -/
def partnerAdv (reg5 reg10 : BitVec 16) : Nat := fld reg5.toNat 5 4 + 16 * fld reg10.toNat 11 1

/-- The mode that both sides advertise, as SPEED_NOW; none where no mode is common. -/
def commonMode (a b : Nat) : Option Nat := ((List.range 5).reverse.find? fun k => bit a k && bit b k).map (· + 1)

/-- A SPEED_NOW code is full duplex. -/
def fullDuplex (speed : Nat) : Bool := speed == 2 || 4 ≤ speed

/-- The modes of the highest rate of an advertisement. -/
def topModes (adv : Nat) : List Nat := if bit adv 4 then [5] else if adv / 4 % 4 != 0 then [3, 4] else [1, 2]

/-- The advertisement without its highest rate. -/
def lowerAdv (adv : Nat) : Nat := if bit adv 4 then adv % 16 else if adv / 4 % 4 != 0 then adv % 4 else 0

/-- The link comes up in a mode (12 R299, R300). -/
def State.linkUpAs (s : State) (p speed : Nat) (pause : Bool × Bool) : State :=
  let full := fullDuplex speed
  s.putNet p { s.net0 p with link := true, speed := speed, pauseRx := full && pause.1, pauseTx := full && pause.2,
                             upAt := some (BitVec.ofNat 64 (blockOf s.time.tick)) }

/-- The link is seen down: an attempt at the highest speed that did not hold 2,000 blocks has failed (12 R301). -/
def State.linkFell (s : State) (p : Nat) : State :=
  let r := s.net0 p
  let blk := blockOf s.time.tick
  let failed := (topModes r.adv.toNat).contains r.speed && r.upAt.any fun u => blk < u.toNat + 2000
  let s := s.netDown p
  s.putNet p { s.net0 p with upAt := none, triedAt := BitVec.ofNat 64 blk, fails := if failed then r.fails + 1 else 0 }

/-- The pause directions at this moment: forced without auto-negotiation. -/
def State.pauseNow (s : State) (p : Nat) (reg5 : BitVec 16) : Bool × Bool :=
  let rx := s.cfg 0x40 p 0xC == 1
  let tx := s.cfg 0x40 p 0xD == 1
  if s.cfg 0x40 p 4 = 1 then pauseResolve rx tx (bit reg5.toNat 10) (bit reg5.toNat 11) else (rx, tx)

/-- LINK_POLL (12 R299 to R301): the reads of one block boundary. -/
def execLinkPoll (port : Nat) (reg1 reg5 reg10 : BitVec 16) (s : State) : Host.Outcome State Fault Refusal :=
  let r := s.net0 port
  let aneg := s.cfg 0x40 port 4 == 1
  let done := !aneg || bit reg1.toNat 5
  let up := done && bit reg1.toNat 2
  let blk := blockOf s.time.tick
  let rgmii := s.cfg 0x40 port 2 == 0
  let mode := if aneg then commonMode r.adv.toNat (partnerAdv reg5 reg10) else commonMode r.adv.toNat r.adv.toNat
  .next (if !s.netManaged port then s
    else if reg1 = 0xFFFF then
      (let s := if rgmii && r.link then s.linkFell port else s
       s.putNet port { s.net0 port with phyAbsent := true })
    else
      let s := s.putNet port { r with phyAbsent := false }
      if rgmii && up && !r.link then
        (match mode with
         | some m => s.linkUpAs port m (s.pauseNow port reg5)
         | none => s)
      else if rgmii && !up && r.link then s.linkFell port
      else
        let s := if !rgmii && done then
            (let x := s.pauseNow port reg5
             let full := fullDuplex r.speed
             s.putNet port { s.net0 port with pauseRx := full && x.1, pauseTx := full && x.2 })
          else s
        if r.link then
          (if r.upAt.any (fun u => u.toNat + 2000 ≤ blk) then s.putNet port { s.net0 port with fails := 0 } else s)
        else if aneg && done && r.triedAt.toNat + 2000 ≤ blk && mode.any (fun m => (topModes r.adv.toNat).contains m) then
          s.putNet port { s.net0 port with fails := r.fails + 1, triedAt := BitVec.ofNat 64 blk }
        else s)

/-- SGMII_STATUS (12 R299): the in-band status word gives link, speed and duplex. -/
def execSgmiiStatus (port : Nat) (up : Bool) (speed : BitVec 2) (full : Bool) (s : State) : Host.Outcome State Fault Refusal :=
  let r := s.net0 port
  let mode := if speed = 2 then 5 else if speed = 1 then (if full then 4 else 3) else if full then 2 else 1
  .next (if !(s.netManaged port && s.cfg 0x40 port 2 = 1) || speed = 3 then s
    else if !up then (if r.link then s.linkFell port else s)
    else if r.link && r.speed = mode then s
    else s.linkUpAs port mode (if s.cfg 0x40 port 4 = 1 then (r.pauseRx, r.pauseTx) else s.pauseNow port 0))

/-- NET_DOWNSHIFT (12 R301): after n failed attempts the highest speed leaves the advertisement, unless it is the last. -/
def execNetDownshift (port : Nat) (s : State) : Host.Outcome State Fault Refusal :=
  let r := s.net0 port
  let n := s.cfg 0x40 port 6
  .next (if s.netManaged port && 1 ≤ n && n ≤ r.fails && lowerAdv r.adv.toNat != 0 then
      (let s := s.linkRestart port (lowerAdv r.adv.toNat)
       ((s.putNet port { s.net0 port with fails := 0 }).bump 0x40 port 19).post0 0x50 (0x4000 + port))
    else s)

/-! ### MDIO (12 R323) -/

/-- The OP of an MDIO command runs a transaction. -/
def mdioRuns (cmd : Nat) : Bool := bit cmd 12 || fld cmd 10 2 == 1 || fld cmd 10 2 == 2

/-- The OP reads. -/
def mdioReads (cmd : Nat) : Bool := if bit cmd 12 then 2 ≤ fld cmd 10 2 else fld cmd 10 2 == 2

/-- A write of NET_MDIO_CMD. -/
def State.writeMdioCmd (s : State) (v : BitVec 32) : State :=
  let r := s.net.mdio
  if r.busy || !s.domOn 63 then s
  else s.setNet { s.net with mdio := { r with cmd := BitVec.ofNat 32 (v.toNat % 8192), busy := bit v.toNat 31 && mdioRuns v.toNat } }

/-- A write of NET_MDIO_DATA. -/
def State.writeMdioData (s : State) (v : BitVec 32) : State :=
  if s.net.mdio.busy || !s.domOn 63 then s else s.setNet { s.net with mdio := { s.net.mdio with data := BitVec.ofNat 16 v.toNat } }

/-- MDIO_GO (12 R323). -/
def execMdioGo (cmd : BitVec 32) (s : State) : Host.Outcome State Fault Refusal :=
  .next (s.writeMdioCmd (cmd ||| 0x80000000))

/-- MDIO_DONE (12 R323, 19 R453): the transaction ends; BUSY falls and raises source 4. -/
def execMdioDone (ack : Bool) (rdata : BitVec 16) (s : State) : Host.Outcome State Fault Refusal :=
  let r := s.net.mdio
  .next (if !r.busy then s
    else
      let rd := mdioReads r.cmd.toNat
      (s.setNet { s.net with mdio := { r with busy := false, data := if rd then (if ack then rdata else 0xFFFF) else r.data,
                                              noAck := if rd then !ack else r.noAck } }).plicSet 4)

/-! ### PAUSE -/

/-- The MAC sends a PAUSE frame, at once or at the next frame boundary (12 R312). -/
def State.sendPause (s : State) (p quanta : Nat) : State :=
  let b := beBytes 6 0x0180C2000001 ++ s.filterAddr 0x40 p 0 ++ beBytes 2 0x8808 ++ beBytes 2 1 ++ beBytes 2 quanta ++ List.replicate 42 0
  let r := s.net0 p
  let s := s.putNet p { r with pauseWait := r.pauseWait ++ [b ++ fcsOf b], pauseOut := quanta != 0 }
  if r.cur.isSome then s else s.boundary 0x40 p

/-- Fill of the receive buffer of a Net port. -/
def NetPort.rxFill (r : NetPort) : Nat := rxFillOf r.rxHeld

/-- `n` bytes are to come into the receive buffer: PAUSE where its fill reaches XOFF. -/
def State.rxFills (s : State) (p n : Nat) : State :=
  let r := s.net0 p
  if r.pauseTx && r.rxFill < s.cfg 0x40 p 0xF && s.cfg 0x40 p 0xF ≤ r.rxFill + n then s.sendPause p (s.cfg 0x40 p 0xE) else s

/-- The fill is below XON after a non-zero PAUSE: PAUSE 0. -/
def State.rxDrains (s : State) (p : Nat) : State :=
  let r := s.net0 p
  if r.pauseTx && r.pauseOut && r.rxFill < s.cfg 0x40 p 0x10 then s.sendPause p 0 else s

/-- What the receive buffers of the ports hold is delivered at the latest by the next tick (log 100). -/
def State.deliverPorts (s : State) : State :=
  let s := [0, 1].foldl (fun s p => (s.deliverAll 0x40 p).rxDrains p) s
  [0, 1].foldl (fun s p => s.deliverAll 0x41 p) s

/-- A PAUSE frame (12 R310): good, from 64 bytes to L_rx, opcode 1, for the PAUSE address or an enabled filter. -/
def State.isPause (s : State) (p : Nat) (fr : List Byte) (j : Judge) : Bool :=
  j.clean && beNat (sub fr 14 2) == 1 && (beNat (destOf fr) == 0x0180C2000001 || (s.filterHit 0x40 p (destOf fr)).isSome)

/-- Consume a PAUSE frame. -/
def State.takePause (s : State) (p : Nat) (fr : List Byte) : State :=
  let s := s.bump 0x40 p 8
  let r := s.net0 p
  if r.pauseRx && fullDuplex r.speed then s.putNet p { r with pauseLeft := 512 * beNat (sub fr 16 2) } else s

/-- PAUSE_REFRESH (12 R312): half the last PAUSE time has elapsed and the fill is still at XON or above. -/
def execPauseRefresh (port : Nat) (s : State) : Host.Outcome State Fault Refusal :=
  let r := s.net0 port
  .next (if s.portUp 0x40 port && r.pauseTx && r.pauseOut && s.cfg 0x40 port 0x10 ≤ r.rxFill then s.sendPause port (s.cfg 0x40 port 0xE) else s)

/-- PAUSE_EXPIRY (12 R310). -/
def execPauseExpiry (port : Nat) (s : State) : Host.Outcome State Fault Refusal :=
  .next (if port < 2 then s.putNet port { s.net0 port with pauseLeft := 0 } else s)

/-! ### Reception -/

/-- Enabled wake patterns that a delivered good frame matches are counted; a listening port asks for a wake (12 R316, R317). -/
def State.netPatterns (s : State) (p : Nat) (fr : List Byte) (j : Judge) : State :=
  if !j.clean then s
  else
    let hits := s.patHits 0x40 p fr
    let s := hits.foldl (fun s _ => s.macBump 0x40 p .wake) s
    match hits with
    | [] => s
    | n :: _ =>
      let r := s.net0 p
      if r.listening then (s.putNet p { r with wake := if r.wake.isSome then r.wake else some n }).wake 3 else s

/-- NET_RX_FRAME: a frame has arrived whole, its first bit stamped by this tick and `frac` (log 100). -/
def execNetRxFrame (port : Nat) (frame : List Byte) (rx : RxCheck) (frac : BitVec 32) (s : State) : Host.Outcome State Fault Refusal :=
  .next (if !s.portUp 0x40 port then s
    else
      let j := s.judge 0x40 port frame rx.fcsOk
      let s := s.countJudge 0x40 port j
      if typeOf frame = 0x8808 then
        (if s.isPause port frame j then s.takePause port frame
         else if beNat (sub frame 14 2) != 1 then s.macBump 0x40 port .ctrlUnk else s)
      else
        match s.sieve 0x40 port frame j with
        | (s, none) => s
        | (s, some (f, k)) =>
          let s := s.netPatterns port frame j
          let n := min frame.length 9216
          if (s.net0 port).listening then s
          else if 65536 < (s.net0 port).rxFill + n then s.macBump 0x40 port .overflow
          else
            let s := (s.rxFills port n).holdFrameRx 0x40 port f k frame j frac
            (if rx.soon then s.deliverAll 0x40 port else s).rxDrains port)

/-- NET_RX_POST (12 R305): the buffer is posted. -/
def execNetRxPost (ring : Nat) (s : State) : Host.Outcome State Fault Refusal :=
  .next (match (s.ring ring).oldest 0x21 with
    | none => s
    | some q =>
      let p := q.desc.port
      let b : RxBuf := { fn := ring / 8, ring := ring, id := q.id, addr := q.desc.addr, len := q.desc.len16, ts := q.desc.arg2 }
      (s.take ring q.id).putRxBufs 0x40 p ((s.rxBufs 0x40 p) ++ [b]))

/-! ### Transmission -/

/-- NET_TX (12 R298, R307, R308): step 8 of 04 R87, then the frame's queue. -/
def execNetTx (ring : Nat) (s : State) : Host.Outcome State Fault Refusal :=
  .next (match (s.ring ring).oldest 0x20 with
    | none => s
    | some q =>
      let p := q.desc.port
      if s.cfg 0x40 p (0x20 + q.desc.queue) != ring / 8 then s.finish ring q.id (access 2)
      else (s.take ring q.id).enqueue 0x40 p q.desc.queue
        { fn := ring / 8, ring := ring, id := q.id, ts := if q.desc.ts then some q.desc.arg2 else none })

/-- NET_TX_START (12 R308): the line is free and no PAUSE holds it; the frame's data are in the buffer, or their read has failed. -/
def execNetTxStart (port : Nat) (ok : Bool) (s : State) : Host.Outcome State Fault Refusal :=
  let r := s.net0 port
  let t := s.tx 0x40 port
  .next (if !s.portUp 0x40 port || r.listening || r.cur.isSome || r.backoff.isSome || 0 < r.pauseLeft then s
    else
      match t.head 9 with
      | none => s
      | some (q, e) =>
        let s := s.putTx 0x40 port (t.drop q)
        if q = 8 then s.putTx 0x40 port { s.tx 0x40 port with cur := some (q, e) }
        else if !ok then s.finish e.ring e.id (access 5)
        else
          match s.fetchFrame e with
          | (s1, .error a) => s1.finish e.ring e.id (access a)
          | (s1, .ok b) => s1.startFrame 0x40 port q e b)

/-- The frame on the line of a Net port has been sent. -/
def State.netSent (s : State) (p : Nat) (frac : BitVec 32) : State :=
  match s.lineEnd 0x40 p with
  | (s, none) => s
  | (s, some (e, fr)) =>
    let s := s.macBump 0x40 p .txOk
    match e.ts with
    | some a => s.finishWrite e.ring e.id a.toNat (s.tsRecord frac true (s.net0 p).speed) (Machine.ok fr.length)
    | none => s.finish e.ring e.id (Machine.ok fr.length)

/-- TX_UNDERRUN (12 R309): the frame goes back to the head of its queue under a threshold 64 bytes higher. -/
def execTxUnderrun (port : Nat) (s : State) : Host.Outcome State Fault Refusal :=
  let r := s.net0 port
  .next (match r.cur with
    | none => s
    | some (q, e) =>
      if r.thresh = 0 then s
      else
        let n := r.thresh + 64
        let s := s.putTx 0x40 port (({ s.tx 0x40 port with cur := none } : TxSide).back q e)
        ((s.putNet port { s.net0 port with thresh := if 9152 < n then 0 else n }).bump 0x40 port 13).boundary 0x40 port)

/-- Half duplex: Herdline always, Net by its speed. -/
def State.halfDuplex (s : State) (c p : Nat) : Bool := c == 0x41 || (s.net0 p).speed == 1 || (s.net0 p).speed == 3

/-- COLLISION (12 R302). -/
def execCollision (port : Nat) (late : Bool) (s : State) : Host.Outcome State Fault Refusal :=
  let x := linePort port
  .next (if port < 4 && s.halfDuplex x.1 x.2 then s.collide x.1 x.2 late else s)

/-- BACKOFF_EXPIRY (12 R302): the next attempt may be made. -/
def execBackoffExpiry (port : Nat) (s : State) : Host.Outcome State Fault Refusal :=
  let x := linePort port
  .next (if port < 4 then s.putTx x.1 x.2 { s.tx x.1 x.2 with backoff := none } else s)

/-- NET_WAKE (12 R317): the ring engine runs again. -/
def execNetWake (port : Nat) (s : State) : Host.Outcome State Fault Refusal :=
  let r := s.net0 port
  .next (match r.wake with
    | none => s
    | some n => if s.engineOn then (s.putNet port { r with wake := none }).post0 0x51 (0x4000 + 16 * n + port) else s)

end Sys2Proof.Machine
end

