-- ==== Sys2Proof/Machine/Herd.lean ====
section
/-! DEFINITION. Machine/Herd.lean: the Herdline ports (13): medium and HELLO (R328, R330), Cowbell (R331 to R336), the reliable channel
(R337 to R340), stream packets (R342), and the order of transmission (R327). -/

namespace Sys2Proof.Machine

/-! ### Records -/

def State.cow (s : State) (p : Nat) : CowSt := (s.herd0 p).cow
def State.putCow (s : State) (p : Nat) (v : CowSt) : State := s.putHerd p { s.herd0 p with cow := v }
def State.putPeer (s : State) (p k : Nat) (v : Peer) : State := s.putHerd p { s.herd0 p with peers := tset {} (s.herd0 p).peers k v }
def State.putRcRx (s : State) (p k : Nat) (v : RcPeer) : State := s.putHerd p { s.herd0 p with rcRx := tset {} (s.herd0 p).rcRx k v }

/-- Live peers of a port: source address and entry. -/
def State.livePeers (s : State) (p : Nat) : List (Nat × Peer) := (s.herd0 p).peers.filter fun e => e.2.live

/-- A setting of class 0x41. -/
def State.hd (s : State) (p n : Nat) : Nat := s.cfg 0x41 p n

/-- Cowbell is enabled, and the port's role. -/
def State.cowOn (s : State) (p : Nat) : Bool := s.cfg 0x42 p 1 == 1
def State.cowFollower (s : State) (p : Nat) : Bool := s.cowOn p && s.cfg 0x42 p 2 == 0
def State.cowCoord (s : State) (p : Nat) : Bool := s.cowOn p && s.cfg 0x42 p 2 == 1

/-- Enabled streams of a port. -/
def State.portStreams (s : State) (p : Nat) : List Nat :=
  ((List.range 32).map (· + 0x20)).filter fun e => s.cfg 0x43 e 1 == 1 && s.cfg 0x43 e 2 == p

/-- A follower in SYNC or counting misses sleeps between windows, unless a stream is enabled on its port (13 R334). -/
def State.cowSleeps (s : State) (p : Nat) : Bool :=
  s.cowFollower p && 3 ≤ (s.cow p).st && (s.cow p).st ≤ 5 && (s.portStreams p).isEmpty

/-- The follower is asleep now. -/
def State.cowAsleep (s : State) (p : Nat) : Bool := s.cowSleeps p && !(s.cow p).awake

/-- The port hears frames. -/
def State.hears (s : State) (p : Nat) : Bool :=
  (s.portUp 0x41 p || (s.herd0 p).listening) && (!s.cowAsleep p || (s.cow p).rxOn)

/-! ### Frames of the device's own services -/

/-- A frame from its destination, EtherType and payload, padded to 60 bytes. -/
def State.ownFrame (s : State) (p : Nat) (da : List Byte) (ty : Nat) (pay : List Byte) : List Byte :=
  let b := da ++ s.filterAddr 0x41 p 0 ++ beBytes 2 ty ++ pay
  b ++ List.replicate (60 - b.length) 0

/-- The six bytes of an address key. -/
def addrBytes (k : Nat) : List Byte := beBytes 6 k

/-- Broadcast. -/
def broadcast : List Byte := List.replicate 6 0xFF

/-- An address names a group: bit 0 of its first byte. -/
def isGroup (da : List Byte) : Bool := (da.headD 0).toNat % 2 == 1

/-- NODE_ID as declared (13, HELLO frames). -/
def State.nodeDeclared (s : State) (p : Nat) : Nat := if (s.herd0 p).medium = 0 then 0xFF else s.hd p 3

/-- FLAGS: COORD and AWAKE. -/
def State.helloFlags (s : State) (p : Nat) : Nat := b2n (s.hd p 3 == 0 && s.hd p 2 != 0) + 2 * b2n (!s.cowSleeps p)

/-- The HELLO of a port. -/
def State.helloFrame (s : State) (p : Nat) : List Byte :=
  s.ownFrame p broadcast 0x88B6
    ([3, 1] ++ leBytes 1 (s.nodeDeclared p) ++ leBytes 1 (s.helloFlags p) ++ leBytes 4 0x7F ++ leBytes 1 (s.hd p 0x10) ++ List.replicate 7 0)

/-- HELLO_SEND: a HELLO is due by its period or by a change of FLAGS; the port sends it at its opportunity. -/
def execHelloSend (port : Nat) (s : State) : Host.Outcome State Fault Refusal :=
  let r := s.herd0 port
  .next (if s.portUp 0x41 port && r.started.isSome
      && (r.helloAt.toNat + 48 * s.hd port 0xE ≤ s.time.tick.toNat || r.lastFlags.toNat != s.helloFlags port) then
      s.putHerd port { r with helloDue := true }
    else s)

/-! ### Held frames (13 R335, R336) -/

/-- The held frames that a condition picks are released. -/
def State.releaseHeld (s : State) (p : Nat) (pick : HeldFrame → Bool) : State :=
  let r := s.herd0 p
  s.putHerd p { r with held := r.held.map fun h => if pick h then { h with rel := true } else h }

/-- A frame from a node has been received inside a window. -/
def State.heardNode (s : State) (p src : Nat) : State :=
  if s.cowCoord p && (s.cow p).awake then s.releaseHeld p fun h => !h.group && h.dst == src else s

/-- Sleeping followers as the coordinator sees them. -/
def State.sleepers (s : State) (p : Nat) : List Nat :=
  if s.cowCoord p && (s.cow p).active && !(s.cow p).awake then
    ((s.livePeers p).filter fun e => bit e.2.caps.toNat 1 && !e.2.awake).map (·.1)
  else []

/-- Frames held against a follower's quota. -/
def State.heldFor (s : State) (p dst : Nat) : Nat := ((s.herd0 p).held.filter fun h => h.group || h.dst == dst).length

/-- What becomes of a frame to `da`: none = not to be held, some true = held, some false = over a quota. -/
def State.holdCheck (s : State) (p : Nat) (da : List Byte) : Option Bool :=
  let sl := s.sleepers p
  let dst := beNat da
  if isGroup da then (if sl.isEmpty then none else some (sl.all fun k => s.heldFor p k < 4))
  else if sl.contains dst then some (decide (s.heldFor p dst < 4)) else none

/-- Hold a frame. -/
def State.holdFrame (s : State) (p q : Nat) (da : List Byte) (e : TxEnt) : State :=
  let r := s.herd0 p
  s.putHerd p { r with held := r.held ++ [{ dst := beNat da, group := isGroup da, ent := e, queue := q }] }

/-! ### Starting and stopping -/

/-- Cowbell of a port that starts, or whose ENABLE or ROLE changes (13 R346, R348). -/
def State.cowStart (s : State) (p : Nat) : State :=
  let s := s.releaseHeld p fun _ => true
  s.putCow p { st := if !s.cowOn p then 0 else if s.cfg 0x42 p 2 = 1 then 1 else 2, rxOn := true, awake := true }

/-- Medium of a port before it is settled (13 R330, R346). -/
def State.startMedium (s : State) (p : Nat) : Nat := if s.hd p 2 = 1 then (if s.hd p 3 = 0 then 2 else 1) else 0

/-- FORMAT_NOW of a stream for an AUTO result. -/
def State.fmtOf (s : State) (e auto_ : Nat) : Nat := if s.cfg 0x43 e 5 = 4 then auto_ else s.cfg 0x43 e 5

/-- Give the transmit streams of a port their format. -/
def State.setFormats (s : State) (p auto_ : Nat) : State :=
  ((s.portStreams p).filter (0x30 ≤ ·)).foldl (fun s e => s.putStream e { s.stream e with fmt := s.fmtOf e auto_ }) s

/-- A port starts (13 R346). -/
def State.herdStart (s : State) (p : Nat) : State :=
  let x := s.draw
  let r := x.1.herd0 p
  let md := s.startMedium p
  let v : HerdPort :=
    { started := some s.time.tick, medium := md, plcaOk := md == 2, helloDue := true, helloAt := s.time.tick, session := BitVec.ofNat 16 x.2.toNat,
      wire := r.wire, calCode := r.calCode, calAt := r.calAt, modes := [md, 0, 2, 1] }
  ((x.1.putHerd p v).cowStart p).setFormats p 2

/-- Every request of a port ends UNIT_DOWN (13 R345). -/
def State.herdDrop (s : State) (p : Nat) : State :=
  let o := unitDown 0x41 p
  let s := s.dropTraffic 0x41 p o true
  let r := s.herd0 p
  let s := s.putHerd p { r with held := [], rcTx := [], rcBufs := [] }
  let s := r.held.foldl (fun s h => if h.ent.rc.isSome then s else s.finish h.ent.ring h.ent.id o) s
  let s := r.rcTx.foldl (fun s m => s.finish m.ring m.id o) s
  r.rcBufs.foldl (fun s b => s.finish b.ring b.id o) s

/-- A port is disabled or shed. -/
def State.herdStop (s : State) (p : Nat) : State :=
  let s := s.herdDrop p
  s.putHerd p { wire := (s.herd0 p).wire, calCode := (s.herd0 p).calCode, calAt := (s.herd0 p).calAt }

/-- An FLR of function f (12 R298): its frames, messages and buffers on a Herdline port are gone without completion. -/
def State.herdFlr (s : State) (p f : Nat) : State :=
  let s := s.macFlr 0x41 p f
  let r := s.herd0 p
  s.putHerd p { r with held := r.held.filter (fun h => h.ent.fn != f), rcTx := r.rcTx.filter (fun m => m.ring / 8 != f),
                       rcBufs := r.rcBufs.filter fun b => b.fn != f }

/-! ### Best common mode (13 R330) -/

/-- The port is settled. -/
def State.settled (s : State) (p : Nat) : Bool :=
  (s.herd0 p).started.any fun t => t.toNat + 144 * s.hd p 0xE ≤ s.time.tick.toNat

/-- Medium resolved over the port and its live peers. -/
def State.resolveMedium (s : State) (p : Nat) : Nat :=
  let peers := (s.livePeers p).map (·.2)
  let coords := b2n (s.hd p 3 == 0) + (peers.filter (·.coord)).length
  if s.hd p 2 = 0 then 0
  else if s.hd p 2 = 1 || (peers.all (fun e => bit e.caps.toNat 0) && coords == 1) then (if s.hd p 3 = 0 then 2 else 1)
  else 0

/-- Cowbell resolved on a medium. -/
def State.resolveCow (s : State) (p medium : Nat) : Bool :=
  let peers := (s.livePeers p).map (·.2)
  s.cowOn p && medium != 0
    && (if medium = 2 then peers.all fun e => bit e.caps.toNat 1
        else peers.any (·.coord) && peers.all fun e => if e.coord then bit e.caps.toNat 2 else bit e.caps.toNat 1)

/-- Format that AUTO resolves to. -/
def State.resolveFmt (s : State) (p : Nat) : Nat :=
  let every (b : Nat) : Bool := (s.livePeers p).all fun e => bit e.2.caps.toNat b
  let w := b2n (every 5)
  if every 3 then w else if every 4 then 2 + w else 255

/-- Window towards a destination (13 R330, R338). -/
def State.rcWindow (s : State) (p dst : Nat) : Nat :=
  let e := tget {} (s.herd0 p).peers dst
  if e.live then min (s.hd p 0x10) e.window else s.hd p 0x10

/-- The results of a resolution: medium, Cowbell, AUTO format, version, and the window towards each peer. -/
def State.resolve (s : State) (p : Nat) : List Nat :=
  let md := s.resolveMedium p
  [md, b2n (s.resolveCow p md), s.resolveFmt p, (s.livePeers p).foldl (fun v e => min v e.2.ver.toNat) 1]
    ++ (s.livePeers p).flatMap fun e => [e.1, s.rcWindow p e.1]

/-- Cowbell becomes active or inactive. -/
def State.cowSwitch (s : State) (p : Nat) (on : Bool) : State :=
  let r := s.cow p
  if r.active == on then s
  else if on then
    (if s.cowCoord p then s.putCow p { r with active := true, st := 7, t0 := s.time.tick, n := 0, next := s.time.tick, interval := s.cfg 0x42 p 3, awake := false }
     else s.putCow p { r with active := true, st := if r.st = 1 then 2 else r.st })
  else
    (s.releaseHeld p fun _ => true).putCow p { r with active := false, st := if s.cowOn p then 1 else 0, rxOn := true, awake := true }

/-- HERD_MODE (13 R330): the resolution of a block boundary; a change takes effect and is posted. -/
def execHerdMode (port : Nat) (s : State) : Host.Outcome State Fault Refusal :=
  .next (if !(s.portUp 0x41 port && s.settled port && s.time.tick.toNat % 48 == 0) then s
    else
      let m := s.resolve port
      let r := s.herd0 port
      if m = r.modes then s
      else
        let md := nth 0 m 0
        let s := s.putHerd port { r with modes := m, medium := md, plcaOk := if md = r.medium then r.plcaOk else md == 2 }
        let s := s.cowSwitch port (nth 0 m 1 == 1)
        (s.setFormats port (nth 255 m 2)).post0 0x58 (0x4100 + port))

/-- PLCA_LOSS (13 R328): no PLCA beacon for 4,000 bit times; the follower transmits under CSMA/CD. -/
def execPlcaLoss (port : Nat) (s : State) : Host.Outcome State Fault Refusal :=
  let r := s.herd0 port
  .next (if s.portUp 0x41 port && r.medium = 1 && r.plcaOk then (s.putHerd port { r with plcaOk := false }).bump 0x41 port 15 else s)

/-- PLCA_BEACON (13 R328): a follower hears a PLCA beacon. -/
def execPlcaBeacon (port : Nat) (s : State) : Host.Outcome State Fault Refusal :=
  let r := s.herd0 port
  .next (if s.portUp 0x41 port && r.medium = 1 then s.putHerd port { r with plcaOk := true } else s)

/-! ### Receiving services -/

/-- A frame of a Herdline EtherType is accepted (13 R326). -/
def State.herdAccepts (s : State) (p : Nat) (fr : List Byte) (fcsOk : Bool) : Bool :=
  let da := destOf fr
  (s.judge 0x41 p fr fcsOk).clean
    && (da == s.filterAddr 0x41 p 0 || da == broadcast || (isGroup da && (s.filterHit 0x41 p da).isSome))

/-- Payload of a frame. -/
def payOf (fr : List Byte) : List Byte := (fr.drop 14).take (fr.length - 18)

/-- EtherType and first payload byte name a service. -/
def isService (fr : List Byte) (ty kind : Nat) : Bool := typeOf fr == ty && leAt (payOf fr) 0 1 == kind

/-- A HELLO from a peer (13 R330, R336). -/
def State.takeHello (s : State) (p src : Nat) (pay : List Byte) : State :=
  let r := s.herd0 p
  let old := tget {} r.peers src
  let node := leAt pay 2 1
  if !old.live && 31 ≤ (s.livePeers p).length then s.bump 0x41 p 16
  else
    let fl := leAt pay 3 1
    let clash := node < 32 && (node == s.hd p 3 || (s.livePeers p).any fun e => e.1 != src && e.2.node.toNat == node)
    let s := s.putPeer p src
      { node := BitVec.ofNat 8 node, ver := BitVec.ofNat 8 (leAt pay 1 1), coord := bit fl 0, awake := bit fl 1, caps := BitVec.ofNat 32 (leAt pay 4 4),
        window := leAt pay 8 1, heard := s.time.tick, live := true }
    let s := if bit fl 1 then s.releaseHeld p fun h => !h.group && h.dst == src else s
    if clash then (s.bump 0x41 p 17).post0 0x59 (0x4100 + p) else s

/-- PEER_EXPIRE (13 R330). -/
def execPeerExpire (port : Nat) (src : Nat) (s : State) : Host.Outcome State Fault Refusal :=
  let r := s.herd0 port
  let e := tget {} r.peers src
  .next (if e.live && e.heard.toNat + 144 * s.hd port 0xE ≤ s.time.tick.toNat && !(r.cow.active && bit e.caps.toNat 1 && !e.awake) then
      s.putHerd port { r with peers := tdel r.peers src, rcRx := tdel r.rcRx src }
    else s)

/-- Guard G in ticks (13 R333): 50 µs is 2.4 T. -/
def cowGuard (interval tol : Nat) : Nat := ceilDiv (2 * interval * tol + 2400000) 1000000

/-- Half-width of the listen window after k misses. -/
def CowSt.half (c : CowSt) : Nat := min (2 ^ c.k * cowGuard c.interval c.tol) ((c.interval - 6) / 2)

/-- A Herdline port in wake listening asks for a wake (13 R334). -/
def State.herdWakes (s : State) (p code : Nat) : State :=
  let r := s.herd0 p
  if r.listening then (s.putHerd p { r with wake := if r.wake.isSome then r.wake else some (BitVec.ofNat 4 code) }).wake 4 else s

/-- A follower hears a beacon (13 R332, R333, R336). -/
def State.takeBeacon (s : State) (p : Nat) (pay : List Byte) : State :=
  let r := s.cow p
  if !s.cowFollower p || r.st < 2 then s
  else
    let t := s.time.tick - BitVec.ofNat 64 (leAt pay 0xC 4 / 20480)
    let iv := leAt pay 4 4
    let aw := leAt pay 8 2
    let mine := bit (leAt pay 0x10 4) (s.hd p 3)
    let s := s.putCow p { r with st := 3, k := 0, interval := iv, awakeWin := aw, tol := leAt pay 0xA 2, next := t + BitVec.ofNat 64 iv,
                                 awakeEnd := t + BitVec.ofNat 64 aw, awake := true, rxOn := true }
    let s := s.bump 0x42 p 0
    let s := if r.st = 2 || r.st = 6 then s.post0 0x5C (0x4200 + p) else s
    if mine then
      (if (s.herd0 p).listening then s.herdWakes p 0xF else if s.cowSleeps p then s.putHerd p { s.herd0 p with helloDue := true } else s)
    else s

/-- LISTEN_WINDOW_OPEN (13 R333, R334): the receiver is back on 1 T before the window opens. -/
def execListenWindowOpen (port : Nat) (s : State) : Host.Outcome State Fault Refusal :=
  let r := s.cow port
  .next (if s.cowSleeps port && !r.rxOn && r.next.toNat ≤ s.time.tick.toNat + r.half + 1 then s.putCow port { r with rxOn := true } else s)

/-- LISTEN_WINDOW_CLOSE (13 R333): the window closes without a beacon; the third miss is LOST. -/
def execListenWindowClose (port : Nat) (s : State) : Host.Outcome State Fault Refusal :=
  let r := s.cow port
  .next (if !(s.cowFollower port && 3 ≤ r.st && r.st ≤ 5 && r.next.toNat + r.half + 6 ≤ s.time.tick.toNat) then s
    else
      let nxt := r.next + BitVec.ofNat 64 r.interval
      let s := s.bump 0x42 port 1
      if r.k + 1 < 3 then s.putCow port { r with k := r.k + 1, st := 4 + r.k, next := nxt, rxOn := !s.cowSleeps port }
      else
        let s := s.putCow port { r with k := 3, st := 6, next := nxt, rxOn := true, awake := true }
        ((s.bump 0x42 port 2).post0 0x5B (0x4200 + port)).herdWakes port 0xF)

/-- AWAKE_WINDOW_END (13 R333 to R335). -/
def execAwakeWindowEnd (port : Nat) (s : State) : Host.Outcome State Fault Refusal :=
  let r := s.cow port
  .next (if r.awake && r.awakeEnd.toNat ≤ s.time.tick.toNat && (s.cowSleeps port || (s.cowCoord port && r.active)) then
      s.putCow port { r with awake := false, rxOn := s.cowCoord port }
    else s)

/-- HERD_WAKE (13 R334): the ring engine runs again. -/
def execHerdWake (port : Nat) (s : State) : Host.Outcome State Fault Refusal :=
  let r := s.herd0 port
  .next (match r.wake with
    | none => s
    | some n => if s.engineOn then (s.putHerd port { r with wake := none }).post0 0x5A (0x4100 + 16 * n.toNat + port) else s)

/-! ### Reliable channel -/

/-- Distance between two SEQ values. -/
def seqDist (a b : Nat) : Nat := (a + 65535 - b) % 65535

/-- The header that a KIND 1 buffer receives, and the payload (13 R340). -/
def rcBytes (src node seq : Nat) (msg : List Byte) : List Byte :=
  addrBytes src ++ leBytes 1 node ++ [0] ++ leBytes 2 seq ++ leBytes 2 msg.length ++ leBytes 4 0 ++ msg

/-- RESULT of a KIND 1 buffer. -/
def rcResult (node n : Nat) : Nat :=
  16 + n + 0x200000 * b2n (node < 32 && bit node 4) + 0x400000 * b2n (31 < node) + (if node < 32 then node % 16 * 0x10000000 else 0)

/-- Deliver a message; false when RC_FUNC has no buffer posted. -/
def State.rcDeliver (s : State) (p src seq : Nat) (msg : List Byte) : State × Bool :=
  let r := s.herd0 p
  match takeBuf (s.hd p 0xF) r.rcBufs with
  | none => (s.bump 0x41 p 6, false)
  | some (b, rest) =>
    let e := tget {} r.peers src
    let node := if e.live then e.node.toNat else 0xFF
    let s := s.putHerd p { r with rcBufs := rest }
    (s.finishWrite b.ring b.id b.addr.toNat (rcBytes src node seq msg) (ok (rcResult node msg.length)), true)

/-- A DATA frame (13 R339). -/
def State.takeData (s : State) (p src : Nat) (pay : List Byte) : State :=
  let seq := leAt pay 2 2
  let msg := sub pay 8 (leAt pay 4 2)
  let sess := BitVec.ofNat 16 (leAt pay 6 2)
  let r0 := tget {} (s.herd0 p).rcRx src
  let r : RcPeer := if r0.known && r0.session == sess then r0 else { session := sess }
  let s := if r0.known && r0.session != sess then s.putRcRx p src r else s
  let d := seqDist seq r.last.toNat
  let i := seqDist r.last.toNat seq
  let accept (v : RcPeer) : State :=
    match s.rcDeliver p src seq msg with
    | (s1, true) => s1.putRcRx p src { v with known := true, ackDue := true }
    | (s1, false) => s1
  if seq = 0 then (s.rcDeliver p src 0 msg).1
  else if !r.known then accept { r with last := BitVec.ofNat 16 seq, map := 1 }
  else if 1 ≤ d && d ≤ 32767 then accept { r with last := BitVec.ofNat 16 seq, map := (if d < 64 then r.map <<< d else 0) ||| 1 }
  else if i ≤ 63 && bit r.map.toNat i then (s.putRcRx p src { r with ackDue := true }).bump 0x41 p 19
  else if i ≤ 63 then accept { r with map := r.map ||| (1 <<< i) }
  else s.bump 0x41 p 20

/-- Length of the frame that carries a message, FCS included. -/
def RcMsg.frameLen (m : RcMsg) : Nat := max 64 (26 + m.bytes.length)

/-- A message is acknowledged (13 R338). -/
def ackedBy (ackSeq map seq : Nat) : Bool :=
  let i := seqDist ackSeq seq
  seq == ackSeq || (1 ≤ i && i ≤ 63 && bit map i)

/-- Remove a message and what is queued of it. -/
def State.dropMsg (s : State) (p : Nat) (m : RcMsg) : State :=
  let r := s.herd0 p
  let same (e : TxEnt) : Bool := e.ring == m.ring && e.id == m.id && e.rc.isSome
  s.putHerd p { r with rcTx := r.rcTx.filter (fun x => x != m), held := r.held.filter (fun h => !same h.ent),
                       queues := tset [] r.queues 8 ((tget [] r.queues 8).filter fun e => !same e) }

/-- A message completes. -/
def State.endMsg (s : State) (p : Nat) (m : RcMsg) (result : Nat) : State := (s.dropMsg p m).finish m.ring m.id (ok result)

/-- An ACK from a peer (13 R338). -/
def State.takeAck (s : State) (p src : Nat) (pay : List Byte) : State :=
  let a := leAt pay 2 2
  let map := leAt pay 8 8
  let hit := (s.herd0 p).rcTx.filter fun m => m.dst == src && m.sent && m.seq != 0 && ackedBy a map m.seq.toNat
  hit.foldl (fun s m => (s.endMsg p m (m.frameLen + 65536 * m.seq.toNat)).macBump 0x41 p .txOk) s

/-- RC_RETRANSMIT (13 R338): RC_RTO has passed since the last send; in port sleep the timer fires in an awake window (13 R334). -/
def execRcRetransmit (port : Nat) (dst : Nat) (seq : BitVec 16) (s : State) : Host.Outcome State Fault Refusal :=
  let r := s.herd0 port
  .next (match r.rcTx.find? (fun m => m.dst = dst && m.seq = seq && m.sent && !m.due && m.seq != 0) with
    | none => s
    | some m =>
      if s.cowAsleep port || s.time.tick.toNat < m.last.toNat + s.hd port 0x11 then s
      else if s.hd port 0x12 ≤ m.tries then (s.endMsg port m 0).bump 0x41 port 22
      else (s.putHerd port { r with rcTx := r.rcTx.map fun x => if x = m then { m with due := true, tries := m.tries + 1 } else x }).bump 0x41 port 21)

/-! ### Stream packets (13 R342) -/

/-- Source address of a receive stream as a key; 0 = any. -/
def State.streamAddr (s : State) (e : Nat) : Nat := beNat (leBytes 4 (s.cfg 0x43 e 7) ++ leBytes 2 (s.cfg 0x43 e 8))

/-- Where a SEQ stands against the block to be played next. -/
def seqRank (ref seq : BitVec 16) : Nat := (seq - ref + 0x8000).toNat

/-- Add a packet to the blocks of a stream, in SEQ order. -/
def addPart (ref : BitVec 16) (blocks : List Blk) (b : Blk) (i : Nat) (bytes : List Byte) : List Blk :=
  if blocks.any (fun x => x.seq == b.seq) then
    blocks.map fun x => if x.seq == b.seq then { x with parts := tset [] x.parts i bytes } else x
  else insBy (fun x => seqRank ref x.seq) { b with parts := [(i, bytes)] } blocks

/-- A block has just been completed: the oldest that waits is dropped when JB_DEPTH + 2 blocks are held, and the new one takes its place in the
buffer; JB_DEPTH of them start playing. -/
def State.blockDone (s : State) (e : Nat) (b : Blk) : State :=
  let r := s.stream e
  let depth := s.cfg 0x43 e 9
  let s := if r.heldBlks.length < depth + 2 then s
    else match r.blocks.filter (·.done) with
      | [] => s
      | o :: _ => (s.putStream e { r with blocks := r.blocks.filter (fun x => x.seq != o.seq),
                                           nextSeq := if r.nextSeq = o.seq then o.seq + 1 else r.nextSeq }).bump 0x43 e 5
  let x := s.storeBlk e b
  let s := x.1
  let r := s.stream e
  match x.2 with
  | none => s.putStream e { r with blocks := r.blocks.filter fun y => y.seq != b.seq }
  | some b =>
    let s := s.putStream e { r with blocks := r.blocks.map fun y => if y.seq == b.seq then b else y }
    let whole := (s.stream e).blocks.filter (·.done)
    let arr := (s.conv e).arr ++ [(b.origin.toNat, s.time.tick.toNat)]
    if r.playing then s.putConv e { s.conv e with arr := arr }
    else if whole.length < depth then s
    else
      let s := s.putStream e { s.stream e with playing := true, nextSeq := (whole.headD {}).seq, cur := none, at_ := 0 }
      s.putConv e { st := .acquire, factor := BitVec.ofNat 32 one24, since := s.time.tick, arr := arr }

/-- A packet for one receive stream. -/
def State.takePacket (s : State) (e src : Nat) (pay : List Byte) : State :=
  let r := s.stream e
  let fmt := leAt pay 3 1
  let i := fld fmt 5 2
  let seq := BitVec.ofNat 16 (leAt pay 6 2)
  let addr := s.streamAddr e
  let b : Blk := { seq := seq, origin := BitVec.ofNat 64 (leAt pay 8 8), fmt := BitVec.ofNat 8 (fmt % 32), ch := s.streamCh e }
  if leAt pay 4 1 != s.streamCh e || 3 < b.code || fld fmt 3 2 == 3 || b.packets ≤ i then s.bump 0x43 e 8
  else if (if addr = 0 then r.bound.any (· != src) else addr != src) then s.bump 0x43 e 7
  else
    let s := s.putStream e { r with bound := some src, lastPkt := some (BitVec.ofNat 64 (blockOf s.time.tick)) }
    let s := s.bump 0x43 e 0
    let r := s.stream e
    if r.playing && (seq - r.nextSeq).msb then s.bump 0x43 e 2
    else if r.blocks.any (fun x => x.seq == seq && (x.done || x.parts.any fun y => y.1 = i)) then s.bump 0x43 e 3
    else
      let n := (fmtFrames b.code) / b.packets * s.streamCh e * fmtBytes b.code
      let ref := if r.playing then r.nextSeq else (r.blocks.headD b).seq
      let bs := addPart ref r.blocks b i (sub pay 16 n)
      let s := s.putStream e { r with blocks := bs }
      match bs.find? (fun x => x.seq == seq) with
      | some x => if x.complete then s.blockDone e x else s
      | none => s

/-- A stream packet reaches every enabled receive stream of its STREAM_ID. -/
def State.takeStream (s : State) (p src : Nat) (pay : List Byte) : State :=
  ((s.portStreams p).filter fun e => e < 0x30 && s.cfg 0x43 e 4 == leAt pay 2 1).foldl (fun s e => s.takePacket e src pay) s

/-- STREAM_SILENCE (13 R342, R344): 16 blocks without a packet; the stream is no longer bound and stops playing. -/
def execStreamSilence (ep : Nat) (s : State) : Host.Outcome State Fault Refusal :=
  let r := s.stream ep
  .next (if 0x20 ≤ ep && ep < 0x30 && r.lastPkt.any (fun b => b.toNat + 16 ≤ blockOf s.time.tick) then
      (s.putStream ep { base := r.base, fmt := r.fmt }).convIdle ep
    else s)

/-! ### Reception -/

/-- Give an accepted frame to its service; a reserved first byte counts BAD_KIND. -/
def State.service (s : State) (p : Nat) (fr : List Byte) : State :=
  let src := beNat (srcOf fr)
  let pay := payOf fr
  let listening := (s.herd0 p).listening
  if isService fr 0x88B5 1 then s.takeBeacon p pay
  else if listening then s
  else
    let s := s.heardNode p src
    if isService fr 0x88B6 1 then s.takeData p src pay
    else if isService fr 0x88B6 2 then s.takeAck p src pay
    else if isService fr 0x88B6 3 then s.takeHello p src pay
    else if isService fr 0x88B6 0x10 then s.takeStream p src pay
    else s.bump 0x41 p 18

/-- Enabled wake patterns that a delivered good frame matches (12 R316, 13 R334). -/
def State.herdPatterns (s : State) (p : Nat) (fr : List Byte) (j : Judge) : State :=
  if !j.clean then s
  else
    let hits := s.patHits 0x41 p fr
    let s := hits.foldl (fun s _ => s.macBump 0x41 p .wake) s
    match hits with
    | [] => s
    | n :: _ => s.herdWakes p n

/-- A raw frame (13 R325). -/
def State.rawFrame (s : State) (p : Nat) (fr : List Byte) (rx : RxCheck) : State :=
  let j := s.judge 0x41 p fr rx.fcsOk
  let s := s.countJudge 0x41 p j
  if typeOf fr = 0x8808 then s.macBump 0x41 p .ctrlUnk
  else
    match s.sieve 0x41 p fr j with
    | (s, none) => s
    | (s, some (f, k)) =>
      let s := s.herdPatterns p fr j
      if (s.herd0 p).listening then s
      else if 65536 < rxFillOf (s.herd0 p).rxHeld + min fr.length 9216 then s.macBump 0x41 p .overflow
      else
        let s := s.holdFrameRx 0x41 p f k fr j 0
        if rx.soon then s.deliverAll 0x41 p else s

/-- HERD_RX_FRAME (13 R325, R326). -/
def execHerdRxFrame (port : Nat) (frame : List Byte) (rx : RxCheck) (s : State) : Host.Outcome State Fault Refusal :=
  .next (if !(port < 2 && s.hears port) then s
    else if typeOf frame = 0x88B5 || typeOf frame = 0x88B6 then
      (if s.herdAccepts port frame rx.fcsOk then s.service port frame else s.bump 0x41 port 18)
    else (if rx.fcsOk then s.heardNode port (beNat (srcOf frame)) else s).rawFrame port frame rx)

/-- A frame of one service, received good and accepted: `t` is what the service does with it. -/
def State.serve (s : State) (p : Nat) (fr : List Byte) (ty kind : Nat) : State :=
  if p < 2 && s.hears p && s.herdAccepts p fr true && isService fr ty kind then s.service p fr else s

/-- HELLO (13 R330). -/
def execHello (port : Nat) (frame : List Byte) (s : State) : Host.Outcome State Fault Refusal := .next (s.serve port frame 0x88B6 3)

/-- BEACON (13 R333). -/
def execBeacon (port : Nat) (frame : List Byte) (s : State) : Host.Outcome State Fault Refusal := .next (s.serve port frame 0x88B5 1)

/-- DATA (13 R339). -/
def execData (port : Nat) (frame : List Byte) (s : State) : Host.Outcome State Fault Refusal := .next (s.serve port frame 0x88B6 1)

/-- ACK (13 R338). -/
def execAck (port : Nat) (frame : List Byte) (s : State) : Host.Outcome State Fault Refusal := .next (s.serve port frame 0x88B6 2)

/-- STREAM_PACKET (13 R342). -/
def execStreamPacket (port : Nat) (frame : List Byte) (s : State) : Host.Outcome State Fault Refusal := .next (s.serve port frame 0x88B6 0x10)

/-- HERD_RX_POST (13 R325, R337, R340): the buffer is posted by KIND; KIND 1 is RC_FUNC's alone. -/
def execHerdRxPost (ring : Nat) (s : State) : Host.Outcome State Fault Refusal :=
  .next (match (s.ring ring).oldest 0x29 with
    | none => s
    | some q =>
      let p := q.desc.port
      let b : RxBuf := { fn := ring / 8, ring := ring, id := q.id, addr := q.desc.addr, len := q.desc.len16 }
      if q.desc.reliable then
        (if s.hd p 0xF != ring / 8 then s.finish ring q.id (access 2)
         else
           let s := s.take ring q.id
           s.putHerd p { s.herd0 p with rcBufs := (s.herd0 p).rcBufs ++ [b] })
      else
        let s := s.take ring q.id
        s.putRxBufs 0x41 p (s.rxBufs 0x41 p ++ [b]))

/-! ### Transmission -/

/-- SEQ of the next message to a destination. -/
def nextSeqOf (w : BitVec 16) : BitVec 16 := if w = 0xFFFF then 1 else w + 1

/-- A frame over a quota: OK with RESULT[15:0] = 0, and HOLD_DROP (13 R335). -/
def State.holdDrop (s : State) (p ring id : Nat) : State := (s.finish ring id (ok 0)).bump 0x42 p 3

/-- A reliable-channel message is taken. -/
def State.takeMessage (s : State) (p ring : Nat) (q : Req) : State :=
  match s.dmaRead (ring / 8) q.desc.addrN q.desc.len16 with
  | (s, .error r) => s.finish ring q.id (access r)
  | (s, .ok b) =>
    let da := b.take 6
    let dst := beNat da
    match s.holdCheck p da with
    | some false => s.holdDrop p ring q.id
    | held =>
      let r := s.herd0 p
      let seq := if isGroup da then 0 else nextSeqOf (tget 0 r.nextSeq dst)
      let m : RcMsg := { ring := ring, id := q.id, dst := dst, seq := seq, bytes := b.drop 8, queue := q.desc.queue, due := held.isNone }
      let s := (s.take ring q.id).putHerd p { r with rcTx := r.rcTx ++ [m], nextSeq := if isGroup da then r.nextSeq else tset 0 r.nextSeq dst seq }
      if held.isSome then s.holdFrame p q.desc.queue da { fn := ring / 8, ring := ring, id := q.id, rc := some (dst, seq) } else s

/-- HERD_TX (13 R325, R335, R337). -/
def execHerdTx (ring : Nat) (s : State) : Host.Outcome State Fault Refusal :=
  .next (match (s.ring ring).oldest 0x28 with
    | none => s
    | some q =>
      let p := q.desc.port
      let f := ring / 8
      if s.hd p (0x20 + q.desc.queue) != f || (q.desc.reliable && s.hd p 0xF != f) then s.finish ring q.id (access 2)
      else if q.desc.reliable then s.takeMessage p ring q
      else
        let e : TxEnt := { fn := f, ring := ring, id := q.id }
        if (s.sleepers p).isEmpty then (s.take ring q.id).enqueue 0x41 p q.desc.queue e
        else
          match s.dmaRead f q.desc.addrN 6 with
          | (s, .error r) => s.finish ring q.id (access r)
          | (s, .ok da) =>
            match s.holdCheck p da with
            | none => (s.take ring q.id).enqueue 0x41 p q.desc.queue e
            | some true => (s.take ring q.id).holdFrame p q.desc.queue da e
            | some false => s.holdDrop p ring q.id)

/-- The DATA frame of a message (13 R337). -/
def State.dataFrame (s : State) (p : Nat) (m : RcMsg) : List Byte :=
  s.ownFrame p (addrBytes m.dst) 0x88B6
    ([1, 1] ++ leBytes 2 m.seq.toNat ++ leBytes 2 m.bytes.length ++ leBytes 2 (s.herd0 p).session.toNat ++ m.bytes)

/-- The ACK towards a peer (13 R337, R339). -/
def State.ackFrame (s : State) (p k : Nat) (v : RcPeer) : List Byte :=
  s.ownFrame p (addrBytes k) 0x88B6 ([2, 1] ++ leBytes 2 v.last.toNat ++ leBytes 4 0 ++ leBytes 8 v.map.toNat)

/-- A message may go now: due, inside the window, and its destination not asleep. -/
def State.msgReady (s : State) (p : Nat) (m : RcMsg) : Bool :=
  m.due && !(s.sleepers p).contains m.dst
    && (m.sent || m.seq == 0 || ((s.herd0 p).rcTx.filter fun x => x.dst == m.dst && x.sent && x.seq != 0).length < s.rcWindow p m.dst)

/-- What a port sends next (13 R327). -/
inductive Cand where
  | retry (e : TxEnt)
  | hello
  | held (h : HeldFrame)
  | packet (ep : Nat) (pkt : TxPkt)
  | ack (peer : Nat) (v : RcPeer)
  | message (m : RcMsg)
  | raw (q : Nat) (e : TxEnt)
deriving DecidableEq, Repr

/-- The first frame in the order of 13 R327; a frame being tried again goes first, and in one queue messages go before raw frames. -/
def State.candidate (s : State) (p : Nat) : Option Cand :=
  let r := s.herd0 p
  match tget [] r.queues 8 with
  | e :: _ => some (.retry e)
  | [] =>
    if r.helloDue then some .hello
    else match r.held.find? (·.rel) with
      | some h => some (.held h)
      | none =>
        match (s.portStreams p).findSome? (fun e => if e < 0x30 then none else (s.stream e).pkts.head?.map fun b => (e, b)) with
        | some x => some (.packet x.1 x.2)
        | none =>
          match r.rcRx.find? (fun x => x.2.ackDue) with
          | some x => some (.ack x.1 x.2)
          | none => (List.range 8).reverse.findSome? fun q =>
              match r.rcTx.find? (fun m => m.queue = q && s.msgReady p m) with
              | some m => some (.message m)
              | none => (tget [] r.queues q).head?.map fun e => .raw q e

/-- Mark a message as sent now. -/
def State.sendMsg (s : State) (p : Nat) (m : RcMsg) : State :=
  let r := s.herd0 p
  s.putHerd p { r with rcTx := r.rcTx.map fun x => if x.ring = m.ring && x.id = m.id then { x with due := false, sent := true, last := s.time.tick } else x }

/-- A frame read from memory for a request; a failed read ends the request ACCESS. -/
def State.readEnt (s : State) (e : TxEnt) (ok : Bool) : State × Option (TxEnt × List Byte) :=
  if !ok then (s.finish e.ring e.id (access 5), none)
  else
    match s.fetchFrame e with
    | (s1, .error a) => (s1.finish e.ring e.id (access a), none)
    | (s1, .ok b) => (s1, some (e, b))

/-- The message behind a held frame. -/
def State.heldMsg (s : State) (p : Nat) (e : TxEnt) : Option RcMsg := (s.herd0 p).rcTx.find? fun m => m.ring = e.ring && m.id = e.id

/-- Take a candidate from where it waits: the frame to send, where its data could be read. A frame tried again still lies in the transmit buffer. -/
def State.takeCand (s : State) (p : Nat) (c : Cand) (ok : Bool) : State × Option (TxEnt × List Byte) :=
  let r := s.herd0 p
  let msg (s : State) (m : RcMsg) : State × Option (TxEnt × List Byte) :=
    if !ok && !m.sent then ((s.dropMsg p m).finish m.ring m.id (access 5), none)
    else (s.sendMsg p m, some ({ fn := m.ring / 8, ring := m.ring, id := m.id, rc := some (m.dst, m.seq) }, s.dataFrame p m))
  match c with
  | .retry _ => (s, none)
  | .hello =>
    (s.putHerd p { r with helloDue := false, helloAt := s.time.tick, lastFlags := BitVec.ofNat 8 (s.helloFlags p) },
     some ({ own := true }, s.helloFrame p))
  | .held h =>
    let s := s.putHerd p { r with held := r.held.erase h }
    if h.ent.rc.isSome then (match s.heldMsg p h.ent with | some m => msg s m | none => (s, none)) else s.readEnt h.ent ok
  | .packet e k =>
    let t := s.stream e
    match (s.putStream e { t with pkts := t.pkts.drop 1 }).packetOf e k with
    | (s, none) => (s, none)
    | (s, some b) => (s.bump 0x43 e 0, some ({ own := true }, s.ownFrame p (addrBytes (s.streamAddr e)) 0x88B6 b))
  | .ack k v => (s.putRcRx p k { v with ackDue := false }, some ({ own := true }, s.ackFrame p k v))
  | .message m => msg s m
  | .raw q e => (s.putTx 0x41 p ((s.tx 0x41 p).drop q)).readEnt e ok

/-- Bytes of a candidate, FCS included. -/
def State.candLen (s : State) (p : Nat) (c : Cand) : Nat :=
  let ent (e : TxEnt) : Nat :=
    match s.heldMsg p e with
    | some m => m.frameLen
    | none => match (s.ring e.ring).reqs.find? (fun q => q.id = e.id) with | some q => max 60 q.desc.len16 + 4 | none => 64
  match c with
  | .retry e => e.len + 4
  | .hello => 64
  | .held h => ent h.ent
  | .packet _ k => max 60 (14 + k.len) + 4
  | .ack _ _ => 64
  | .message m => m.frameLen
  | .raw _ e => ent e

/-- Ticks that a frame takes on the line with its preamble and gap: 0.1 µs a bit. -/
def lineTicks (len : Nat) : Nat := ceilDiv ((len + 20) * 24) 625

/-- The quiet before a beacon (13 R332): the frame would not end by the scheduled beacon time. -/
def State.quiet (s : State) (p len : Nat) : Bool :=
  let r := s.cow p
  ((s.cowCoord p && r.st == 7) || (s.cowFollower p && 3 ≤ r.st && r.st ≤ 5)) && r.next.toNat < s.time.tick.toNat + lineTicks len

/-- The line is free for the port to send. -/
def State.herdFree (s : State) (p : Nat) : Bool :=
  s.portUp 0x41 p && !(s.herd0 p).listening && (s.herd0 p).cur.isNone && (s.herd0 p).backoff.isNone && !s.cowAsleep p

/-- HERD_TX_START (13 R327): the frame first in order starts; `ok` is false where the read of its data fails. -/
def execHerdTxStart (port : Nat) (ok : Bool) (s : State) : Host.Outcome State Fault Refusal :=
  .next (if !s.herdFree port then s
    else
      match s.candidate port with
      | none => s
      | some c =>
        if s.quiet port (s.candLen port c) then s
        else
          match c with
          | .retry e => s.putTx 0x41 port { (s.tx 0x41 port).drop 8 with cur := some (8, e) }
          | c =>
            match s.takeCand port c ok with
            | (s, none) => s
            | (s, some (e, b)) => s.startFrame 0x41 port 8 e b)

/-- PENDING of a beacon: nodes for which frames are held. -/
def State.pendingBits (s : State) (p : Nat) : Nat :=
  sumOf (fun n => if (s.herd0 p).held.any (fun h => !h.group && (let e := tget {} (s.herd0 p).peers h.dst; e.live && e.node.toNat == n)) then 2 ^ n else 0)
    (List.range 32)

/-- The BEACON of a coordinator (13 R331). -/
def State.beaconFrame (s : State) (p : Nat) (txOffset : BitVec 32) : List Byte :=
  let r := s.cow p
  s.ownFrame p broadcast 0x88B5
    ([1, 1] ++ leBytes 2 r.n ++ leBytes 4 (s.cfg 0x42 p 3) ++ leBytes 2 (s.cfg 0x42 p 4) ++ leBytes 2 (s.cfg 0x42 p 5)
      ++ leBytes 4 txOffset.toNat ++ leBytes 4 (s.pendingBits p) ++ leBytes 4 0 ++ leBytes 8 r.next.toNat)

/-- BEACON_SEND (13 R331, R332, R335, R345): the first opportunity at or after S_n; an awake window opens, held group frames follow. -/
def execBeaconSend (port : Nat) (txOffset : BitVec 32) (s : State) : Host.Outcome State Fault Refusal :=
  let r := s.cow port
  .next (if !(s.herdFree port && s.cowCoord port && r.st == 7 && r.next.toNat ≤ s.time.tick.toNat) then s
    else
      let fr := s.beaconFrame port txOffset
      let s := s.putCow port { r with n := r.n + 1, next := r.next + BitVec.ofNat 64 (s.cfg 0x42 port 3), interval := s.cfg 0x42 port 3,
                                      awakeWin := s.cfg 0x42 port 4, tol := s.cfg 0x42 port 5, awake := true, rxOn := true,
                                      awakeEnd := r.next + BitVec.ofNat 64 (s.cfg 0x42 port 4) }
      let s := s.releaseHeld port fun h => h.group
      (s.putHerd port { s.herd0 port with wire := (fr ++ fcsOf fr) :: (s.herd0 port).wire }).bump 0x42 port 0)

/-- The frame on the line of a Herdline port has been sent (12 R307, 13 R338). -/
def State.herdSent (s : State) (p : Nat) : State :=
  match s.lineEnd 0x41 p with
  | (s, none) => s
  | (s, some (e, fr)) =>
    if e.own then s
    else
      match e.rc with
      | some (_, seq) =>
        (match s.heldMsg p e with
         | some m => if seq = 0 then (s.endMsg p m m.frameLen).macBump 0x41 p .txOk else s
         | none => s)
      | none => (s.macBump 0x41 p .txOk).finish e.ring e.id (ok fr.length)

/-! ### A read that is not answered (04 R95) -/

/-- The port at which a frame of a request waits to start, or is on the line with bytes still to be read: its class and number, and whether it has
started. -/
def State.txPlace (s : State) (g id : Nat) : Option (Nat × Nat × Bool) :=
  [(0x40, 0), (0x40, 1), (0x41, 0), (0x41, 1)].findSome? fun x =>
    let t := s.tx x.1 x.2
    let same (e : TxEnt) : Bool := e.ring == g && e.id == id && !e.own && e.rc.isNone
    if x.1 == 0x40 && (s.net0 x.2).thresh != 0 && t.cur.any fun y => same y.2 then some (x.1, x.2, true)
    else if (List.range 8).any fun q => (tget [] t.queues q).any same then some (x.1, x.2, false) else none

/-- A frame leaves its port: from its queue, or off the line (12 R319). -/
def State.txGone (s : State) (g id : Nat) (w : Nat × Nat × Bool) : State :=
  let t := s.tx w.1 w.2.1
  if w.2.2 then (s.putTx w.1 w.2.1 { t with cur := none, colls := 0 }).boundary w.1 w.2.1
  else s.putTx w.1 w.2.1 { t with queues := (t.queues.map fun q => (q.1, q.2.filter fun e => e.ring != g || e.id != id)).filter fun q => !q.2.isEmpty }

/-- A request waits for a DMA read: no unit has taken it, or it is a pending COMMIT whose block and blobs are still to come, or a frame whose bytes
are. -/
def State.reading (s : State) (g : Nat) (q : Req) : Bool :=
  q.live && q.ended.isNone && [0x02, 0x03, 0x04, 0x11, 0x20, 0x28, 0x30, 0x50].contains q.desc.op
    && (if q.desc.op = 0x30 then (s.model q.desc.model).nxt.any fun x => x.fed == some (g, q.id) && !x.copied
        else !q.taken || (s.txPlace g q.id).isSome
          || (q.desc.op == 2 && s.cmt.queue.any fun c => c.fn.isSome && c.ring == g && c.id == q.id && c.fetching))

/-- The host step that a request has taken is left with nothing. -/
def State.voidStep (s : State) (m g id : Nat) : State :=
  let r := s.model m
  s.putModel m { r with nxt := r.nxt.map fun x => if x.fed == some (g, id) then { used := true } else x }

/-- DMA_TIMEOUT (04 R95): a read over the PCIe link in flight ends at the completion timeout, unless Device Control 2 of the PF disables it; its
descriptor completes ACCESS, DMA. That of a pending COMMIT does so in its turn among the checks (log 97). -/
def execDmaTimeout (ring : Nat) (id : Nat) (s : State) : Host.Outcome State Fault Refusal :=
  .next (match (s.ring ring).reqs.find? (fun q => q.id = id && s.reading ring q) with
    | none => s
    | some q =>
      if s.hostMode && !bit (tget 0 s.pcie.cfg 0x88).toNat 4 then
        (match s.txPlace ring id with
         | some x => (s.txGone ring id x).finish ring id (access 5)
         | none =>
           if q.taken then
             s.setCmt { s.cmt with queue := s.cmt.queue.map fun c =>
               if c.fn.isSome && c.ring == ring && c.id == id && c.fetching then { c with fetching := false, fetchErr := some 5 } else c }
           else (if q.desc.op = 0x30 then s.voidStep q.desc.model ring id else s).finish ring id (access 5))
      else s)

/-- NET_TX_DONE (12 R307, 13 R325): the frame on the line of a port has been sent. -/
def execNetTxDone (port : Nat) (frac : BitVec 32) (s : State) : Host.Outcome State Fault Refusal :=
  .next (if port < 2 then s.netSent port frac else if port < 4 then s.herdSent (port - 2) else s)

end Sys2Proof.Machine
end

