-- ==== Sys2Proof/Machine/Cores.lean ====
section
/-! DEFINITION. Machine/Cores.lean: the control complex as the chip around the cores' instruction streams sees it (11): coherence
requests, writeback buffers, replay, the IO-coherent port, errors, timer, PLIC, cache maintenance and parking. A line is named by its
address divided by 64; its home slice is bit 0 of that number. -/

namespace Sys2Proof.Machine

/-! ### Errors (11 R288) -/

/-- An uncorrectable LPDDR5 error at an address. -/
def State.ddrUncorr (s : State) (a : Nat) : State :=
  let c := s.cc
  let blk := BitVec.ofNat 64 (blockOf s.time.tick)
  let s := s.setCc { c with uncorr := BitVec.ofNat 8 (min 255 (c.uncorr.toNat + 1)), errValid := true,
                            errAddr := if c.errValid then c.errAddr else BitVec.ofNat 40 a, ddrBlk := some blk }
  (if c.ddrBlk = some blk then s else s.post0 0x45 0x0120).plicGates

/-- A correctable LPDDR5 error. -/
def State.ddrCorr (s : State) : State := (s.setCc { s.cc with corr := BitVec.ofNat 16 (min 0xFFFF (s.cc.corr.toNat + 1)) }).plicGates

/-- An uncorrectable L2 error in a slice. -/
def State.l2Uncorr (s : State) (slice : Nat) : State :=
  let c := s.cc
  let blk := BitVec.ofNat 64 (blockOf s.time.tick)
  let s := s.setCc { c with l2Valid := c.l2Valid ||| BitVec.ofNat 2 (2 ^ slice), l2Blk := some blk }
  (if c.l2Blk = some blk then s else s.post0 0x44 (0x0110 + slice)).plicGates

/-- A line lies in LPDDR5 under in-line ECC. -/
def State.eccLine (s : State) (line : Nat) : Bool := s.region (64 * line) == .lpddr && bit s.cc.memCfg.toNat 0

/-- What a read of a line finds in L2 or, in-line ECC being on, in LPDDR5: counts, and a poisoned line; a line stored as poisoned in
LPDDR5 decodes as uncorrectable (11 R288). -/
def State.lineCheck (s : State) (line : Nat) (e : Ecc) : State :=
  let l := s.line line
  let ddr := s.eccLine line
  let e := if l.poison && !l.inL2 then .uncorrectable else e
  if e = .ok || !(l.inL2 || ddr) then s
  else if e = .corrected then (if l.inL2 then s.setCc { s.cc with l2Corr := s.cc.l2Corr + 1 } else s.ddrCorr)
  else (if l.inL2 then s.l2Uncorr (line % 2) else s.ddrUncorr (64 * line)).putLineC line { l with poison := true }

/-! ### Requests of a core (11 R272, R273) -/

/-- A core and the slices are powered, and the core runs. -/
def State.coreReq (s : State) (c : Nat) : Bool := c < 4 && s.domOn c && s.domOn 4 && (s.core c).run == .running

/-- A core takes an exception. -/
def State.coreFault (s : State) (c cause : Nat) : State := s.putCore c { s.core c with trap := some (BitVec.ofNat 64 cause) }

/-- Cause of an access fault of a read request: instruction, load (11 R270). -/
def readCause : ReadKind → Nat
  | .fetch => 1
  | _ => 5

/-- What the address of a read request bars: a fetch or a load-reserved from an I/O region, a load-reserved from the boot ROM (11 R270). -/
def State.readBar (s : State) (a : Nat) (kind : ReadKind) : Bool :=
  match s.region a with
  | .bootRom => kind == .lr
  | .aonSram => false
  | .lpddr => false
  | .reserved => false
  | _ => kind == .fetch || kind == .lr

/-- The same for a request to own a line: an SC or AMO (11 R270). -/
def State.ownBar (s : State) (a : Nat) (kind : StoreKind) : Bool :=
  match s.region a with
  | .aonSram => false
  | .lpddr => false
  | .reserved => false
  | _ => kind != .store

/-- A request for a line of no cacheable region reaches no slice; an address the map refuses is captured all the same. -/
def State.lineReq (s : State) (a : Nat) : Bool := s.cacheable a || s.region a == .reserved

/-- A refused request of a master (01 R15): captured, and a core takes an access fault. -/
def State.coreRefused (s : State) (master func a kind cause : Nat) (write : Bool) : State :=
  let s := s.capture master func kind a write
  if master < 4 then s.coreFault master cause else s

/-! ### What a cache holds (11 R271) -/

/-- Set of a line in an L1 data cache of 64 sets of 8 ways, an L1 instruction cache of 128 sets of 4 ways, and a slice of 1,024 sets of 16
ways (PRESUMED: the lowest address bits above the line and the slice, log 90). -/
def dSet (line : Nat) : Nat := line % 64
def iSet (line : Nat) : Nat := line % 128
def l2Set (line : Nat) : Nat := line % 2048

/-- Lines of a set that a data cache holds, one apart. -/
def State.dLines (s : State) (c line : Nat) : List Nat :=
  (s.cc.lines.filter fun e => e.1 != line && dSet e.1 == dSet line && e.2.at c != .i).map (·.1)

/-- Lines of a set that an instruction cache holds, one apart. -/
def State.iLines (s : State) (c line : Nat) : List Nat :=
  (s.cc.lines.filter fun e => e.1 != line && iSet e.1 == iSet line && bit e.2.ic.toNat c).map (·.1)

/-- Lines of a set that a slice holds, one apart. -/
def State.l2Lines (s : State) (line : Nat) : List Nat :=
  (s.cc.lines.filter fun e => e.1 != line && l2Set e.1 == l2Set line && e.2.inL2).map (·.1)

/-- A line that a full set gives up: the one named where it lies there, else any (log 90). -/
def State.pick (s : State) (held : List Nat) (ways : Nat) (victim : Option Nat) : State × Option Nat :=
  match victim with
  | some v => if held.contains v then (s, some v) else (s, none)
  | none =>
    if held.length < ways then (s, none)
    else
      let x := s.draw
      (x.1, some (nth 0 held (x.2.toNat % held.length)))

/-- A poisoned line keeps its poison in LPDDR5 as a check pattern, which only in-line ECC has (11 R281, R288). -/
def State.storedPoison (s : State) (line : Nat) : Bool := (s.line line).poison && (s.eccLine line || !(s.region (64 * line) == .lpddr))

/-- L2 replaces a line: every L1 copy is invalidated, an M owner's or a writeback entry's data are collected, and dirty data go to memory
(11 R271, R283). -/
def State.l2Evict (s : State) (line : Nat) : State :=
  let s := s.snoop line 4
  let l := s.line line
  let own := l.owner.isSome || (s.wbHit line).isSome
  let d := s.lineData line
  let s := (s.absorbWb line).loseResv line 4
  let s := if l.dirty || own then s.setMem (memPut s.mem (64 * line) (leBytes 64 d.toNat)) else s
  s.putLineC line { poison := s.storedPoison line, losers := l.losers }

/-- A slice makes room for a line that it does not hold. -/
def State.l2Room (s : State) (line : Nat) : State :=
  if (s.line line).inL2 then s
  else
    match s.pick (s.l2Lines line) 16 none with
    | (s, some v) => s.l2Evict v
    | (s, none) => s

/-- The line that a data-cache miss replaces (11 R272, R273): an M line enters a writeback entry, an E or S line leaves; none where the M
line finds no free entry and the miss waits. -/
def State.evict (s : State) (c line : Nat) (victim : Option Nat) : Option State :=
  match s.pick (s.dLines c line) 8 victim with
  | (s, none) => some s
  | (s, some v) =>
    let l := s.line v
    let r := s.core c
    let lost := if r.resv = some v then none else r.resv
    if l.at c = .m then
      (match firstFrom (fun k => !(r.wb.any fun e => e.1 = k)) 4 with
       | none => none
       | some k =>
         some ((s.putLineC v (l.put c .i 0)).putCore c { r with wb := tins k { line := v, data := tget 0 l.l1d c } r.wb, resv := lost }))
    else some ((s.putLineC v (l.put c .i 0)).putCore c { r with resv := lost })

/-- The line that a fetch replaces in an instruction cache. -/
def State.ievict (s : State) (c line : Nat) (victim : Option Nat) : State :=
  match s.pick (s.iLines c line) 4 victim with
  | (s, none) => s
  | (s, some v) => s.putLineC v { s.line v with ic := (s.line v).ic &&& ~~~(BitVec.ofNat 4 (2 ^ c)) }

/-- The slice holds the line's present data: an M owner or a writeback entry has supplied it, or LPDDR5 has (11 R272, R283). -/
def State.fillL2 (s : State) (line : Nat) : State :=
  let s := s.l2Room line
  let l := s.line line
  let own := l.owner.isSome || (s.wbHit line).isSome
  let d := s.lineData line
  let s := s.absorbWb line
  s.putLineC line { s.line line with inL2 := true, l2d := d, dirty := l.dirty || own }

/-- An access fault for a poisoned line: counted in the core's trap (11 R288). -/
def State.poisonTrap (s : State) (c line cause : Nat) : State := if (s.line line).poison then s.coreFault c cause else s

/-! ### Requests (11 R272, R284 to R286) -/

/-- ReadShared: an M owner supplies data and goes to S; E when no other data cache is present, S otherwise. -/
def State.readShared (s : State) (c line : Nat) (kind : ReadKind) (e : Ecc) : State :=
  let s := if kind = .prefetch then s else s.hpm c (if kind = .fetch then 2 else 1)
  let s := if (s.line line).inL2 then s else s.hpm c 3
  let s := if (s.line line).owner.isSome || (s.wbHit line).isSome then s else s.lineCheck line e
  let s := match (s.line line).owner with | some o => s.hpm o 4 | none => s
  let s := s.fillL2 line
  let l := s.line line
  let l := [0, 1, 2, 3].foldl (fun (l : LineC) k => if l.at k = .m || (l.at k = .e && kind != .fetch) then l.put k .s 0 else l) l
  if kind = .fetch then (s.putLineC line { l with ic := l.ic ||| BitVec.ofNat 4 (2 ^ c) }).poisonTrap c line 1
  else
    let st : Mesi := if l.l1.isEmpty then .e else .s
    let s := s.putLineC line (l.put c st 0)
    let s := if kind = .lr then s.putCore c { s.core c with resv := some line } else s
    if kind = .prefetch then s else s.poisonTrap c line 5

/-- A core's operation on a line that it holds in M: bytes stored, an SC only under its reservation, an AMO not on a poisoned line (11
R285, R288); a store of the whole line clears poison. -/
def State.storeM (s : State) (c line off : Nat) (bytes : List Byte) (kind : StoreKind) : State :=
  let l := s.line line
  let kept := (s.core c).resv == some line
  let s := if kind = .sc then s.putCore c { s.core c with resv := none } else s
  if kind = .sc && !kept then s
  else if kind = .amo && l.poison then s.coreFault c 7
  else
    s.putLineC line { l with l1d := tset 0 l.l1d c (putLine (tget 0 l.l1d c) off bytes), poison := l.poison && bytes.length != 64 }

/-- Grant M to a core, every other copy being invalidated, and perform its store (11 R272, R285). -/
def State.grantM (s : State) (c line off : Nat) (bytes : List Byte) (kind : StoreKind) : State :=
  let s := s.snoop line c
  let s := s.fillL2 line
  let s := s.loseResv line c
  let l := s.line line
  (s.putLineC line { l with l1 := [(c, .m)], l1d := tset 0 [] c l.l2d }).storeM c line off bytes kind

/-- The requester of an ownership request: a core, or 4 for the IO-coherent port. -/
def rivalReq (r : Rival) : Nat := min r.master.toNat 4

/-- An ownership request of a core or of the IO-coherent port is granted. -/
def State.grantOwner (s : State) (line : Nat) (r : Rival) : State :=
  if r.master.toNat < 4 then s.grantM r.master.toNat line r.off r.bytes r.kind else s.busWrite (64 * line + r.off) r.bytes

/-- The requester that comes first from `top` in the cyclic order of 11 R284. -/
def fromTop (top : Nat) (rs : List Rival) : List Rival := sortBy (fun r => (rivalReq r + 5 - top % 5) % 5) rs

/-- Requests for a line that reach its slice in one cycle: earlier losers keep their turn; else the winner is granted and the others
wait in rotating order from it, the first of them getting top priority next (11 R284). -/
def State.arbitrate (s : State) (line : Nat) (rs : List Rival) : State :=
  let l := s.line line
  let slice := line % 2
  let top := tget 0 s.cc.top slice
  match fromTop top rs with
  | [] => s
  | w :: rest =>
    if !l.losers.isEmpty then s.putLineC line { l with losers := l.losers ++ (w :: rest) }
    else
      let s := s.grantOwner line w
      match rest with
      | [] => s
      | q :: _ =>
        let s := s.putLineC line { s.line line with losers := rest }
        s.setCc { s.cc with top := tset 0 s.cc.top slice (rivalReq q) }

/-- The first loser of a line is granted (11 R284). -/
def State.replay (s : State) (line : Nat) : State :=
  let l := s.line line
  match l.losers with
  | [] => s
  | w :: rest =>
    let s := s.putLineC line { l with losers := rest }
    (if w.master.toNat < 4 then s.hpm w.master.toNat 5 else s).grantOwner line w

/-- Replays of a line go ahead of a new request that is no ownership request (11 R272, R284). -/
def State.replays (s : State) (line : Nat) : State := (s.line line).losers.foldl (fun s _ => s.replay line) s

/-- Requests for a line that the address map refuses, in ascending MASTER: each captured, each core of them taking an access fault (01
R15, R17). -/
def State.ownRefused (s : State) (line kind : Nat) (rs : List Rival) : State :=
  (sortBy (fun r : Rival => r.master.toNat) rs).foldl
    (fun s r => s.coreRefused r.master.toNat r.func.toNat (64 * line + r.off) kind 7 true) s

/-- A store fits its line, and every rival is another requester of the line that is there. -/
def State.rivalsOk (s : State) (core off : Nat) (bytes : List Byte) (rivals : List Rival) : Bool :=
  off + bytes.length ≤ 64 && rivals.all fun r =>
    s.masterUp r.master.toNat r.func.toNat && r.master.toNat != core && r.off + r.bytes.length ≤ 64
      && (r.master.toNat < 4 || r.kind == .store)

/-- READ_SHARED (11 R270, R272, R285). -/
def execReadShared (core : Nat) (loc : LineLoc) (kind : ReadKind) (ecc : Ecc) (victim : Option Nat) (s : State) :
    Host.Outcome State Fault Refusal :=
  let line := loc.line
  let off := loc.off
  let l := s.line line
  let hit := if kind = .fetch then bit l.ic.toNat core else l.at core != .i
  let a := 64 * line + off
  .next (if !s.coreReq core || hit || victim = some line || 64 ≤ off || (kind == .prefetch && !(s.core core).pfEn) then s
    else if s.readBar a kind then s.coreFault core (readCause kind)
    else if !s.lineReq a then s
    else
      match s.refusal core a false with
      | some k => if kind = .prefetch then s else s.coreRefused core 0 a k (readCause kind) false
      | none => match (if kind = .fetch then some (s.ievict core line victim) else s.evict core line victim) with
        | none => s
        | some s => (s.replays line).readShared core line kind ecc)

/-- An SC without a reservation of its line fails and sends no request (11 R285). -/
def State.scFails (s : State) (core line : Nat) (kind : StoreKind) : Bool := kind == .sc && (s.core core).resv != some line

/-- A core's own request among its rivals. -/
def ownRival (core off : Nat) (bytes : List Byte) (kind : StoreKind) : Rival :=
  { master := BitVec.ofNat 4 core, off := off, bytes := bytes, kind := kind }

/-- READ_UNIQUE (11 R270, R272, R284). -/
def execReadUnique (core : Nat) (loc : LineLoc) (bytes : List Byte) (kind : StoreKind) (ecc : Ecc) (victim : Option Nat)
    (rivals : List Rival) (s : State) : Host.Outcome State Fault Refusal :=
  let line := loc.line
  let off := loc.off
  .next (if !s.coreReq core || (s.line line).at core != .i || !s.rivalsOk core off bytes rivals || victim = some line then s
    else if s.ownBar (64 * line) kind then s.coreFault core 7
    else if s.scFails core line kind || !s.lineReq (64 * line) then s
    else
      match s.refusal core (64 * line) true with
      | some k => s.ownRefused line k (ownRival core off bytes kind :: rivals)
      | none => match s.evict core line victim with
        | none => s
        | some s =>
          let s := s.hpm core 1
          let s := if (s.line line).inL2 then s else s.hpm core 3
          let s := if (s.line line).owner.isSome || (s.wbHit line).isSome then s else s.lineCheck line ecc
          s.arbitrate line (ownRival core off bytes kind :: rivals))

/-- A store to a line that its core holds in M or E is no request: E goes to M and the bytes are stored (11 R272). -/
def State.storeHit (s : State) (c line off : Nat) (bytes : List Byte) (kind : StoreKind) : State :=
  let l := s.line line
  (if l.at c = .e then s.putLineC line (l.put c .m l.l2d) else s).storeM c line off bytes kind

/-- UPGRADE (11 R272, R286): a requester whose presence has been cleared is handled as ReadUnique; one that holds the line in M or E
sends no request. -/
def execUpgrade (core : Nat) (loc : LineLoc) (bytes : List Byte) (kind : StoreKind) (ecc : Ecc) (rivals : List Rival)
    (s : State) : Host.Outcome State Fault Refusal :=
  let line := loc.line
  let off := loc.off
  let st := (s.line line).at core
  .next (if !s.coreReq core || !s.rivalsOk core off bytes rivals then s
    else if s.ownBar (64 * line) kind then s.coreFault core 7
    else if s.scFails core line kind || !s.lineReq (64 * line) then s
    else if st = .m || st = .e then
      (let s := s.storeHit core line off bytes kind
       if rivals.isEmpty then s else s.arbitrate line rivals)
    else
      match s.refusal core (64 * line) true with
      | some k => s.ownRefused line k (ownRival core off bytes kind :: rivals)
      | none =>
        let s := if st = .i && (s.line line).owner.isNone && (s.wbHit line).isNone then s.lineCheck line ecc else s
        s.arbitrate line (ownRival core off bytes kind :: rivals))

/-- REPLAY (11 R284). -/
def execReplay (line : Nat) (s : State) : Host.Outcome State Fault Refusal := .next (s.replay line)

/-- CLEAN_EVICT (11 R272): an E or S line leaves a cache, or its copy an instruction cache; without presence there is no effect
(R283). -/
def execCleanEvict (core : Nat) (line : Nat) (s : State) : Host.Outcome State Fault Refusal :=
  let l := s.line line
  .next (if 4 ≤ core || l.at core = .m then s
    else if l.at core = .i then s.putLineC line { l with ic := l.ic &&& ~~~(BitVec.ofNat 4 (2 ^ core)) }
    else s.putLineC line (l.put core .i 0))

/-- A writeback entry reaches the home slice (11 R273, R283): into L2, or discarded where its token is absorbed. -/
def State.writeBack (s : State) (c k : Nat) : State :=
  let r := s.core c
  match r.wb.find? (fun e => e.1 = k) with
  | none => s
  | some e =>
    let s := s.putCore c { r with wb := tdel r.wb k }
    if e.2.absorbed then (s.setCc { s.cc with wbAbsorbed := s.cc.wbAbsorbed + 1 }).hpm c 6
    else s.putLineC e.2.line { s.line e.2.line with inL2 := true, l2d := e.2.data, dirty := true }

/-- WRITE_BACK (11 R283). -/
def execWriteBack (core : Nat) (entry : Nat) (s : State) : Host.Outcome State Fault Refusal :=
  .next (if core < 4 && s.domOn core then s.writeBack core entry else s)

/-! ### A core's own accesses (11 R270, R271, R288) -/

/-- A miss that must replace an M line waits until an entry is free: its oldest entry is written back. -/
def State.evictWait (s : State) (c line : Nat) : State :=
  match s.evict c line none with
  | some t => t
  | none =>
    let s := match (s.core c).wb with | [] => s | e :: _ => s.writeBack c e.1
    match s.evict c line none with
    | some t => t
    | none => s

/-- A load or load-reserved of a core in a cacheable line. -/
def State.coreLoad (s : State) (c line : Nat) (lr : Bool) (e : Ecc) : State :=
  if (s.line line).at c = .i then ((s.evictWait c line).replays line).readShared c line (if lr then .lr else .load) e
  else
    let r := s.core c
    let s := match e with
      | .ok => s
      | .corrected => s.putCore c { r with l1dCorr := BitVec.ofNat 16 (min 0xFFFF (r.l1dCorr.toNat + 1)) }
      | .uncorrectable => (s.putCore c { r with l1dUncorr := BitVec.ofNat 16 (min 0xFFFF (r.l1dUncorr.toNat + 1)) }).putLineC line
          { s.line line with poison := true }
    let s := if lr then s.putCore c { s.core c with resv := some line } else s
    s.poisonTrap c line 5

/-- A fetch: a parity error invalidates the line, which is fetched again (11 R288). -/
def State.coreFetch (s : State) (c line : Nat) (e : Ecc) : State :=
  let r := s.core c
  if bit (s.line line).ic.toNat c then
    (if e = .ok then s.poisonTrap c line 1
     else ((s.putCore c { r with l1iErr := BitVec.ofNat 16 (min 0xFFFF (r.l1iErr.toNat + 1)) }).replays line).readShared c line .fetch .ok)
  else ((s.ievict c line none).replays line).readShared c line .fetch e

/-- A store, SC or AMO of a core in a cacheable line. -/
def State.coreStore (s : State) (c line off : Nat) (bytes : List Byte) (kind : StoreKind) (e : Ecc) : State :=
  let st := (s.line line).at c
  if s.scFails c line kind then s
  else if st = .m || st = .e then s.storeHit c line off bytes kind
  else
    let s := if st = .i then s.evictWait c line else s
    let s := s.replays line
    let s := if st = .i then (let s := s.hpm c 1; if (s.line line).inL2 then s else s.hpm c 3) else s
    let s := if st = .i && (s.line line).owner.isNone && (s.wbHit line).isNone then s.lineCheck line e else s
    s.grantM c line off bytes kind

/-! ### The IO-coherent port (11 R274) -/

/-- IO_READ: the reply goes to the port's master. Replays of the line go first (11 R284). -/
def execIoRead (port : IoMaster) (line : Nat) (ecc : Ecc) (s : State) : Host.Outcome State Fault Refusal :=
  let master := port.code
  let func := port.func
  .next (if !s.masterUp master func || master < 4 || !s.lineReq (64 * line) then s
    else
      match s.refusal master (64 * line) false with
      | some k =>
        let s := s.capture master func k (64 * line) false
        s.setCc { s.cc with ioData := 0, ioErr := true }
      | none =>
        let s := s.replays line
        let s := if (s.line line).owner.isSome || (s.wbHit line).isSome then s else s.lineCheck line ecc
        let d := s.lineData line
        let bad := (s.line line).poison
        let s := match (s.line line).owner with | some o => s.hpm o 4 | none => s
        let s := match s.wbHit line with
          | some x => (s.absorbWb line).putLineC line { s.line line with inL2 := true, l2d := x.2.2, dirty := true }
          | none => s
        s.setCc { s.cc with ioData := d, ioErr := bad })

/-- IO_WRITE: behind the losers of the line that wait (11 R284). -/
def execIoWrite (port : IoMaster) (line : Nat) (off : Nat) (bytes : List Byte) (s : State) : Host.Outcome State Fault Refusal :=
  let master := port.code
  let func := port.func
  .next (if !s.masterUp master func || master < 4 || !s.lineReq (64 * line) || 64 < off + bytes.length then s
    else
      match s.refusal master (64 * line) true with
      | some k => s.capture master func k (64 * line + off) true
      | none => s.arbitrate line [{ master := BitVec.ofNat 4 master, func := BitVec.ofNat 4 func, off := off, bytes := bytes }])

/-! ### LPDDR5 (11 R280, R282) -/

/-- The controller answers: trained, powered and not in self-refresh. -/
def State.ddrUp (s : State) : Bool := s.cc.ready && s.domOn 7 && s.domOn 8 && !s.cc.selfRef

/-- PATROL_SCRUB (11 R282): the next line of U is read; a correctable error is written back; a line stored as poisoned decodes as
uncorrectable, and a copy that L2 holds is not touched (11 R288). -/
def execPatrolScrub (ecc : Ecc) (s : State) : Host.Outcome State Fault Refusal :=
  let cfg := s.cc.memCfg.toNat
  .next (if !s.ddrUp || !bit cfg 0 || fld cfg 3 2 = 0 then s
    else
      let a := 0x80000000 + 64 * s.cc.scrubPtr
      let l := s.line (a / 64)
      let s := s.setCc { s.cc with scrubPtr := (s.cc.scrubPtr + 1) % (s.usable / 64) }
      match if l.poison && !l.inL2 then .uncorrectable else ecc with
      | .ok => s
      | .corrected => s.ddrCorr
      | .uncorrectable => if l.inL2 then s.ddrUncorr a else (s.ddrUncorr a).putLineC (a / 64) { l with poison := true })

/-- MR4_POLL (11 R280, R293). -/
def execMr4Poll (code : BitVec 4) (s : State) : Host.Outcome State Fault Refusal :=
  .next (if s.ddrUp then s.setCc { s.cc with temp := code } else s)

/-- A write of SYS_MEM_ERR_INFO (11 R293): W1C bits; VALID also clears the counts. -/
def State.writeMemErr (s : State) (v : BitVec 32) : State :=
  let c := { s.cc with l2Valid := s.cc.l2Valid &&& ~~~(BitVec.ofNat 2 (fld v.toNat 24 2)) }
  s.setCc (if bit v.toNat 31 then { c with errValid := false, corr := 0, uncorr := 0 } else c)

/-! ### Timer and PLIC (11 R275 to R277) -/

/-! ### Timer and PLIC (11 R275 to R277) -/

/-- MACHINE_TIMER (11 R275). -/
def execMachineTimer (core : Nat) (slot : Nat) (s : State) : Host.Outcome State Fault Refusal :=
  .next (if core < 4 && slot < 20480 && s.domOn 6 then
      (let s := (s.atSlot slot).1
       s.setCc { s.cc with mtip := tset false s.cc.mtip core (s.timerUp core) })
    else s)

/-- Completion of a source for a context (11 R276, log 4). -/
def State.complete (s : State) (ctx src : Nat) : State :=
  if tget false s.cc.plic.en (ctx * 1024 + src) then
    (s.setCc { s.cc with plic := { s.cc.plic with claimed := tset false s.cc.plic.claimed src false } }).plicGates
  else s

/-- PLIC_CLAIM (11 R276, log 4). -/
def execPlicClaim (ctx : Nat) (s : State) : Host.Outcome State Fault Refusal := .next (if ctx < 8 && s.domOn 6 then s.claim ctx else s)

/-- PLIC_COMPLETE (11 R276, log 4): ignored for a source not enabled for the context. -/
def execPlicComplete (ctx : Nat) (src : Nat) (s : State) : Host.Outcome State Fault Refusal :=
  .next (if ctx < 8 && s.domOn 6 then s.complete ctx src else s)

/-! ### Cache maintenance, ktick (11 R292) -/

/-- A core writes an M line back. -/
def State.cleanLine (s : State) (c line : Nat) : State :=
  let l := s.line line
  let s := if l.at c = .m then s.putLineC line { l with l2d := tget 0 l.l1d c, dirty := true } else s
  s.putLineC line ((s.line line).put c .i 0)

/-- L1 data cache of a core written back and invalidated, its writeback buffer drained (11 R279, R292). -/
def State.cleanDcache (s : State) (c : Nat) : State :=
  let s := [0, 1, 2, 3].foldl (fun s k => s.writeBack c k) s
  let s := (s.cc.lines.map (·.1)).foldl (fun s l => s.cleanLine c l) s
  s.putCore c { s.core c with resv := none }

/-- L1 instruction cache of a core invalidated. -/
def State.dropIcache (s : State) (c : Nat) : State :=
  (s.cc.lines.map (·.1)).foldl (fun s l => s.putLineC l { s.line l with ic := (s.line l).ic &&& ~~~(BitVec.ofNat 4 (2 ^ c)) }) s

/-- DCACHE_CLEAN (11 R279, R292). -/
def execDcacheClean (core : Nat) (s : State) : Host.Outcome State Fault Refusal :=
  .next (if core < 4 && s.domOn core && s.domOn 4 then s.cleanDcache core else s)

/-- ICACHE_INVALIDATE (11 R292). -/
def execIcacheInvalidate (core : Nat) (s : State) : Host.Outcome State Fault Refusal :=
  .next (if core < 4 && s.domOn core then s.dropIcache core else s)

/-- ktick and kslot are readable in a mode (11 R292). -/
def CoreSt.tickOk (r : CoreSt) (mode : BitVec 2) : Bool := mode == 3 || (r.tickSu && (mode == 0 || mode == 1))

/-- KTICK_READ (11 R292): TICK, and kslot latched; an illegal-instruction exception where the mode is barred. -/
def execKtickRead (core : Nat) (mode : BitVec 2) (slot : Nat) (s : State) : Host.Outcome State Fault Refusal :=
  let r := s.core core
  .next (if !(core < 4 && s.domOn core && slot < 20480) then s
    else if !r.tickOk mode then s.putCore core { r with trap := some 2 }
    else
      let x := s.atSlot slot
      x.1.putCore core { r with ktick := s.time.tick, kslot := if s.time.ckeOff then 0x8000000000000000 else BitVec.ofNat 64 x.2 })

/-! ### Parking (11 R279, R291) -/

/-- A core holds no line in M or E and its writeback buffer is empty. -/
def State.coreEmpty (s : State) (c : Nat) : Bool :=
  (s.core c).wb.isEmpty && s.cc.lines.all fun e => e.2.at c != .m && e.2.at c != .e

/-- A core's caches hold nothing any more. -/
def State.dropCore (s : State) (c : Nat) : State :=
  let ls := s.cc.lines.map fun e => (e.1, { e.2.put c .i 0 with ic := e.2.ic &&& ~~~(BitVec.ofNat 4 (2 ^ c)) })
  (s.setCc { s.cc with lines := ls.filter fun e => e.2 != {} }).putCore c {}

/-- A core that may be switched off: its intent is down, it is parked, PARK set and its caches clean, and stopped in WFI as the command
says (log 32). While a profile is entered, a change of CPU_OPP under way completes first (14 R364). -/
def State.parkable (s : State) (core : Nat) : Bool :=
  core < 4 && s.domOn core && !s.effOn core && (s.core core).park && s.coreEmpty core
    && (!s.pwr.entry || (s.clk.oppTarget.isNone && s.pwr.vWait.isNone))

/-- Every dirty line goes to memory. -/
def State.flushL2 (s : State) : State :=
  let ds := s.cc.lines.filter fun e => e.2.dirty
  let s := ds.foldl (fun s e => s.setMem (memPut s.mem (64 * e.1) (leBytes 64 e.2.l2d.toNat))) s
  s.setCc { s.cc with lines := s.cc.lines.map fun e => (e.1, { e.2 with dirty := false }) }

/-- The slices hold nothing any more; a poisoned line stays so in LPDDR5. -/
def State.dropL2 (s : State) : State :=
  s.setCc { s.cc with lines := (s.cc.lines.map fun e => (e.1, ({ poison := s.storedPoison e.1 } : LineC))).filter fun e => e.2 != {} }

/-- A commit that turns the slices off is loading (11 R291). -/
def State.slicesLeaving (s : State) : Bool :=
  match s.cmt.queue with
  | [] => false
  | c :: _ => c.loading && c.tuples.any fun t => t.1 == sid 3 4 1 && t.2 == 0

end Sys2Proof.Machine
end

