-- ==== Sys2Proof/Machine/Flr.lean ====
section
/-! DEFINITION. Machine/Flr.lean: ending the requests of a unit (17 R422 to R424, R431), commits that leave the queue (04 R92, 05 R107),
function-level reset (04 R95, R96), and epochs (17 R422, R423). -/

namespace Sys2Proof.Machine

/-! ### Tests -/

/-- Class and unit of a running TEST. -/
def TestRun.unitOf (t : TestRun) : Nat × Nat := testUnit t.kind t.inst

/-- A running TEST is aborted with UNIT_RESET; SEP_TILE writes OUTCOME 2 (17 R431). -/
def State.abortTest (s : State) (t : TestRun) : State :=
  let s := s.setTests (s.tests.filter fun x => x != t)
  let o := unitReset t.unitOf.1 t.unitOf.2
  if t.kind = 2 then s.finishWrite t.ring t.id t.addr.toNat (leBytes 4 2 ++ leBytes 12 0) o else s.finish t.ring t.id o

/-- Every running TEST of a unit is aborted. -/
def State.abortTests (s : State) (c i : Nat) : State :=
  (s.tests.filter fun t => t.unitOf == (c, i)).foldl (fun s t => s.abortTest t) s

/-! ### Requests of a unit -/

/-- Requests outstanding at a unit: ring and number. -/
def State.unitReqs (s : State) (c i : Nat) : List (Nat × Nat) :=
  s.host.rings.flatMap fun e => (e.2.reqs.filter fun q =>
    q.live && q.ended.isNone && target (e.1 / 8) q.desc == some (c, i)).map fun q => (e.1, q.id)

/-- A unit has requests outstanding. -/
def State.busyUnit (s : State) (c i : Nat) : Bool := !(s.unitReqs c i).isEmpty

/-- What a model holds for requests is let go: posted and filling SEP_RESULTs, SEP_STEPs that wait, and those whose steps have not run, whose host
steps then do nothing (09 R235). -/
def State.dropModelReqs (s : State) (m : Nat) : State :=
  let r := s.model m
  s.putModel m { r with posted := [], filling := [], queued := [],
                        cur := if s.hopRan m then r.cur else r.cur.map (fun x => if x.fed.isSome then {} else x),
                        nxt := r.nxt.map fun x => if x.used then {} else x }

/-- The beats of a model stop: its hop publishes nothing, and none of its steps count as run (09 R237). -/
def State.haltModel (s : State) (m : Nat) : State := s.putModel m { s.model m with miss := true }

/-- Step 2 of a quiesce: every request still outstanding at a unit ends UNIT_RESET, but for SEP_STEPs whose steps have run, which complete at the flip
(09 R235, 17 R423). -/
def State.abortUnit (s : State) (c i : Nat) : State :=
  let s := s.abortTests c i
  let s := if c = 0x40 then s.dropTraffic 0x40 i (unitReset 0x40 i) true else s
  let s := if c = 0x41 then
      (let s := s.dropTraffic 0x41 i (unitReset 0x41 i) true
       s.putHerd i { s.herd0 i with held := [], rcTx := [], rcBufs := [] }) else s
  let run := if c = 0x28 then s.ranFed i else []
  let s := if c = 0x28 then s.dropModelReqs i else s
  let s := if c = 0x60 then s.setNv { s.nv with queue := [], writing := none, plan := [], gateSince := none } else s
  ((s.unitReqs c i).filter fun x => !run.contains x).foldl (fun s x => s.finish x.1 x.2 (unitReset c i)) s

/-- Step 1: new requests are refused from here (17 R423). -/
def State.quiesce (s : State) (c i : Nat) : State :=
  if s.offline c i then s else s.putUnit c i { s.unitOf c i with offline := some s.time.tick }

/-- Step 4: the epoch advances and requests are accepted again; QUIESCES counts the quiesce (17 R422, R423). -/
def State.endQuiesce (s : State) (c i : Nat) : State :=
  let r := s.unitOf c i
  (s.putUnit c i { r with offline := none, epoch := r.epoch + 1 }).bump 0x01 0 2

/-- Steps 1 to 4 at once, for a unit that a device commit sheds (17 R424). -/
def State.shedUnit (s : State) (c i : Nat) : State := ((s.quiesce c i).abortUnit c i).endQuiesce c i

/-- QUIESCE_ABORT (17 R423): by the fourth tick after step 1 every request outstanding at it has ended. -/
def execQuiesceAbort (cls : Nat) (inst : Nat) (s : State) : Host.Outcome State Fault Refusal :=
  .next (match (s.unitOf cls inst).offline with
    | some t => if t.toNat + 4 ≤ s.time.tick.toNat then s.abortUnit cls inst else s
    | none => s)

/-- REQUEST_REPLY (17 R423): a reply under another epoch is dropped and counted. -/
def execRequestReply (cls : Nat) (inst : Nat) (ep : BitVec 4) (s : State) : Host.Outcome State Fault Refusal :=
  .next (if unitOk cls inst && (s.unitOf cls inst).epoch != ep then s.bump 0x01 0 1 else s)

/-! ### Commits leaving the queue -/

/-- The COMMITs waiting on a token end with an outcome (04 R92). -/
def State.endWaiters (s : State) (f : Nat) (token : BitVec 64) (o : Outc) : State :=
  let ws := s.cmt.tokWait.filter fun w => w.fn = f && w.token = token
  let s := s.setCmt { s.cmt with tokWait := s.cmt.tokWait.filter fun w => !(w.fn = f && w.token = token) }
  if token = 0 then s else ws.foldl (fun s w => s.finish w.ring w.id o) s

/-- The queue without some commits: those behind the first that leaves are checked again (05 R107). -/
def leave (gone : Commit → Bool) : Bool → List Commit → List Commit
  | _, [] => []
  | behind, c :: r =>
    if gone c then leave gone true r
    else (if behind && c.fn.isSome && c.checked.isSome then { c with recheck := true } else c) :: leave gone behind r

/-- The queue that commits leave without applying. The banks that they had powered up stay as they are for the commits still pending whose own
configuration asks for the same state of the bank (10 R256). -/
def State.leaveQueue (s : State) (gone : Commit → Bool) : List Commit :=
  let q := leave gone false s.cmt.queue
  let power (x : Proj) (b : Nat) : Nat := cfgN x.m 0x30 b 2
  let raised := (s.cmt.queue.filter gone).flatMap fun c => c.banks.map fun b => (b, power (s.applied.after s.cowActive c) b)
  if raised.isEmpty then q
  else
    (List.range q.length).map fun k =>
      let c := nth {} q k
      let x := (q.take (k + 1)).foldl (fun x c => x.after s.cowActive c) s.applied
      { c with banks := (c.banks ++ (raised.filter fun r => power x r.1 == r.2).map (·.1)).eraseDups }

/-- A commit raised by request `id` of a ring. -/
def Commit.isReq (c : Commit) (ring id : Nat) : Bool := c.fn.isSome && c.ring == ring && c.id == id

/-- A commit ends without applying: completion, its waiters with the same outcome, and the re-checks behind it (04 R92, 05 R108). -/
def State.failCommit (s : State) (c : Commit) (o : Outc) : State :=
  let s := s.putQueue (s.leaveQueue fun x => x.isReq c.ring c.id)
  let s := s.finish c.ring c.id o
  s.endWaiters (c.ring / 8) c.token o

/-- Pending commits of a function are withdrawn without completion, and those that wait on their tokens with them (04 R92, R96). -/
def State.withdraw (s : State) (f : Nat) : State :=
  s.setCmt { s.cmt with queue := s.leaveQueue fun x => x.fn == some f,
                        tokWait := s.cmt.tokWait.filter fun w => w.fn != f,
                        held := s.cmt.held.filter (fun h => h.fn != f), loads := s.cmt.loads.filter fun l => l.fn != f }

/-! ### Function-level reset (04 R96) -/

/-- A ring loses its registers and what it had fetched (04 R98). A host block already taken at a flip plays on. -/
def State.resetRing (s : State) (g : Nat) : State :=
  let s := s.putRing g { nextId := (s.ring g).nextId }
  let h := s.haudio g
  s.putHaudio g { base := h.base, playing := h.playing, cap := h.cap }

/-- What models hold for rings is let go; staged host steps still run. -/
def State.modelFlr (s : State) (gone : Nat → Bool) : State :=
  s.setSep { s.sep with models := s.sep.models.map fun e =>
    (e.1, { e.2 with posted := e.2.posted.filter (fun x => !gone x.1), filling := e.2.filling.filter (fun x => !gone x.ring),
                     queued := e.2.queued.filter (fun x => !gone x.1),
                     nxt := e.2.nxt.map fun x => if (x.fed.any fun y => gone y.1) && !x.copied then { used := true } else x }) }

/-- A running march of a ring is given up: preserving leaves the bank as it is, destructive leaves it cleared. -/
def State.marchFlr (s : State) (gone : Nat → Bool) : State :=
  let m := s.vat.march
  if m.busy && gone m.ring then
    (let s := s.marchRelease.putMarch {}
     if m.pres then s else s.clearBank m.bank)
  else s

/-- Opcodes whose requests an FLR ends at once: commits are withdrawn, held blobs are released, frames not started are discarded, receive buffers and NV writes not
begun are withdrawn (04 R96, 12 R298, 16 R409). -/
def flrEnds (op : Nat) : Bool := [0x02, 0x04, 0x20, 0x21, 0x28, 0x29, 0x50].contains op

/-- A ring at an FLR (04 R96 steps 1 and 2): its registers return to reset, and what it had fetched may still finish, without completion. -/
def RingSt.flr (r : RingSt) (t : BitVec 64) : RingSt :=
  let qs := (r.reqs.filter fun q => !flrEnds q.desc.opcode.toNat && q.ended.isNone).map fun q => { q with drop := true }
  { nextId := r.nextId, reqs := qs, flrAt := if qs.isEmpty then none else some t }

/-- A running TEST is given up without completion; the quiesce of a tile under test ends with it (17 R424). -/
def State.dropTest (s : State) (t : TestRun) : State :=
  let s := s.setTests (s.tests.filter fun x => x != t)
  if t.kind = 2 then s.endQuiesce t.unitOf.1 t.unitOf.2 else s

/-- What a ring had fetched before an FLR is abandoned: no further DMA and no further effect (04 R96 step 2). -/
def State.abandon (s : State) (g : Nat) : State :=
  let r := s.ring g
  let s := s.putRing g { r with reqs := r.reqs.filter (fun q => !q.drop), flrAt := none }
  let s := s.putHaudio g { s.haudio g with staged := [], posted := [], written := [] }
  let s := (s.modelFlr (· == g)).marchFlr (· == g)
  (s.tests.filter fun t => t.ring == g).foldl (fun s t => s.dropTest t) s

/-- Two blocks after an FLR what has not finished is abandoned. -/
def State.flrBounds (s : State) : State :=
  (s.host.rings.filter fun e => e.2.flrAt.any fun t => t.toNat + 96 ≤ s.time.tick.toNat).foldl (fun s e => s.abandon e.1) s

/-- FLR of one function (04 R96, 05, 12 R298, 16 R409, 19: MSI-X entries and PBA); its configuration space goes back to reset but for
NumVFs (log 4). -/
def State.flrOne (s : State) (f : Nat) : State :=
  let s := (List.range 8).foldl (fun s k => s.putRing (8 * f + k) ((s.ring (8 * f + k)).flr s.time.tick)) s
  let s := [0, 1].foldl (fun s p => (s.macFlr 0x40 p f).herdFlr p f) s
  let s := s.setNv { s.nv with queue := s.nv.queue.filter fun q => q.fn != f }
  let s := (s.withdraw f).putFn f {}
  let s := s.setPcie { s.pcie with cfg := s.pcie.cfg.filter fun e => e.1 / 4096 != f }
  (List.range 16).foldl (fun s v => s.putVec (16 * f + v) {}) s

/-- FLR of function f; of function 0, of all 16, with every window and the VF Enable bit cleared (04 R96). -/
def State.flr (s : State) (f : Nat) : State :=
  if f = 0 then
    (let s := (List.range 16).foldl (fun s k => s.flrOne k) s
     (s.setHost { s.host with wins := [] }).setPcie { s.pcie with vfEnable := false })
  else s.flrOne f

/-- The PCIe link goes down: an FLR of every function (04 R95). -/
def State.linkDown (s : State) : State := ((s.setPcie { s.pcie with linkUp := false, training := false, speed := 0, width := 0 }).flr 0)

/-- PCIe configuration state back to reset (17 R415), with PERST_N as it stands. -/
def State.resetPcie (s : State) : State :=
  let s := s.linkDown
  (s.setHost { s.host with vecs := [] }).setPcie { perst := s.pcie.perst }

end Sys2Proof.Machine
end

