-- ==== Sys2Proof/Machine/Nv.lean ====
section
/-! DEFINITION. Machine/Nv.lean: the NV store (16): slots and records, NV_WRITE and NV_READ, the five write steps, the hold-up gate and
failures. -/

namespace Sys2Proof.Machine

/-! ### Flash and slots (16 R396 to R399) -/

/-- Bytes of the flash; an erased byte is 0xFF. -/
def flashBytes (fl : Map Byte) (a n : Nat) : List Byte := (List.range n).map fun i => tget 0xFF fl (a + i)

/-- Program bytes: bits only turn from 1 to 0. -/
def flashProgram (fl : Map Byte) (a : Nat) : List Byte → Map Byte
  | [] => fl
  | b :: r => flashProgram (tset 0xFF fl a (tget 0xFF fl a &&& b)) (a + 1) r

/-- Erase a 4 KiB sector. -/
def flashErase (fl : Map Byte) (a : Nat) : Map Byte := fl.filter fun e => e.1 < a || a + 4096 ≤ e.1

/-- First byte of slot k: 0 is A, 1 is B (16 R397). -/
def slotBase (mib k : Nat) : Nat := mib * 0x100000 - 0x400000 + k * 0x200000

/-- A slot's records, `n` bounding them; none when they do not parse (16 R398, R399). -/
def parseRecords : Nat → List Byte → Option (List (Nat × List Byte))
  | _, [] => some []
  | 0, _ => none
  | n + 1, b =>
    let len := leAt b 4 4
    let size := 8 + ceilDiv len 8 * 8
    if b.length < 8 || len = 0 || 65536 < len || b.length < size then none
    else (parseRecords n (b.drop size)).map fun r => (leAt b 0 4, sub b 8 len) :: r

/-- Keys strictly rising. -/
def rising : List (Nat × List Byte) → Bool
  | [] => true
  | [_] => true
  | a :: b :: r => a.1 < b.1 && rising (b :: r)

/-- The marker of a generation (16 R398). -/
def markerOf (gen : Nat) : List Byte := leBytes 4 0x7160AA55 ++ leBytes 4 (0xFFFFFFFF - gen % 2 ^ 32)

/-- The header of a slot. -/
def headerOf (gen : Nat) (payload : List Byte) (nrec : Nat) : List Byte :=
  let h := leBytes 4 0x6A177160 ++ leBytes 1 1 ++ leBytes 3 0 ++ leBytes 8 gen ++ leBytes 4 payload.length
    ++ leBytes 4 (if payload.isEmpty then 0 else (crc32 payload).toNat) ++ leBytes 4 nrec
  h ++ leBytes 4 (crc32 h).toNat

/-- A valid slot: generation, payload length, records (16 R399). -/
structure Slot where
  gen : Nat := 0
  plen : Nat := 0
  recs : List (Nat × List Byte) := []
deriving DecidableEq, Repr

/-- Read a slot; none when it is invalid. -/
def readSlot (fl : Map Byte) (base : Nat) : Option Slot :=
  let h := flashBytes fl base 32
  let gen := leAt h 8 8
  let plen := leAt h 16 4
  if !(leAt h 0 4 = 0x6A177160 && leAt h 4 1 = 1 && leAt h 28 4 = (crc32 (h.take 28)).toNat) || 0x200000 - 0x200 < plen then none
  else if flashBytes fl (base + 0x100) 8 != markerOf gen then none
  else
    let p := flashBytes fl (base + 0x200) plen
    if leAt h 20 4 != (if plen = 0 then 0 else (crc32 p).toNat) then none
    else
      match parseRecords (plen / 8 + 1) p with
      | some r => if rising r && r.length = leAt h 24 4 then some { gen := gen, plen := plen, recs := r } else none
      | none => none

/-- The active slot: A, B or none (16 R399). -/
def activeSlot (fl : Map Byte) (mib : Nat) : Option (Nat × Slot) :=
  match readSlot fl (slotBase mib 0), readSlot fl (slotBase mib 1) with
  | some a, some b => if a.gen < b.gen then some (1, b) else some (0, a)
  | some a, none => some (0, a)
  | none, some b => some (1, b)
  | none, none => none

/-- A flash that meets 16 R396 by its capacity. -/
def flashFits (mib : Nat) : Bool := [16, 32, 64, 128, 256].contains mib

/-- Records of the active slot. -/
def NvSt.recs (n : NvSt) : List (Nat × List Byte) :=
  if n.active < 2 then (match readSlot n.flash (slotBase n.mib n.active) with | some x => x.recs | none => []) else []

/-- The controller has read SFDP and found the active slot (16 R408, R412); the inactive slot is not trusted to be erased. -/
def State.nvStart (s : State) : State :=
  let n := s.nv
  let b : NvSt := { flash := n.flash, mib := n.mib, ok := flashFits n.mib, state := 0 }
  s.setNv (if !flashFits n.mib then { b with active := 2 }
    else match activeSlot n.flash n.mib with
      | some (k, x) => { b with active := k, gen := BitVec.ofNat 64 x.gen }
      | none => { b with active := 2 })

/-- Flash after an operation that ran to its end. -/
def FlashOp.apply (o : FlashOp) (fl : Map Byte) : Map Byte :=
  if o.erase then flashErase fl o.addr else flashProgram fl o.addr o.data

/-- Controller logic is lost; the flash finishes an operation it has begun (16 R407, R409). -/
def State.nvOff (s : State) : State :=
  let n := s.nv
  s.setNv { flash := (match n.busy with | some o => o.apply n.flash | none => n.flash), mib := n.mib }

/-- n bytes of free value. -/
def State.drawBytes (s : State) (n : Nat) : State × List Byte :=
  let f := s.time.free
  (s.setTime { s.time with free := f + ceilDiv n 8 },
   (List.range n).map fun i => BitVec.ofNat 8 ((Config.freeValue (f + i / 8)).toNat >>> (8 * (i % 8))))

/-- An operation cut short: each bit it would have turned may have turned or not (log 2). -/
def State.flashPart (s : State) (o : FlashOp) : State :=
  let len := if o.erase then 4096 else o.data.length
  let x := s.drawBytes len
  let old := flashBytes s.nv.flash o.addr len
  let put : List Byte := (List.range len).map fun i =>
    let r := nth 0 x.2 i
    if o.erase then nth 0 old i ||| r else nth 0 old i &&& (nth 0 o.data i ||| r)
  x.1.setNv { x.1.nv with flash := ((List.range len).zip put).foldl (fun m e => tset 0xFF m (o.addr + e.1) e.2) x.1.nv.flash }

/-! ### Building a write (16 R402) -/

/-- Sectors of a slot that are not erased, as erase operations, sector 0 first. -/
def erases (fl : Map Byte) (base : Nat) : List FlashOp :=
  (List.range 512).filterMap fun k =>
    if fl.any fun e => base + 4096 * k ≤ e.1 && e.1 < base + 4096 * (k + 1) then some { erase := true, addr := base + 4096 * k, step := 5 }
    else none

/-- The payload of records. -/
def payloadOf (r : List (Nat × List Byte)) : List Byte :=
  r.flatMap fun e => leBytes 4 e.1 ++ leBytes 4 e.2.length ++ e.2 ++ List.replicate (ceilDiv e.2.length 8 * 8 - e.2.length) 0

/-- Records with one replaced, or deleted by empty data. -/
def putRecord (r : List (Nat × List Byte)) (k : Nat) (d : List Byte) : List (Nat × List Byte) :=
  if d.isEmpty then tdel r k else tins k d (tdel r k)

/-- Largest payload (16 R398). -/
def maxPayload : Nat := 2096640

/-- Page programs of a payload, in ascending address order. -/
def pageOps (base : Nat) (p : List Byte) : List FlashOp :=
  (List.range (ceilDiv p.length 256)).map fun k => { addr := base + 0x200 + 256 * k, data := sub p (256 * k) 256, step := 2 }

/-- The operations of a write: the check of step 1, the erases, and steps 2 to 4. -/
def NvSt.planOf (n : NvSt) (p : List Byte) (nrec : Nat) : List FlashOp :=
  let base := slotBase n.mib (if n.active = 0 then 1 else 0)
  let gen := n.gen.toNat + 1
  let skip := match n.busy with | some o => [o.addr] | none => []
  { step := 1 } :: (erases n.flash base).filter (fun o => !skip.contains o.addr) ++ pageOps base p
    ++ [{ addr := base, data := headerOf gen p nrec, step := 3 }, { addr := base + 0x100, data := markerOf gen, step := 4 }]

/-- Reason of the NV controller (16 R410). -/
def nvReason : Nat := 0x6000

/-- A read (16 R406, R410). -/
def State.nvReadNow (s : State) (q : NvReq) : State :=
  let n := s.nv
  if n.active < 2 && (readSlot n.flash (slotBase n.mib n.active)).isNone then s.finish q.ring q.id (unitDown 0x60 0)
  else
    let d := tget [] n.recs q.record
    if q.len < d.length then s.finish q.ring q.id tooShort
    else s.finishWrite q.ring q.id q.addr.toNat d (ok d.length)

/-- The data of a write are read from the host; ACCESS with its REASON where the read fails (16 R401). -/
def State.nvFetch (s : State) (q : NvReq) : State × Except Nat (List Byte) :=
  if q.bad then (s, .error 5) else if q.len = 0 then (s, .ok []) else s.dmaRead q.fn q.addr.toNat q.len

/-- Take the next descriptor, one at a time in order: the data of a write are fetched before its step 1 (16 R401); `k` bounds the descriptors
taken. -/
def State.nvNext (s : State) : Nat → State
  | 0 => s
  | k + 1 =>
    let n := s.nv
    if n.writing.isSome then s
    else
      match n.queue with
      | [] => s
      | q :: r =>
        let s := s.setNv { n with queue := r }
        if q.rd then (s.nvReadNow q).nvNext k
        else
          if maxPayload < (payloadOf (putRecord n.recs q.record (List.replicate q.len 0))).length then (s.finish q.ring q.id tooLong).nvNext k
          else
            match s.nvFetch q with
            | (s, .error r) => (s.finish q.ring q.id (access r)).nvNext k
            | (s, .ok b) =>
              let recs := putRecord n.recs q.record b
              s.setNv { s.nv with writing := some q, plan := n.planOf (payloadOf recs) recs.length,
                                  state := if s.nv.busy.isSome then s.nv.state else 2 }

/-! ### Descriptors -/

/-- A function may touch a record (16 R400). -/
def recordOk (f rec_ : Nat) : Bool := rec_ / 0x1000000 == f || (f == 0 && rec_ == 0xFF000001)

/-- Queue a descriptor that the controller has taken, and start it when it is idle. -/
def State.nvTake (s : State) (q : NvReq) : State :=
  let s := s.take q.ring q.id
  let s := s.setNv { s.nv with queue := s.nv.queue ++ [q] }
  s.nvNext (s.nv.queue.length + 1)

/-- NV_WRITE (16 R401): rights and lengths; `ok` says whether the fetch of its data will be answered. -/
def execNvWrite (ring : Nat) (ok : Bool) (s : State) : Host.Outcome State Fault Refusal :=
  .next (match (s.ring ring).oldest 0x50 with
    | none => s
    | some q =>
      let n := q.desc.argN
      let k := q.desc.arg2N % 2 ^ 32
      if s.nv.state = 4 then s
      else if !recordOk (ring / 8) k then s.finish ring q.id (access 2)
      else if 65536 < n || (k = 0xFF000001 && 512 < n) then s.finish ring q.id tooLong
      else if k = 0xFF000001 && n != 0 && n != 512 then s.finish ring q.id tooShort
      else s.nvTake { ring := ring, id := q.id, fn := ring / 8, record := k, addr := q.desc.addr, len := n, bad := !ok })

/-- NV_READ (16 R406). -/
def execNvRead (ring : Nat) (s : State) : Host.Outcome State Fault Refusal :=
  .next (match (s.ring ring).oldest 0x51 with
    | none => s
    | some q =>
      let k := q.desc.arg2N % 2 ^ 32
      if s.nv.state = 4 then s
      else if !recordOk (ring / 8) k then s.finish ring q.id (access 2)
      else s.nvTake { ring := ring, id := q.id, fn := ring / 8, record := k, rd := true, addr := q.desc.addr, len := q.desc.argN })

/-! ### The gate and the steps (16 R402 to R405) -/

/-- The hold-up estimate covers an operation's worst case plus 2,000 µs; an erase also needs mains (16 R403). -/
def State.gateOpen (s : State) (erase : Bool) : Bool :=
  if erase then s.cfg 0x60 0 2 + 2000 ≤ s.psu.holdup.toNat && !s.psu.mainsLost else s.cfg 0x60 0 1 + 2000 ≤ s.psu.holdup.toNat

/-- An operation is held back. -/
def State.gateHold (s : State) : State :=
  if s.nv.gateSince.isSome then s
  else (s.setNv { s.nv with gateSince := some s.time.tick, state := 1 }).bump 0x60 0 1

/-- The gate passes one operation: the head of the plan goes ahead, the check of step 1 making way for the next. -/
def State.flashStart (s : State) : Nat → State
  | 0 => s
  | k + 1 =>
    match s.nv.plan with
    | [] => s
    | o :: r =>
      if !s.gateOpen o.erase then s.gateHold
      else if o.step = 1 then (s.setNv { s.nv with plan := r, gateSince := none, state := 2 }).flashStart k
      else
        let s := if o.step = 4 then s.bump 0x60 0 0 else s
        s.setNv { s.nv with busy := some o, busyAt := s.time.tick, plan := r, gateSince := none, state := if o.erase then 3 else 2 }

/-- FLASH_OP_START (16 R403). -/
def execFlashOpStart (s : State) : Host.Outcome State Fault Refusal :=
  .next (if s.domOn 61 && s.nv.ok && s.nv.busy.isNone then s.flashStart 2 else s)

/-- Nothing is left to do: STATE 0. -/
def State.nvIdle (s : State) : State :=
  if s.nv.plan.isEmpty && s.nv.busy.isNone && s.nv.writing.isNone then s.setNv { s.nv with state := 0, dirty := false, gateSince := none } else s

/-- A write is abandoned with an outcome; what it programmed waits for erase before the next one (16 R405, R410). -/
def State.nvAbandon (s : State) (o : Outc) : State :=
  let w := s.nv.writing
  let s := s.setNv { s.nv with writing := none, plan := [], gateSince := none, state := 0 }
  let s := match w with | some q => s.finish q.ring q.id o | none => s
  s.nvNext (s.nv.queue.length + 1)

/-- A flash operation has failed (16 R410): an erase of step 5 outside a write leaves its sector to the next operation that needs it. -/
def State.nvFail (s : State) (o : FlashOp) : State :=
  let s := ((s.flashPart o).bump 0x60 0 4).post0 0x70 nvReason
  let s := s.setNv { s.nv with busy := none }
  if s.nv.writing.isSome then s.nvAbandon (unitDown 0x60 0) else s.nvIdle

/-- The marker has been read back: the new slot is active, the write completes and step 5 follows (16 R402). -/
def State.nvCommit (s : State) : State :=
  let n := s.nv
  let old := slotBase n.mib n.active
  let gen := n.gen + 1
  let s := s.setNv { n with active := if n.active = 0 then 1 else 0, gen := gen, writing := none,
                            plan := if n.active < 2 then erases n.flash old else [] }
  let s := match n.writing with | some q => s.finish q.ring q.id (ok (gen.toNat % 2 ^ 32)) | none => s
  ((s.setNv { s.nv with state := if s.nv.plan.isEmpty then s.nv.state else 3 }).nvNext (s.nv.queue.length + 1)).nvIdle

/-- FLASH_OP_DONE (16 R402, R410): the operation has ended; a program is read back. -/
def execFlashOpDone (ok : Bool) (s : State) : Host.Outcome State Fault Refusal :=
  .next (match s.nv.busy with
    | none => s
    | some o =>
      let fl := o.apply s.nv.flash
      if !ok || (!o.erase && flashBytes fl o.addr o.data.length != o.data) then s.nvFail o
      else
        let s := s.setNv { s.nv with flash := fl, busy := none }
        let s := if o.erase then s.bump 0x60 0 3 else s
        if o.step = 4 then s.nvCommit else s.nvIdle)

/-- An operation has been busy for twice its worst-case time, in ticks of 1/48 ms (16 R410). -/
def State.flashLate (s : State) (o : FlashOp) : Bool :=
  s.nv.busyAt.toNat + 2 * s.cfg 0x60 0 (if o.erase then 2 else 1) * 48 / 1000 ≤ s.time.tick.toNat

/-- FLASH_BUSY_TIMEOUT (16 R410): still busy after twice the worst-case time. -/
def execFlashBusyTimeout (s : State) : Host.Outcome State Fault Refusal :=
  .next (match s.nv.busy with
    | none => s
    | some o => if s.flashLate o then s.nvFail o else s)

/-- HOLDUP_LOW (16 R405): one operation of steps 1 to 4 has been held back for NV_WAIT. -/
def execHoldupLow (s : State) : Host.Outcome State Fault Refusal :=
  .next (match s.nv.gateSince, s.nv.plan with
    | some t, o :: _ =>
      if s.nv.writing.isSome && o.step ≤ 4 && t.toNat + s.cfg 0x60 0 3 ≤ s.time.tick.toNat then
        (s.bump 0x60 0 2).nvAbandon { status := 9 }
      else s
    | _, _ => s)

end Sys2Proof.Machine
end

