-- ==== Sys2Proof/Machine/Domains.lean ====
section
/-! DEFINITION. Machine/Domains.lean: what a domain loses when it goes off and how it starts when it comes on, power-ups four at a time
with their POL channels (14 R351, R354, R362), bank power (10 R256), H5 (02 R21), and DOMAIN_POWER_UP_END. -/

namespace Sys2Proof.Machine

/-! ### POL channels (14 R362) -/

/-- The channels of a domain report power good. -/
def State.polGood (s : State) (d : Nat) : State :=
  let m := sumOf (fun k => if bit (s.polMask k) d then 2 ^ k else 0) (List.range 8)
  s.setPwr { s.pwr with polPg := s.pwr.polPg ||| BitVec.ofNat 8 m }

/-! ### What going off loses -/

/-- Memory without the bytes from a to b. -/
def State.dropMem (s : State) (a b : Nat) : State := s.setMem (s.mem.filter fun e => e.1 < a || b ≤ e.1)

/-- The ring engine back at its reset values; token memories are retention cells and stay (04 R98, 14 R353). -/
def State.resetEngine (s : State) : State :=
  let s := (List.range 128).foldl (fun s g => s.resetRing g) s
  let s := (List.range 16).foldl (fun s f =>
    let s := (s.modelFlr fun g => g / 8 == f).marchFlr fun g => g / 8 == f
    let s := [0, 1].foldl (fun s p => (s.macFlr 0x40 p f).herdFlr p f) s
    s.putFn f { tokens := (s.fnOf f).tokens }) s
  let s := (s.setNv { s.nv with queue := [] }).setTests []
  s.setHost { s.host with wins := [], vecs := (s.host.vecs.map fun e => (e.1, { e.2 with n := 0, since := 0 })).filter fun e => e.2 != {} }

/-- Output bus channels of a program read 0 (08 R210, R211). -/
def State.zeroOuts (s : State) (p : Nat) : State :=
  (progOf (tget [] s.cmt.blobs (sid 0x20 p 1))).outs.eraseDups.foldl (fun s c =>
    s.setChurn { s.churn with outBus := tset 0 s.churn.outBus c 0 }) s

/-- Gains of a block act at their TARGET without a ramp (18 R444). -/
def State.gainsToTarget (s : State) (blk : Nat → Bool) : State :=
  s.setAudio { s.audio with gain := (s.audio.gain.map fun e =>
    (e.1, if blk (e.1 / 64) then ({ goal := targetOf (s.cfgW 0x16 (e.1 / 64) (e.1 % 64 * 256 + 1)) } : GainSt) else e.2)).filter fun e => e.2 != {} }

/-- Endpoints whose GAIN lies in fixed audio block 1. -/
def inBlock1 (e : Nat) : Bool := 0x40 ≤ e && e < 0x44

/-- Fixed audio block 0 loses its state. -/
def State.loseBlock0 (s : State) : State :=
  let s := s.gainsToTarget fun e => !inBlock1 e
  s.setAudio { s.audio with hpf := [], meters := s.audio.meters.filter fun e => 256 ≤ e.1 }

/-- Fixed audio block 1 loses its state. -/
def State.loseBlock1 (s : State) : State :=
  let s := s.gainsToTarget inBlock1
  s.setAudio { s.audio with drc := [], meters := s.audio.meters.filter (fun e => e.1 < 256), outLatch := [] }

/-- Models start their hop sequence again; SEP_STEPs that they had taken wait for a hop (09 R236). -/
def State.resetModels (s : State) : State :=
  s.setSep { s.sep with models := s.sep.models.map fun e =>
    (e.1, { e.2 with phase := 0, cur := [], nxt := (match e.2.desc with | some d => d.freshSteps | none => []), beat := 0, pipe := [], old := none,
                     queued := (e.2.cur ++ e.2.nxt).filterMap (·.fed) ++ e.2.queued }) }

/-- A march whose quadrant or engine goes off stops at once (10 R262, 18 R446): a destructive test leaves the bank undefined. -/
def State.marchKill (s : State) : State :=
  let m := s.vat.march
  if !m.busy then s
  else
    let s := s.putMarch {}
    let s := if m.pres then s else s.putBank m.bank { s.bank m.bank with undef := true }
    s.finishWrite m.ring m.id m.addr.toNat (marchBytes m true) (unitReset 0x30 m.bank)

/-- The memory of tile t. -/
def State.clearTile (s : State) (t : Nat) : State :=
  let s := s.dropMem (0x50000000 + t * 0x200000) (0x50000000 + (t + 1) * 0x200000)
  (s.dropMem (0x51000000 + t * 0x2000) (0x51000000 + (t + 1) * 0x2000)).putTile t { skip := (s.tile t).skip, beats := (s.tile t).beats }

/-- The models of a tile make no more beats in this hop (09 R240). -/
def State.missTile (s : State) (t : Nat) : State :=
  s.setSep { s.sep with models := s.sep.models.map fun e =>
    if (e.2.desc.any fun d => d.tiles.contains t) then (e.1, { e.2 with miss := true }) else e }

/-- A PU's stores and registers are lost; with nothing applied they hold what is applied. -/
def State.resetPu (s : State) (p : Nat) : State :=
  let a := 0x60000000 + p * 0x100000
  ((s.zeroOuts p).dropMem a (a + 0x100000)).putPu p
    { loaded := s.cfg 0x20 p 1 == 0 && s.cfg 0x20 p 2 == 0 && s.cfg 0x20 p 3 == 0 }

/-- With the last core off the CPLL is off: a core that returns runs on the bypass (03, Powered by; log 93). -/
def State.cpllOff (s : State) (d : Nat) : State :=
  if [0, 1, 2, 3].any fun c => c != d && s.domOn c then s
  else s.setClk { s.clk with cpllLock := false, onBypass := true, opp := 0, oppTarget := none, oppNext := none }

/-- A bank is no longer On: the condition of a Net port whose buffers it holds goes down, unless the port listens (12 R296, R297, R317). -/
def State.cutPorts (s : State) (b : Nat) : State :=
  [0, 1].foldl (fun s p => if s.cfg 0x40 p 0x13 = b && !(s.net0 p).listening then s.netCut p else s) s

/-- The logic of a domain is lost (14 R354, 17 R415); a port in wake listening keeps its state (14 R360). What the APLL holds, a loss of DISC too,
goes with domain 19 (03 R60 says so of ACQUIRE and HOLDOVER; log 91). -/
def State.domLose (s : State) (d : Nat) : State :=
  if d < 4 then (s.dropCore d).cpllOff d
  else if d = 4 || d = 5 then s.dropL2
  else if d = 6 then
    ((s.setCc { s.cc with plic := {}, mtip := [], mtimecmp := [], msip := [], top := [], coreRun := 0, entry := 0 }).setBus {}).setTime { s.time with mtimeHi := 0 }
  else if d = 7 || d = 8 then
    (let s := s.setClk { s.clk with mpllLock := false }
     if s.cc.selfRef then s
     else (s.setCc { s.cc with ready := false, trainFail := false, memCfg := 0, temp := 0, corr := 0, uncorr := 0, errValid := false,
                               errAddr := 0 }).dropMem 0x80000000 0x10000000000)
  else if d = 9 then s.resetPcie
  else if d = 10 then s.resetEngine
  else if d < 19 then s.resetPu (d - 11)
  else if d = 19 then
    ((s.setChurn { s.churn with outBus := [], patchR := [], patchW := [] }).setClk
      { s.clk with state := .stopped, src := none, slewing := false, srcs := [], hist := [], sinceLock := 100000,
                   failedOver := false, discLost := false, discCount := 0, phErr := 0, lockFor := 0, wclk := 0, mclk := 0 }).setTime
      { s.time with ckeOff := true, slotSeen := if s.time.ckeOff then s.time.slotSeen else s.time.slotSeen / 40 }
  else if d < 28 then s.portStop 0x10 (d - 20)
  else if d < 32 then s.portStop 0x11 (d - 28)
  else if d < 36 then s.portStop 0x12 (d - 32)
  else if d = 36 || d = 37 then
    ((List.range 0x30).filter fun e => isConvEp e && isInEp e == (d == 36)).foldl (fun s e => s.convIdle e) s
  else if d = 38 then s.loseBlock0
  else if d = 39 then s.loseBlock1
  else if d < 48 then (s.clearTile (d - 40)).missTile (d - 40)
  else if d = 48 then s.resetModels
  else if d < 53 then
    (let s := if s.vat.march.busy && s.vat.march.bank / 16 = d - 49 then s.marchKill else s
     (List.range 64).foldl (fun s b => if b / 16 = d - 49 then s.cutPorts b else s) s)
  else if d < 55 then s.netStop (d - 53)
  else if d < 57 then (if (s.herd0 (d - 55)).listening then s else s.herdStop (d - 55))
  else if d < 59 then
    (if (s.herd0 (d - 57)).listening then s
     else (s.herdStop (d - 57)).putHerd (d - 57) { (s.herdStop (d - 57)).herd0 (d - 57) with calCode := 0, calAt := 0 })
  else if d = 60 then s.setDbg {}
  else if d = 61 then s.nvOff
  else if d = 62 then s.marchKill
  else if d = 63 then s.setNet { s.net with mdio := {} }
  else s

/-- The unit whose requests a domain carries (17 R424). -/
def domUnits (d : Nat) : List (Nat × Nat) :=
  if 11 ≤ d && d < 19 then [(0x20, d - 11)]
  else if 40 ≤ d && d < 48 then [(0x28, 0x80 + (d - 40))]
  else if d = 48 then (List.range 16).map fun m => (0x28, m)
  else if d = 53 || d = 54 then [(0x40, d - 53)]
  else if d = 55 || d = 56 then [(0x41, d - 55)]
  else if d = 57 || d = 58 then [(0x41, d - 57)]
  else if d = 61 then [(0x60, 0)] else []

/-- Requests and tests of the units of a domain end UNIT_RESET (17 R424, R431). -/
def State.shedRequests (s : State) (d : Nat) : State :=
  (domUnits d).foldl (fun s u =>
    if s.busyUnit u.1 u.2 || s.tests.any (fun t => t.unitOf == u) || s.offline u.1 u.2 then s.shedUnit u.1 u.2 else s) s

/-- A domain goes off (14 R354). -/
def State.domOff (s : State) (d : Nat) : State :=
  if s.domSt d = .off then s
  else
    let s := s.shedRequests d
    let s := if s.domSt d = .on then s.domLose d else s
    (s.putDom d .off).refreshPol

/-! ### Coming on -/

/-- A core whose domain is on starts from reset (11 R279, R290, 17 R433, R435): core 0 in the boot ROM, the others at SYS_CORE_ENTRY
where their RUN bit is set. -/
def State.coreReset (s : State) (c : Nat) : State :=
  if c = 0 then s.putCore 0 { run := .running }
  else if bit s.cc.coreRun.toNat c then s.putCore c { run := .running, pc := s.cc.entry.setWidth 64 }
  else s.putCore c {}

/-- The logic of a domain starts in its reset state; a unit whose intent is up starts. -/
def State.domStart (s : State) (d : Nat) : State :=
  let port (c p : Nat) : State := if s.intent c p then s.portStart c p s.time.tick else s
  if d < 4 then (if s.clk.opp = 0 && s.cfg 2 0 0x10 != 0 then s.coreReset d |>.startOpp (s.cfg 2 0 0x10) else s.coreReset d)
  else if d = 7 || d = 8 then (if s.domOn 7 && s.domOn 8 then (s.setClk { s.clk with mpllLock := s.cc.selfRef }).setCc { s.cc with selfRef := false } else s)
  else if d = 9 then s.setPcie { s.pcie with training := !s.pcie.perst && s.hostMode }
  else if d = 61 then s.nvStart
  else if 20 ≤ d && d < 28 then port 0x10 (d - 20)
  else if 28 ≤ d && d < 32 then port 0x11 (d - 28)
  else if 32 ≤ d && d < 36 then port 0x12 (d - 32)
  else if d = 36 || d = 37 then
    ((List.range 0x14).filter fun e => isInEp e == (d == 36) && epEn s.cmt.cfg e && s.portRuns (portOfEp e).1 (portOfEp e).2
        && s.portSlave (portOfEp e).1 (portOfEp e).2).foldl
      (fun s e => s.convStart e) s
  else if d = 53 || d = 54 then
    (if s.intent 0x40 (d - 53) && !(s.net0 (d - 53)).listening then s.netStart (d - 53) else s)
  else if 55 ≤ d && d < 59 then
    let p := if d < 57 then d - 55 else d - 57
    (if s.intent 0x41 p && s.domOn (55 + p) && s.domOn (57 + p) && !(s.herd0 p).listening then s.herdStart p else s)
  else s

/-- At most four power-ups run at once, in ascending number (14 R354). -/
def State.pump (s : State) : Nat → State
  | 0 => s
  | n + 1 =>
    match s.pwr.upQ with
    | [] => s
    | d :: r =>
      if 4 ≤ ((List.range 64).filter fun x => s.domSt x == .poweringUp).length then s
      else ((s.setPwr { s.pwr with upQ := r }).putDom d .poweringUp).pump n

/-- A domain that the boot keeps off until the next chip reset (17 R417, R432, R433): the cores after a boot that ends without
firmware, PCIe outside host mode. -/
def State.barred (s : State) (d : Nat) : Bool := (d < 4 && s.boot.coresOff) || (d == 9 && !s.hostMode)

/-- Start powering domains up: those that are on or on their way stay as they are. -/
def State.startUps (s : State) (ds : List Nat) : State :=
  let new := ds.filter fun d => d < 64 && (s.domSt d == .off || s.domSt d == .failed) && !s.pwr.upQ.contains d && !s.barred d
  let s := s.setPwr { s.pwr with upQ := (List.range 64).filter fun d => s.pwr.upQ.contains d || new.contains d }
  (s.pump 64).refreshPol

/-- DOMAIN_POWER_UP_END (14 R354, R365). -/
def execDomainPowerUpEnd (dom : Nat) (ok : Bool) (s : State) : Host.Outcome State Fault Refusal :=
  .next (if 64 ≤ dom || s.domSt dom != .poweringUp then s
    else if ok then ((((s.putDom dom .on).polGood dom).domStart dom).pump 64).refreshPol
    else ((s.putDom dom .failed).pump 64).refreshPol)

/-! ### Banks (10 R256) -/

/-- A bank leaves On or Retention for its POWER; a bank that goes Off loses its contents. -/
def State.bankDown (s : State) (b p : Nat) : State :=
  let r := s.bank b
  if p = 2 then (s.clearBank b).putBank b { r with pwr := .off, toRet := false, fromOff := false, scrub := [] }
  else if r.pwr = .poweringUp && r.fromOff then (s.clearBank b).putBank b { r with pwr := .retention, toRet := false, fromOff := false, scrub := [] }
  else s.putBank b { r with pwr := .retention, toRet := false, fromOff := false }

/-- A bank begins to power up for a projected POWER. -/
def State.bankStart (s : State) (b p : Nat) : State :=
  let r := s.bank b
  if p = 0 && (r.pwr == .off || r.pwr == .retention) then
    s.putBank b { r with pwr := .poweringUp, toRet := false, fromOff := r.pwr == .off }
  else if p = 1 && r.pwr == .off then s.putBank b { r with pwr := .poweringUp, toRet := true, fromOff := true }
  else if p = 0 && r.pwr == .poweringUp && r.toRet then s.putBank b { r with toRet := false }
  else s

/-- Banks take their applied POWER where no pending commit needs them otherwise. -/
def State.h5Bank (s : State) (b : Nat) : State :=
  let r := s.bank b
  let p := s.cfg 0x30 b 2
  let s' := if r.pwr = .on then s.cutPorts b else s
  if s.cmt.queue.any (fun c => c.banks.contains b) then s
  else if p = 0 then s
  else if p = 1 then (if r.pwr == .on || (r.pwr == .poweringUp && !r.toRet) then s'.bankDown b 1 else s)
  else if r.pwr == .off then s else s'.bankDown b 2

/-! ### H5 -/

/-- A domain is wanted: by the applied configuration under the profile in force, or by a pending commit that powered it up. -/
def State.domWanted (s : State) (d : Nat) : Bool := s.effOn d || s.cmt.queue.any fun c => c.doms.contains d

/-- Domains that H5 leaves to later steps: a core until it is parked, the slices until the cores are off, and while a profile that
stops CK_E is entered, or is being left, cores, slices, fabric, LPDDR, ring engine and 19 (11 R279, R291, 14 R359, R364). -/
def State.h5Keeps (s : State) (d : Nat) : Bool :=
  (d < 4 && s.domSt d == .on) || ((d = 4 || d = 5) && [0, 1, 2, 3].any fun c => s.domOn c)
    || ((s.pwr.entry || (s.pwr.phase = 2 && 2 ≤ s.pwr.profile)) && (d ≤ 8 || d = 10 || d = 19))

/-- Domain transitions of H5: slices write back what is still dirty. -/
def State.h5Domains (s : State) : State :=
  let s := s.setPwr { s.pwr with upQ := s.pwr.upQ.filter fun d => s.domWanted d }
  let s := (List.range 64).foldl (fun s d =>
    if s.domWanted d || s.h5Keeps d then s
    else if d = 4 || d = 5 then (if s.domOn 4 && s.domOn 5 then s.flushL2.domOff d else s.domOff d)
    else s.domOff d) s
  let s := (List.range 64).foldl (fun s b => s.h5Bank b) s
  (s.pump 64).refreshPol

end Sys2Proof.Machine
end

