-- ==== Sys2Proof/Machine/Query.lean ====
section
/-! DEFINITION. Machine/Query.lean: what QUERY reads: active copies (05 R115) and the read-only settings of every class (02 R40, 03 R66,
04 R100, 05 R121, 06 R147 to R149, 07 R175, R179, 08 R212, 09 R242, 10 R266, 12 R321, 13 R347 to R349, 14 R367, 15 R395, 16 R413, 17
R437). -/

namespace Sys2Proof.Machine

/-- The applied ledger (02 R40). -/
def State.ledger (s : State) : Ledger :=
  ledgerOf s.cmt.cfg (progsOf s.cmt.cfg s.cmt.blobs) (modelsOf s.cmt.cfg s.cmt.blobs) s.enabledFns.length

/-- Largest entry of a list and its lowest index. -/
def peak (l : List Nat) : Nat × Nat :=
  ((List.range l.length).zip l).foldl (fun b e => if b.1 < e.2 then (e.2, e.1) else b) (0, 0)

/-- Class 0x01. -/
def State.ro01 (s : State) (p : Nat) : Nat :=
  let l := s.ledger
  match p with
  | 0x100 => (peak l.l5).1 | 0x101 => (peak l.l5).2 | 0x102 => (peak l.l4).1 | 0x103 => (peak l.l4).2 | 0x104 => l.l6
  | 0x105 => nth 0 l.l7 0 | 0x106 => nth 0 l.l7 1 | 0x110 => (s.count 0x01 0 0).toNat
  | 0x200 => s.cmt.queue.length | 0x201 => lo32 s.cmt.lastA | 0x202 => hi32 s.cmt.lastA | 0x203 => s.cmt.lastFn.toNat
  | 0x204 => s.cmt.gen.toNat
  | 0x300 => s.boot.mode.toNat | 0x301 => 0xB0 | 0x302 => s.boot.err | 0x303 => s.boot.svn.toNat
  | _ => 0

/-- Class 0x02. -/
def State.ro02 (s : State) (p : Nat) : Nat :=
  let signed (v : Int) : Nat := (wOf v).toNat
  if p = 0x100 then apllCode s.clk.state
  else if p = 0x101 then (match s.clk.src with | some k => k | none => 0xFF)
  else if p = 0x102 then signed s.offsetPpb
  else (let r := s.src (p - 0x110); if r.lost then 0x80000000 else signed r.ppb)

/-- A telemetry item. -/
def State.tele (s : State) (k : Nat) : Nat := (tget 0 s.psu.tele k).toNat

/-- Class 0x03. -/
def State.ro03 (s : State) (i p : Nat) : Nat :=
  let u := s.psu.up.toNat
  if i < 64 then domStCode (s.domSt i)
  else if i = 0x40 then
    match p with
    | 0x100 => s.pwr.profile | 0x101 => s.pwr.wakeCause.toNat | 0x102 => s.pwr.vddMv.toNat
    | 0x110 => s.psu.link
    | 0x111 => fld u 8 3 + 16 * fld u 13 3 + 128 * fld u 11 1 + 256 * fld u 12 1
    | 0x112 => fld u 26 9 | 0x113 => s.tele 0 | 0x114 => 500 * fld u 16 10 | 0x115 => s.psu.vbus | 0x116 => s.psu.iout
    | 0x117 => s.psu.holdup.toNat | 0x118 => s.psu.period.toNat | 0x119 => s.tele 3 | 0x11A => s.psu.linkBad.toNat
    | 0x11B => s.psu.losses.toNat | 0x11C => s.psu.bursts.toNat
    | _ => 0
  else if p = 0x100 then (tget 0 s.pwr.vout (i - 0x80)).toNat else (tget 0 s.pwr.iout (i - 0x80)).toNat

/-- Class 0x28: STATE, START_CY, SPAN_CY. -/
def State.ro28 (s : State) (m p : Nat) : Nat :=
  match (s.model m).desc with
  | none => 0
  | some d =>
    if p = 0x100 then
      (if d.tiles.any (fun t => (s.tile t).skip) then 3 else max 1 (s.model m).phase)
    else if p = 0x102 then d.span * 2048
    else sumOf (fun k => if k < m then (match (s.model k).desc with | some x => x.span * 2048 | none => 0) else 0) (s.group (d.tiles.headD 0))

/-- Spare rows of a bank in use: valid entries that name different rows (10 R263). -/
def State.spares (s : State) (b : Nat) : Nat :=
  (((List.range 4).map fun k => (tget 0 s.vat.repair (4 * b + k)).toNat).filter (bit · 15) |>.map (· % 512)).eraseDups.length

/-- Class 0x30. -/
def State.ro30 (s : State) (i p : Nat) : Nat :=
  if i = 0x40 then (if s.vat.march.busy then s.vat.march.bank else 0xFF)
  else if p = 0x100 then
    (if s.underTest i then 4 else match (s.bank i).pwr with | .off => 0 | .retention => 1 | .on => 2 | .poweringUp => 3)
  else if p = 0x101 then (s.bank i).lastUncorr.toNat
  else s.spares i

/-- Class 0x40. -/
def State.ro40 (s : State) (i p : Nat) : Nat :=
  let r := s.net0 i
  match p with
  | 0x100 => b2n r.link | 0x101 => r.speed | 0x102 => r.adv.toNat | 0x103 => r.thresh
  | 0x104 => b2n r.pauseRx + 2 * b2n r.pauseTx + 4 * b2n (0 < r.pauseLeft) | 0x105 => b2n r.phyAbsent
  | _ => 0

/-- Classes 0x41 to 0x43. -/
def State.ro41 (s : State) (c i p : Nat) : Nat :=
  if c = 0x41 then
    (if p = 0x100 then (s.herd0 i).medium else if p = 0x101 then b2n (s.herd0 i).plcaOk else (s.livePeers i).length)
  else if c = 0x42 then (s.cow i).st
  else if p = 0x101 then (s.stream i).fmt
  else if s.cfg 0x43 i 1 = 0 then 0
  else if s.cond 0x43 i then 2 else 1

/-- Class 0x60. -/
def State.ro60 (s : State) (p : Nat) : Nat :=
  match p with
  | 0x100 => lo32 s.nv.gen | 0x101 => hi32 s.nv.gen | 0x102 => if 2 ≤ s.nv.active then 0xFF else s.nv.active
  | 0x103 => (match readSlot s.nv.flash (slotBase s.nv.mib s.nv.active) with
      | some x => if s.nv.active < 2 && s.nv.ok then x.plen else 0 | none => 0)
  | 0x104 => s.nv.state
  | _ => 0

/-- A read-only setting's value. -/
def State.roValue (s : State) (id : Nat) : Word :=
  let c := id / 0x1000000
  let i := id / 0x10000 % 256
  let p := id % 0x10000
  BitVec.ofNat 32 (
    if c = 0x01 then s.ro01 p
    else if c = 0x02 then s.ro02 p
    else if c = 0x03 then s.ro03 i p
    else if 0x10 ≤ c && c ≤ 0x12 then
      (let r := s.port c i; if p = 0x100 then portStCode r.st else if p = 0x101 then r.hz.toNat else r.frameHz.toNat)
    else if c = 0x13 then (if p = 0x100 then convStCode (s.conv i).st else (s.conv i).factor.toNat)
    else if c = 0x17 then reduction (s.drcOf i).g
    else if c = 0x20 then
      (if p = 0x100 then b2n (s.intent 0x20 i) else ((s.pu i).glides.filter fun g => g.2.moving).length)
    else if c = 0x28 then s.ro28 i p
    else if c = 0x30 then s.ro30 i p
    else if c = 0x40 then s.ro40 i p
    else if 0x41 ≤ c && c ≤ 0x43 then s.ro41 c i p
    else if c = 0x50 then 0xFF
    else if c = 0x60 then s.ro60 p
    else if c = 0x70 then s.tests.length + b2n s.vat.march.busy
    else 0)

/-- What QUERY by function f answers for an ID; none where it does not exist or may not be read (05 R115). -/
def State.queryValue (s : State) (f id : Nat) : Option Word :=
  if f != 0 && id / 0x1000000 = 0x50 && id / 0x10000 % 256 != f then none
  else
    match s.catalogueRow id with
    | .unknown => none
    | .noUnit => none
    | .ro => some (s.roValue id)
    | .rw _ _ => some (cfgOf s.cmt.cfg id)

/-- Fill entries until one cannot be read: the bytes written back and how many were filled. -/
def State.fillQuery (s : State) (f : Nat) : List (List Byte) → List Byte × Nat
  | [] => ([], 0)
  | e :: r =>
    match s.queryValue f (leAt e 0 4) with
    | none => ([], 0)
    | some v => let x := s.fillQuery f r; (e.take 4 ++ leBytes 4 v.toNat ++ x.1, x.2 + 1)

/-- QUERY (04 R78, 05 R115): the list is read, unless the read fails (04 R95), and written back with the values. -/
def execQuery (list : QueryRead) (s : State) : Host.Outcome State Fault Refusal :=
  let ring := list.ring
  .next (match (s.ring ring).oldest 3 with
    | none => s
    | some q =>
      let f := ring / 8
      if !s.domOn 19 then s.finish ring q.id (unitDown 1 0)
      else if !list.ok then s.finish ring q.id (access 5)
      else
        match s.dmaRead f q.desc.addrN (8 * q.desc.len16) with
        | (s1, .error r) => s1.finish ring q.id (access r)
        | (s1, .ok b) =>
          let x := s1.fillQuery f (groups 8 q.desc.len16 b)
          if x.2 = 0 then s1.finish ring q.id (Machine.ok 0) else s1.finishWrite ring q.id q.desc.addrN x.1 (Machine.ok x.2))

end Sys2Proof.Machine
end

