-- ==== Sys2Proof/Machine/Commit.lean ====
section
/-! DEFINITION. Machine/Commit.lean: commits from their descriptor to their loading (04 R90 to R92, 05 R103 to R111, 02 R26, R27):
the block, checks C1 to C8, the apply tick, re-checks, quiesce, loading, and held blobs (05 R110). -/

namespace Sys2Proof.Machine

/-! ### The commit block (05 R103) -/

/-- MAGIC and VERSION. -/
def blockMarked (b : List Byte) : Bool := leAt b 0 4 == 0xC0A17160 && leAt b 4 1 == 1
def nBlobs (b : List Byte) : Nat := leAt b 6 2
def nTuples (b : List Byte) : Nat := leAt b 8 4

/-- C3: the reason of its first failing part (05 R108). -/
def blockFail (b : List Byte) (len : Nat) : Option Nat :=
  if !blockMarked b then some 3
  else if 32 < nBlobs b || 8192 < nTuples b then some 4
  else if len != 32 + 24 * nBlobs b + 8 * nTuples b then some 2 else none

/-- Blob table entries: BLOB_ID, LENGTH, ADDR. -/
def blobEnts (b : List Byte) : List (Nat × Nat × Nat) :=
  (groups 24 (nBlobs b) (b.drop 32)).map fun e => (leAt e 0 4, leAt e 4 4, leAt e 8 8)

/-- Tuples. -/
def tuplesOf (b : List Byte) : List (Nat × Word) :=
  (groups 8 (nTuples b) (b.drop (32 + 24 * nBlobs b))).map fun e => (leAt e 0 4, BitVec.ofNat 32 (leAt e 4 4))

/-! ### The blob store (05 R105, R120) -/

/-- The store lies in usable LPDDR5. -/
def State.storeDdr (s : State) : Bool := 0x80000000 ≤ s.storeBounds.1

/-- The store region is wholly in the Vats or wholly in usable LPDDR5. -/
def State.storeUsable (s : State) : Bool :=
  let r := s.storeBounds
  r.1 < r.2 && ((0x40000000 ≤ r.1 && r.2 ≤ 0x41000000) || (0x80000000 ≤ r.1 && r.2 ≤ 0x80000000 + s.usable))

/-- Pages for a new blob: the lowest that nothing holds; none where too few are free (05 R105; which of the free pages, log 97). -/
def State.allocPages (s : State) (n : Nat) : Option (List Nat) :=
  let used := s.usedPages
  if s.storeUsable && decide (used.length + n ≤ s.cmt.storePages.toNat) then
    some (((List.range (used.length + n)).filter fun k => !used.contains k).take n)
  else none

/-- Internal address of a page of the store. -/
def State.pageAddr (s : State) (k : Nat) : Nat := s.storeBounds.1 + 4096 * k

/-- The commit unit's access to `n` bytes at an address is refused: captured at its first refused line (01 R15, log 88). -/
def State.storeRefused (s : State) (a n : Nat) (write : Bool) : State × Bool :=
  match (linesOf a n).find? (fun x => (s.refusal 5 x write).isSome) with
  | some x => (s.capture 5 0 ((s.refusal 5 x write).getD 0) x write, true)
  | none => (s, false)

/-- The commit unit writes the content of a blob into its pages: false where the fabric refuses a part of it (05 R105). -/
def State.storeBlob (s : State) (bs : List Byte) : List Nat → State × Bool
  | [] => (s, true)
  | k :: r =>
    let a := s.pageAddr k
    match s.storeRefused a (min 4096 bs.length) true with
    | (s1, true) => (s1, false)
    | (s1, false) =>
      let s2 := if inVats a then (s1.vatStores a (bs.take 4096) []).1 else s1.busWrite a (bs.take 4096)
      s2.storeBlob (bs.drop 4096) r

/-- The commit unit reads `n` bytes from pages: none where a part is refused, poisoned or uncorrectable (05 R109 LOAD_FAULT). -/
def State.readBlob (s : State) (n : Nat) : List Nat → State × Option (List Byte)
  | [] => (s, some [])
  | k :: r =>
    let a := s.pageAddr k
    let m := min 4096 n
    match s.storeRefused a m false with
    | (s1, true) => (s1, none)
    | (s1, false) =>
      let t : State × Bool := if inVats a then s1.vatTouches (vatWords a m) else (s1, s1.poisonedIn a m)
      if t.2 then (t.1, none)
      else
        match t.1.readBlob (n - m) r with
        | (s2, some l) => (s2, some (t.1.busBytes a m ++ l))
        | x => x

/-- A held blob of a function. -/
def State.heldBlob (s : State) (f id : Nat) : Option Held := s.cmt.held.find? fun h => h.fn = f && h.id = id

/-! ### COMMIT (04 R90, R92; 05 C1, C2) -/

/-- What the blobs of a table are fetched to: content and pages of each entry. -/
abbrev Fetched : Type := List ((Nat × List Byte) × Option (List Nat))

/-- Fetch the blobs of a table into the store: the ACCESS reason where one fails a window check, the DMA or the store. An entry that finds too few
pages, or whose LENGTH no blob has, is not fetched. -/
def State.fetchBlobs (s : State) (ring id f : Nat) : List (Nat × Nat × Nat) → State × Except Nat Fetched
  | [] => (s, .ok [])
  | e :: r =>
    match s.allocPages (pagesOf e.2.1) with
    | none =>
      (match s.fetchBlobs ring id f r with
      | (s1, .ok l) => (s1, .ok (((e.1, []), none) :: l))
      | x => x)
    | some ps =>
      if !blobLenOk e.2.1 then
        (match s.fetchBlobs ring id f r with
        | (s1, .ok l) => (s1, .ok (((e.1, []), some []) :: l))
        | x => x)
      else
        match s.dmaRead f e.2.2 e.2.1 with
        | (s1, .error k) => (s1, .error k)
        | (s1, .ok b) =>
          let own (c : Commit) : Commit := if c.isReq ring id then { c with pages := c.pages ++ ps } else c
          match (s1.putQueue (s1.cmt.queue.map own)).storeBlob b ps with
          | (s2, false) => (s2, .error 5)
          | (s2, true) =>
            match s2.fetchBlobs ring id f r with
            | (s3, .ok l) => (s3, .ok (((e.1, b), some ps) :: l))
            | x => x

/-- A commit with its block. -/
def Commit.withBlock (c : Commit) (b : List Byte) : Commit :=
  { c with fetching := false, raw := b, notAfter := BitVec.ofNat 64 (leAt b 0x10 8),
           tuples := if (blockFail b c.len).isSome then [] else tuplesOf b }

/-- The block and the blobs of a pending commit are fetched, or what failed is kept for its check (04 R90, R92). -/
def State.fetchCommit (s : State) (c : Commit) (q : Req) (got : CommitRead) : State :=
  let put (s : State) (c' : Commit) : State := s.putQueue (s.cmt.queue.map fun x => if x.isReq c.ring c.id then { c' with pages := x.pages } else x)
  if !got.ok then put s { c with fetching := false, fetchErr := some 5 }
  else
    match s.dmaRead (c.ring / 8) q.desc.addrN c.len with
    | (s1, .error r) => put s1 { c with fetching := false, fetchErr := some r }
    | (s1, .ok b) =>
      let c1 := { c.withBlock b with cells := got.cells }
      match s1.fetchBlobs c.ring c.id (c.ring / 8) (if (blockFail b c.len).isSome then [] else blobEnts b) with
      | (s2, .error r) => put s2 { c1 with fetchErr := some r }
      | (s2, .ok l) => put s2 { c1 with blobs := l.map (·.1), slots := l.map (·.2) }

/-- COMMIT (04 R90, R92): the block and the blobs of the oldest pending COMMIT of a ring are fetched. -/
def execCommit (ring : Nat) (got : CommitRead) (s : State) : Host.Outcome State Fault Refusal :=
  .next (if !s.domOn 19 then s
    else
      match s.cmt.queue.find? (fun c => c.fn.isSome && c.ring == ring && c.fetching) with
      | none => s
      | some c =>
        match (s.ring ring).reqs.find? (fun q => q.id = c.id) with
        | none => s
        | some q => s.fetchCommit c q got)

/-! ### C4 to C8 -/

/-- C4 (05 R108). -/
def State.c4 (s : State) (c : Commit) : Bool :=
  (c.target = 0 || c.target.toNat ≤ s.time.tick.toNat + 2 ^ 31) && (c.notAfter = 0 || c.target.toNat ≤ c.notAfter.toNat)

/-- C6 of table entry i (05 R108). -/
def entryFail (c : Commit) (ents : List (Nat × Nat × Nat)) (i : Nat) : Option Nat :=
  let e := nth (0, 0, 0) ents i
  if (nth none c.slots i).isNone then some 0x20
  else if e.1 = 0 || (ents.take i).any (fun x => x.1 == e.1) then some 0x21
  else blobCheck (nth (0, []) c.blobs i).2 e.2.1

/-- A blob-typed tuple resolved: content, pages, and the held BLOB_ID used if any (05 R106). -/
def State.resolveBlob (s : State) (c : Commit) (v : Nat) : Option (List Byte × List Nat × Option Nat) :=
  match firstFrom (fun i => (nth (0, []) c.blobs i).1 == v) c.blobs.length with
  | some i => some ((nth (0, []) c.blobs i).2, (nth none c.slots i).getD [], none)
  | none => (s.heldBlob (c.fn.getD 0) v).map fun h => (h.bytes, h.pages, some v)

/-- C6 of the tuples in order: setting, content and pages of each, and what is pinned; or index and reason. -/
def State.resolveTuples (s : State) (c : Commit) :
    Nat → List (Nat × Word) → Except (Nat × Nat) (List (Nat × List Byte × List Nat) × List Nat)
  | _, [] => .ok ([], [])
  | k, t :: r =>
    match blobKind t.1 with
    | none => s.resolveTuples c (k + 1) r
    | some kv =>
      if t.2.toNat = 0 then s.resolveTuples c (k + 1) r
      else
        match s.resolveBlob c t.2.toNat with
        | none => .error (k, 0x23)
        | some (b, ps, pin) =>
          if blobKindOf b != kv.1 || blobVersion b != kv.2 then .error (k, 0x24)
          else
            match s.resolveTuples c (k + 1) r with
            | .ok (l, p) => .ok ((t.1, b, ps) :: l, pin.toList ++ p)
            | .error e => .error e

/-- C6: the outcome of its first failure, or the commit with its blobs resolved and pinned. -/
def State.c6 (s : State) (c : Commit) : Except Outc Commit :=
  let ents := blobEnts c.raw
  match (List.range ents.length).findSome? fun i => (entryFail c ents i).map fun r => (i, r) with
  | some (i, r) => .error (rejected r (0x80000000 + i))
  | none =>
    match s.resolveTuples c 0 c.tuples with
    | .error (i, r) => .error (rejected r i)
    | .ok (l, p) => .ok { c with resolved := l.map (fun x => (x.1, x.2.1)), refs := l.map (fun x => (x.1, x.2.2)), pins := p }

/-- The buffers of rings, streams and MACs in Vats, in samples (10 R248, 12 R295, 13 R324, R343). -/
def State.bufRegions (s : State) (m : Map Word) : List (Nat × Nat) :=
  let at_ (bank byte n : Nat) : Option (Nat × Nat) :=
    if bank < 64 && 0 < n then some (bank * 65536 + byte / 4, bank * 65536 + (byte + n) / 4) else none
  ((List.range 128).filterMap fun g => at_ (cfgN m 0x30 0x41 g) (s.haudio g).base (stageSize m g))
    ++ ((List.range 32).filterMap fun k => at_ (cfgN m 0x43 (0x20 + k) 0xA) (s.stream (0x20 + k)).base (streamSize m (0x20 + k)))
    ++ ([0, 1].flatMap fun p => [(0x40, 0x13), (0x41, 0xD)].filterMap fun c =>
      if cfgN m c.1 p 1 = 1 then at_ (cfgN m c.1 p c.2) (p * 0x20000) 0x20000 else none)

/-- What C7 and C8 look at. -/
def State.viewOf (s : State) (x0 x1 : Proj) (c : Commit) : View :=
  { m0 := x0.m, m := x1.m, b := x1.b, progs0 := progsOf x0.m x0.b, progs := progsOf x1.m x1.b, models0 := modelsOf x0.m x0.b,
    models := modelsOf x1.m x1.b, tuples := c.tuples, fn := c.fn.getD 0, profile := x1.profile, fns := s.enabledFns.length,
    store := s.storeBounds, bufs0 := s.bufRegions x0.m, standalone := s.standalone }

/-- C7 and C8: reason and locator, or BUDGET (05 R108, 02 R31). -/
def State.c78 (s : State) (x0 x1 : Proj) (c : Commit) : Option Outc :=
  let v := s.viewOf x0 x1 c
  match v.c7 with
  | some (r, ids) => some (rejected r (locator c.tuples ids))
  | none =>
    ((ledgerOf v.m v.progs v.models v.fns).fail).map fun r => { status := 0xC, reason := BitVec.ofNat 16 r, result := BitVec.ofNat 32 noLoc }

/-- C3 to C8 of a commit with `k` ahead of it. -/
def State.checkAll (s : State) (k : Nat) (c : Commit) : Except Outc Commit :=
  let f := c.fn.getD 0
  let x0 := s.projAt k
  match blockFail c.raw c.len with
  | some r => .error (rejected r noLoc)
  | none =>
    if !s.c4 c then .error (rejected 5 noLoc)
    else
      match s.c5 x0.m f c.tuples with
      | some (i, r) => .error (rejected r i)
      | none =>
        match s.c6 c with
        | .error o => .error o
        | .ok c1 =>
          match s.c78 x0 (x0.after s.cowActive c1) c1 with
          | some o => .error o
          | none => .ok c1

/-! ### The apply tick (02 R26, 05 R113, 17 R424) -/

/-- Endpoints whose routing has the alignment of a block: host rings and Herdline streams. -/
def blockEp (e : Nat) : Bool := 0x80 ≤ e || (0x20 ≤ e && e < 0x40)

/-- Hop length of a configuration. -/
def Proj.hop (x : Proj) : Nat := cfgN x.m 0x28 0x40 1

/-- Alignment of a tuple between two configurations. -/
def tupleAlign (x0 x1 : Proj) (t : Nat × Word) : Nat :=
  let c := t.1 / 0x1000000
  let i := t.1 / 0x10000 % 256
  let p := t.1 % 0x10000
  let ep (r : Nat) : Bool := r != 0xFFFF && blockEp (r / 64)
  if c = 0x28 then max x0.hop x1.hop
  else if c = 0x43 || (c = 0x30 && i = 0x41) then 48
  else if c = 0x50 then (if p = 0 || 0x100 ≤ p then 48 else 1)
  else if c = 0x14 then
    (if i = 0 then (if ep t.2.toNat || ep (cfgOf x0.m t.1).toNat then 48 else 1) else if blockEp (p / 64) then 48 else 1)
  else 1

/-- Alignment of a commit by its tuples. -/
def alignOf (x0 x1 : Proj) (c : Commit) : Nat := c.tuples.foldl (fun a t => max a (tupleAlign x0 x1 t)) 1

/-- A domain is on in a configuration (14 R352). -/
def Proj.effOn (x : Proj) (d : Nat) : Bool := cfgN x.m 3 d 1 == 1 && !profileSheds x.m x.profile d

/-- The model descriptor of a configuration. -/
def Proj.modelDesc (x : Proj) (m : Nat) : Option ModelDesc :=
  if cfgN x.m 0x28 m 1 = 0 then none else some (descriptorOf (tget [] x.b (sid 0x28 m 1)))

/-- Tiles of a commit's MODEL and WEIGHTS tuples that are not 0, and of its LUTS tuples (05 R113). -/
def loadTiles (x1 : Proj) (c : Commit) : List Nat :=
  (c.tuples.flatMap fun (t : Nat × Word) =>
    let i := t.1 / 0x10000 % 256
    if t.1 / 0x1000000 != 0x28 then []
    else if 0x80 ≤ i then [i - 0x80]
    else if i < 16 && t.2.toNat != 0 then (match x1.modelDesc i with | some d => d.tiles | none => [])
    else []).eraseDups

/-- Tiles that a model of a configuration uses. -/
def Proj.usedTiles (x : Proj) : List Nat := ((List.range 16).flatMap fun m => match x.modelDesc m with | some d => d.tiles | none => []).eraseDups

/-- Tiles in the projection ahead that a commit reloads. -/
def reloadTiles (x0 x1 : Proj) (c : Commit) : List Nat := (loadTiles x1 c).filter fun t => x0.usedTiles.contains t

/-- Units that a function's commit quiesces from H4 of tick A - 5 (17 R424). -/
def State.quiesceUnits (s : State) (x0 x1 : Proj) (c : Commit) : List (Nat × Nat) :=
  if c.fn.isNone then []
  else
    ((c.tuples.flatMap fun (t : Nat × Word) =>
      let i := t.1 / 0x10000 % 256
      let p := t.1 % 0x10000
      if t.1 / 0x1000000 = 0x20 && p = 1 && t.2.toNat != 0 then
        (if (progOf (tget [] x1.b t.1)).reinit then [(0x20, i)] else [])
      else if t.1 / 0x1000000 = 0x28 && i < 16 then [(0x28, i)] else [])
    ++ ((List.range 64).flatMap fun d => if x0.effOn d && !x1.effOn d then (domUnits d).filter fun (u : Nat × Nat) => s.busyUnit u.1 u.2 else [])).eraseDups

/-- The smallest multiple of an alignment at or above a bound. -/
def alignUp (al lo : Nat) : Nat := ceilDiv lo al * al

/-- Alignment of the commit with `k` ahead of it: 1 T for the first that applies on the reset configuration (02 R38). -/
def State.alignAt (s : State) (k : Nat) (x0 x1 : Proj) (c : Commit) : Nat := if k = 0 && !s.cmt.applied then 1 else alignOf x0 x1 c

/-- The apply tick of a commit with `k` ahead of it, whose check completes in tick n. -/
def State.applyTick (s : State) (x0 x1 : Proj) (prev n k : Nat) (c : Commit) : Nat :=
  let first := c.quiesce.isNone
  let lo := max (max (n + (if first && !(s.quiesceUnits x0 x1 c).isEmpty then 6 else 2)) c.target.toNat) (prev + 1)
  let lo := if first && !(reloadTiles x0 x1 c).isEmpty then max lo (n + x0.hop + 1) else lo
  alignUp (s.alignAt k x0 x1 c) lo

/-- Apply tick of the last of the first k commits. -/
def State.prevA (s : State) (k : Nat) : Nat := (s.cmt.queue.take k).foldl (fun a c => max a c.applyAt.toNat) 0

/-- The rejection LATE, when the apply tick is past NOT_AFTER. -/
def lateOutc (c : Commit) (a : Nat) : Option Outc :=
  if c.notAfter != 0 && c.notAfter.toNat < a then some (rejected 0x41 (a % 2 ^ 32)) else none

/-! ### Loading (05 R111, 10 R256, R262, 14 R354) -/

/-- Replace the commit at the head. -/
def State.putHead (s : State) (c : Commit) : State := s.putQueue (c :: s.cmt.queue.drop 1)

/-- Domains of the unit that a setting belongs to (14 R351). -/
def tupleDoms (x1 : Proj) (id : Nat) : List Nat :=
  let c := id / 0x1000000
  let i := id / 0x10000 % 256
  if c = 0x03 && i < 64 then [i]
  else if 0x10 ≤ c && c ≤ 0x12 then [portDom c i]
  else if c = 0x20 then [11 + i]
  else if c = 0x28 then
    (if 0x80 ≤ i then [40 + (i - 0x80), 48]
     else 48 :: (match x1.modelDesc i with | some d => d.tiles.map (40 + ·) | none => []))
  else if c = 0x30 && i < 64 then [49 + i / 16]
  else if c = 0x40 then [53 + i]
  else if c = 0x41 then [55 + i, 57 + i]
  else []

/-- DOMAINS of POL channel `k` in a configuration. -/
def Proj.polMask (x : Proj) (k : Nat) : Nat := cfgN x.m 3 (0x80 + k) 2 + 2 ^ 32 * cfgN x.m 3 (0x80 + k) 3

/-- A domain lies in a mask of a POL channel that a commit changes (20 R460). -/
def remasked (x0 x1 : Proj) (d : Nat) : Bool := (List.range 8).any fun k => x0.polMask k != x1.polMask k && bit (x1.polMask k) d

/-- Domains that a commit powers up and waits for (05 R111, 14 R354, 20 R460): off, on in the configuration it leaves, and turned on by
it, holding a unit that it names (log 36), or failed and on a POL channel whose mask it changes. -/
def State.neededDoms (s : State) (x0 x1 : Proj) (c : Commit) : List Nat :=
  let named := c.tuples.flatMap fun (t : Nat × Word) => tupleDoms x1 t.1
  (List.range 64).filter fun d => x1.effOn d && s.domSt d != .on && !s.barred d
    && (!x0.effOn d || named.contains d || (s.domSt d == .failed && remasked x0 x1 d))

/-- Other domains that stay off for a failed POL channel which feeds one of these too (14 R365). -/
def State.polMates (s : State) (ds : List Nat) : List Nat :=
  (List.range 64).filter fun d => s.effOn d && s.domSt d == .failed && ds.any fun e =>
    (List.range 8).any fun k => bit (s.polMask k) d && bit (s.polMask k) e

/-- Banks that a configuration needs in a higher power state. -/
def State.neededBanks (s : State) (x : Proj) : List Nat :=
  (List.range 64).filter fun b =>
    let p := cfgN x.m 0x30 b 2
    let r := s.bank b
    (p == 0 && r.pwr != .on) || (p == 1 && (r.pwr == .off || (r.pwr == .poweringUp && r.fromOff)))

/-- A bank has reached the state that a POWER asks for. -/
def State.bankReached (s : State) (b p : Nat) : Bool :=
  let r := s.bank b
  p == 2 || (p == 0 && r.pwr == .on) || (p == 1 && (r.pwr == .on || r.pwr == .retention))

/-- Loading stops a march that the commit cannot run beside (10 R262). For a profile that stops CK_E a preserving test completes UNIT_RESET, and a
destructive one stops when its engine's domain goes (18 R446 and its table). -/
def State.loadMarch (s : State) (c : Commit) (x1 : Proj) : State :=
  let m := s.vat.march
  let p := cfgN x1.m 0x30 m.bank 2
  if !m.busy then s
  else if c.fn.isNone && 2 ≤ x1.profile then (if m.pres then s.marchFinish true (unitReset 0x30 m.bank) else s)
  else if m.pres then (if p != 0 then s.marchStop true else s)
  else if cfgN x1.m 0x30 m.bank 1 != 0 || p != s.cfg 0x30 m.bank 2 then s.marchStop true else s

/-- The shadow copies of programs and coefficients (01 R14). -/
def State.loadShadow (s : State) (c : Commit) : State :=
  c.resolved.foldl (fun s r =>
    let i := r.1 / 0x10000 % 256
    let a := 0x60000000 + i * 0x100000
    if r.1 = sid 0x20 i 1 then
      s.setMem (memPut s.mem a ((progOf r.2).words.flatMap fun w => leBytes 8 w))
    else if r.1 = sid 0x20 i 2 then s.setMem (memPut s.mem (a + 0x40000) (sub r.2 16 16384))
    else s) s

/-- The Vat tables that a commit loads, by setting ID (08 R207). -/
def State.vtabItems (s : State) (x0 x1 : Proj) (c : Commit) : List (Nat × Geom) :=
  (s.viewOf x0 x1 c).vtabLoads.map fun l => (sid 0x20 l.1 (0x10 + l.2.1), l.2.2)

/-- Banks that a line or Vat table lies in. -/
def Geom.banks (g : Geom) : List Nat := (List.range (g.lastBank + 1 - g.bank)).map (g.bank + ·)

/-- Setting ID that stands for a tile. -/
def tileId (t : Nat) : Nat := sid 0x28 (0x80 + t) 1

/-- Vat tables still to load, whose banks are On or come up for the commit. -/
def State.vtabsLeft (s : State) (x0 x1 : Proj) (c : Commit) : List (Nat × Geom) :=
  (s.vtabItems x0 x1 c).filter fun v => !c.done.contains v.1 && v.2.banks.all fun b => s.bankOn b || c.banks.contains b

/-- Tiles still to load, whose domains are on or come up for the commit. -/
def State.tilesLeft (s : State) (x1 : Proj) (c : Commit) : List Nat :=
  (loadTiles x1 c).filter fun t => !c.done.contains (tileId t) && (s.domOn (40 + t) || c.doms.contains (40 + t))

/-- Everything that has no shadow copy is loaded. -/
def State.allLoaded (s : State) (c : Commit) : Bool :=
  let x1 := s.applied.after s.cowActive c
  c.fn.isNone || ((s.vtabsLeft s.applied x1 c).isEmpty && (s.tilesLeft x1 c).isEmpty)

/-- Words at the two ends of a region that it shares with its neighbours. -/
def edgeWords (a n : Nat) : List Nat :=
  (if a % 8 = 0 then [] else [a / 8 * 8]) ++ (if (a + n) % 8 = 0 then [] else [(a + n) / 8 * 8])

/-- The shared words of a table's region that a port A write of a delay line meets in the cycle of the load: a free value (10 R251, log 89). -/
def State.edgeClash (s : State) (a n : Nat) : State × List Nat :=
  let ws := edgeWords a n
  if ws.isEmpty || s.cfg 0x30 (vatBankOf a) 1 != 1 then (s, [])
  else
    let x := s.draw
    (x.1, nth [] ([] :: ws.map fun w => [w]) (x.2.toNat % (ws.length + 1)))

/-- Mark an item of the head as loaded. -/
def State.markDone (s : State) (id : Nat) : State :=
  match s.cmt.queue with
  | [] => s
  | c :: _ => s.putHead { c with done := id :: c.done }

/-- The commit unit writes a Vat table into its region through port B (08 R207); a write that is lost ends the commit (10 R252). The bank admits it
by the role that the commit leaves (log 97). -/
def State.loadVtab (s : State) (x1 : Proj) (c : Commit) (v : Nat × Geom) : State :=
  if !(s.cmt.queue.head?.any fun h => h.isReq c.ring c.id) then s
  else
    let bs := sub (tget [] x1.b v.1) 16 (4 * v.2.len)
    let x := s.edgeClash (v.2.addr 0) bs.length
    let s := (x.1.vatStores (v.2.addr 0) bs x.2).1
    if x.2.isEmpty then s.markDone v.1
    else (x.2.foldl (fun s w => s.wlost (vatBankOf w)) s).failCommit c (rejected 0x42 noLoc)

/-- The bytes of the tables of a tile: those of its LUTS, or the built-in ones. -/
def lutBytes (x : Proj) (t : Nat) : List Byte :=
  if cfgN x.m 0x28 (0x80 + t) 1 = 0 then
    (let one := (List.range 1024).flatMap fun i => leBytes 4 (builtinEntry i)
     one ++ one)
  else sub (tget [] x.b (sid 0x28 (0x80 + t) 1)) 16 8192

/-- The tables of a tile are written. -/
def State.putLuts (s : State) (x : Proj) (t : Nat) : State :=
  s.setMem (memPut s.mem (0x51000000 + t * 0x2000) (lutBytes x t))

/-- Weights and biases of the layers on tile `t` from a weights blob; `o` is the offset of the next layer in it (09 R226). -/
def State.putWeights (s : State) (t : Nat) (b : List Byte) : Nat → List Layer → State
  | _, [] => s
  | o, l :: r =>
    let next := o + l.wBytes + 4 * l.bWords
    if l.tile != t then s.putWeights t b next r
    else
      let bw := wordsAt b (o + l.wBytes) 4 l.bWords
      let s := s.setMem (memPut s.mem (0x50000000 + t * 0x200000 + l.wOff) (sub b o l.wBytes))
      let u := s.tile t
      let bias := ((List.range bw.length).zip bw).foldl (fun m e => tset 0 m (l.bOff + e.1) (BitVec.ofNat 32 e.2)) u.bias
      (s.putTile t { u with bias := bias }).putWeights t b next r

/-- A commit loads the weights of a model: a MODEL or WEIGHTS tuple that is not 0 (05 R113). -/
def Commit.weighs (c : Commit) (m : Nat) : Bool :=
  c.tuples.any fun t => (t.1 == sid 0x28 m 1 || t.1 == sid 0x28 m 2) && t.2 != 0

/-- A tile takes the weights, biases and tables that a commit gives it (05 R113). -/
def State.loadTile (s : State) (x1 : Proj) (c : Commit) (t : Nat) : State :=
  let s := (List.range 16).foldl (fun s m =>
    match x1.modelDesc m with
    | some d => if c.weighs m then s.putWeights t (tget [] x1.b (sid 0x28 m 2)) 16 d.layers else s
    | none => s) s
  (s.putLuts x1 t).markDone (tileId t)

/-- A tile may be written: its domain is on, no TEST runs on it, and where a model of the applied configuration uses it, its group runs no steps
in this hop (05 R113). -/
def State.tileFree (s : State) (t : Nat) : Bool :=
  s.domOn (40 + t) && !(s.tests.any fun x => x.kind = 2 && x.inst = t) && (!s.applied.usedTiles.contains t || (s.tile t).skip)

/-- What the head has to load beside its shadow copies, once its contents are there: Vat tables whose banks are On, and tiles that may be
written (05 R113, 08 R207). -/
def State.loadDue (s : State) : State :=
  match s.cmt.queue with
  | [] => s
  | c :: _ =>
    if c.fn.isNone || c.loadedAt.isNone || c.recheck then s
    else
      let x1 := s.applied.after s.cowActive c
      let vs := (s.vtabsLeft s.applied x1 c).filter fun v => v.2.banks.all fun b => s.bankOn b
      let ts := (s.tilesLeft x1 c).filter fun t => s.tileFree t
      let s := vs.foldl (fun s v => s.loadVtab x1 c v) s
      ts.foldl (fun s t => if s.cmt.queue.head?.any (fun h => h.isReq c.ring c.id) then s.loadTile x1 c t else s) s

/-- The contents of the blob-typed tuples are read back from the store; none where a read fails (05 R109). -/
def State.readRefs (s : State) (c : Commit) : List (Nat × List Byte) → State × Option (List (Nat × List Byte))
  | [] => (s, some [])
  | r :: l =>
    match s.readBlob r.2.length (tget [] c.refs r.1) with
    | (s1, none) => (s1, none)
    | (s1, some b) =>
      match s1.readRefs c l with
      | (s2, some x) => (s2, some ((r.1, b) :: x))
      | x => x

/-- The contents of the head have come: they are in shadow state from the next H4 on, or a read of them, or of its tuples from the retention
cells, is uncorrectable and the commit ends LOAD_FAULT (05 R109, R111, R112). -/
def State.loaded (s : State) (c : Commit) : State :=
  match s.readRefs c c.resolved with
  | (s1, none) => s1.failCommit c (rejected 0x42 noLoc)
  | (s1, some l) =>
    if !c.cells then s1.failCommit c (rejected 0x42 noLoc) else
    let c1 := { c with loading := true, loadedAt := some (s.time.tick + 1), resolved := l }
    ((s1.putHead c1).loadShadow c1).loadDue

/-- The head begins to load: its power-ups start, and its contents are read. From a store in LPDDR5 they come when the bus side gives
them. -/
def State.startLoad (s : State) : State :=
  match s.cmt.queue with
  | [] => s
  | c :: _ =>
    if c.loading || c.checked.isNone || c.recheck then s
    else
      let x1 := s.applied.after s.cowActive c
      let s := s.loadMarch c x1
      let ds := s.neededDoms s.applied x1 c
      let bs := s.neededBanks x1
      let s := s.startUps (ds ++ s.polMates ds)
      let s := bs.foldl (fun s b => s.bankStart b (cfgN x1.m 0x30 b 2)) s
      let c := { c with loading := true, doms := ds, banks := (c.banks ++ bs).eraseDups }
      let s := s.putHead c
      if !c.resolved.isEmpty && s.storeDdr then s else s.loaded c

/-- COMMIT_LOAD (05 R109, R111): the head starts to load, or contents in LPDDR5 have arrived. -/
def execCommitLoad (s : State) : Host.Outcome State Fault Refusal :=
  .next (match s.cmt.queue with
    | [] => s
    | c :: _ =>
      if !s.domOn 19 || s.time.ckeOff then s
      else if c.loading then (if c.loadedAt.isNone then s.loaded c else s.loadDue)
      else s.startLoad)

/-! ### Checks as commands -/

/-- Replace the commit at index k. -/
def State.setCommit (s : State) (k : Nat) (c : Commit) : State := s.putQueue (s.cmt.queue.set k c)

/-- A commit has passed its checks: its apply tick, LATE, and loading when nothing is ahead. -/
def State.passed (s : State) (k : Nat) (c : Commit) : State :=
  let x0 := s.projAt k
  let a := s.applyTick x0 (x0.after s.cowActive c) (s.prevA k) s.time.tick.toNat k c
  match lateOutc c a with
  | some o => s.failCommit c o
  | none =>
    let s := s.setCommit k { c with checked := some s.time.tick, applyAt := BitVec.ofNat 64 a, recheck := false, devRecheck := false }
    if k = 0 then s.startLoad else s

/-- COMMIT_CHECK (02 R27, 05 R108): the oldest commit not yet checked, once every commit ahead has completed its own. -/
def execCommitCheck (s : State) : Host.Outcome State Fault Refusal :=
  .next (if !s.domOn 19 || s.time.ckeOff then s
    else
      match firstFrom (fun k => (nth {} s.cmt.queue k).checked.isNone) s.cmt.queue.length with
      | none => s
      | some k =>
        if (s.cmt.queue.take k).any (·.recheck) || (nth {} s.cmt.queue k).fetching then s
        else
          let c := nth {} s.cmt.queue k
          match c.fetchErr with
          | some r => s.failCommit c (access r)
          | none =>
            match s.checkAll k c with
            | .error o => s.failCommit c o
            | .ok c1 => s.passed k c1)

/-- One repeated check: SCOPE and the rest of C5, C7 and C8 on the new projection (05 R107); DOMAIN_OFF after a device commit is SHED. -/
def State.recheckOne (s : State) (k : Nat) : State :=
  let c := nth {} s.cmt.queue k
  let x0 := s.projAt k
  match s.c5 x0.m (c.fn.getD 0) c.tuples with
  | some (i, r) => s.failCommit c (rejected r i)
  | none =>
    match s.c78 x0 (x0.after s.cowActive c) c with
    | some o =>
      s.failCommit c (if c.devRecheck && o.status = 2 && o.reason = 0x30 then { o with reason := 0x40 } else o)
    | none => s.passed k c

/-- The repeated checks that are due, in queue order; `n` bounds them. -/
def State.recheckAll (s : State) : Nat → State
  | 0 => s
  | n + 1 =>
    match firstFrom (fun k => (nth {} s.cmt.queue k).recheck) s.cmt.queue.length with
    | none => s
    | some k => (s.recheckOne k).recheckAll n

/-- A profile that stops CK_E is on its way: its device commit is queued, or applied with CK_E still running. Repeated checks then wait
until domain 19 has returned (14 R359). -/
def State.stopComing (s : State) : Bool :=
  s.pwr.entry || (s.pwr.profile < 2 && s.cmt.queue.any fun c => match c.profile with | some (p, _) => decide (2 ≤ p) | none => false)

/-- COMMIT_RECHECK (05 R107). -/
def execCommitRecheck (s : State) : Host.Outcome State Fault Refusal :=
  .next (if !s.domOn 19 || s.time.ckeOff || s.stopComing then s else s.recheckAll s.cmt.queue.length)

/-! ### Quiesce of a commit (17 R424) -/

/-- Step 1 for commits whose apply tick is five ticks after tick t. -/
def State.startQuiesces (s : State) (t : Nat) : State :=
  (List.range s.cmt.queue.length).foldl (fun s k =>
    let c := nth {} s.cmt.queue k
    if c.checked.isSome && !c.recheck && c.quiesce.isNone && c.applyAt.toNat = t + 5 then
      let x0 := s.projAt k
      let us := s.quiesceUnits x0 (x0.after s.cowActive c) c
      if us.isEmpty then s
      else (us.foldl (fun s u => s.quiesce u.1 u.2) s).setCommit k { c with quiesce := some s.time.tick }
    else s) s

/-- A unit left offline by a commit that went away without applying comes back. -/
def State.endOrphans (s : State) : State :=
  if s.cmt.queue.any (·.quiesce.isSome) then s
  else (s.units.filter fun e => e.2.offline.isSome).foldl (fun s e =>
    if s.tests.any (fun t => t.kind = 2 && t.unitOf == (e.1 / 256, e.1 % 256)) then s else s.endQuiesce (e.1 / 256) (e.1 % 256)) s

/-- Step 2 ends by the fourth tick after step 1. -/
def State.abortDue (s : State) (t : Nat) : State :=
  (s.units.filter fun e => match e.2.offline with | some o => o.toNat + 4 ≤ t | none => false).foldl
    (fun s e => if s.tests.any (fun x => x.kind = 2 && x.unitOf == (e.1 / 256, e.1 % 256)) then s else s.abortUnit (e.1 / 256) (e.1 % 256)) s

/-- QUIESCE_START (17 R424): step 1 at its scheduled tick. -/
def execQuiesceStart (s : State) : Host.Outcome State Fault Refusal :=
  .next (if s.domOn 19 && !s.time.ckeOff && s.time.started && s.time.phase ≤ 3 then s.startQuiesces s.time.tick.toNat else s)

/-! ### Disagreement (05 R118) -/

/-- DIVERGE: more than 8 T of intent up and condition down. -/
def execDiverge (cls : Nat) (inst : Nat) (s : State) : Host.Outcome State Fault Refusal :=
  let r := s.unitOf cls inst
  .next (if unitOk cls inst && s.disagrees cls inst && 8 ≤ r.downT && !r.div then
      (s.putUnit cls inst { r with div := true, upT := 0 }).post0 2 (unitReason cls inst)
    else s)

/-- CONVERGE: more than 8 T up again, or the intent is down, in tick A of the commit that set it so or later. -/
def execConverge (cls : Nat) (inst : Nat) (s : State) : Host.Outcome State Fault Refusal :=
  let r := s.unitOf cls inst
  .next (if r.div && ((!s.intent cls inst && (s.time.phase < 4 || s.cmt.lastA.toNat ≤ s.time.tick.toNat))
        || (s.intent cls inst && s.cond cls inst && 8 ≤ r.upT)) then
      (s.putUnit cls inst { r with div := false, downT := 0, upT := 0 }).post0 3 (unitReason cls inst)
    else s)

/-! ### BLOB_LOAD (05 R110) -/

/-- A held blob is pinned by a pending commit (05 R105). -/
def State.pinned (s : State) (f id : Nat) : Bool := s.cmt.queue.any fun c => c.fn == some f && c.pins.contains id

/-- A new held blob would be the 65th. -/
def State.heldFull (s : State) (f id : Nat) : Bool := (s.heldBlob f id).isNone && 64 ≤ s.cmt.held.length + s.cmt.loads.length

/-- The first part of BLOB_LOAD: checks 1 to 3, a release, or the fetch of the blob into pages of its own. -/
def State.beginLoad (s : State) (ring : Nat) (q : Req) (ok : Bool) : State :=
  let f := ring / 8
  let id := q.desc.arg2N % 2 ^ 32
  let n := q.desc.argN
  if !s.domOn 19 then s.finish ring q.id (unitDown 1 0)
  else if id = 0 then s.finish ring q.id (rejected 0x21 noLoc)
  else if s.pinned f id then s.finish ring q.id (rejected 0x25 noLoc)
  else if n = 0 then
    (s.setCmt { s.cmt with held := s.cmt.held.filter fun h => !(h.fn = f && h.id = id) }).finish ring q.id (Machine.ok id)
  else
    match (if s.heldFull f id then none else s.allocPages (pagesOf n)) with
    | none => s.finish ring q.id (rejected 0x20 noLoc)
    | some ps =>
      if !blobLenOk n then s.finish ring q.id (rejected 0x21 noLoc)
      else if !ok then s.finish ring q.id (access 5)
      else
        match s.dmaRead f q.desc.addrN n with
        | (s1, .error r) => s1.finish ring q.id (access r)
        | (s1, .ok b) =>
          match s1.storeBlob b ps with
          | (s2, false) => s2.finish ring q.id (access 5)
          | (s2, true) =>
            (s2.take ring q.id).setCmt { (s2.take ring q.id).cmt with
              loads := s2.cmt.loads ++ [{ ring := ring, id := q.id, fn := f, blob := id, len := n, bytes := b, pages := ps }] }

/-- A pending commit that has pinned the blob being replaced keeps the old blob's pages (05 R110). -/
def Commit.keepOld (c : Commit) (f id : Nat) (old : Option Held) : Commit :=
  if c.fn == some f && c.pins.contains id then
    { c with pins := c.pins.filter (fun p => p != id), pages := c.pages ++ (match old with | some h => h.pages | none => []) }
  else c

/-- The last part of BLOB_LOAD: BLOB_FORMAT and BLOB_CRC; the blob is held, in place of an old one of its ID. -/
def State.endLoad (s : State) (l : BlobLoad) : State :=
  let s := s.setCmt { s.cmt with loads := s.cmt.loads.filter fun x => x != l }
  match blobCheck l.bytes l.len with
  | some r => s.finish l.ring l.id (rejected r noLoc)
  | none =>
    let others := s.cmt.held.filter fun h => !(h.fn = l.fn && h.id = l.blob)
    (s.setCmt { s.cmt with held := others ++ [{ fn := l.fn, id := l.blob, bytes := l.bytes, pages := l.pages }],
                           queue := s.cmt.queue.map fun c => c.keepOld l.fn l.blob (s.heldBlob l.fn l.blob) }).finish l.ring l.id
      (Machine.ok l.blob)

/-- BLOB_LOAD (05 R110): the ring's oldest begins; one whose blob has been fetched ends. Commits may be checked in between (R116). -/
def execBlobLoad (ring : Nat) (ok : Bool) (s : State) : Host.Outcome State Fault Refusal :=
  .next (match s.cmt.loads.find? (fun l => l.ring = ring) with
    | some l => s.endLoad l
    | none =>
      match (s.ring ring).oldest 4 with
      | none => s
      | some q => s.beginLoad ring q ok)

end Sys2Proof.Machine
end

