-- ==== Sys2Proof/Machine/Apply.lean ====
section
/-! DEFINITION. Machine/Apply.lean: the swap of H4 (05 R112, R113): what an applied commit does to every unit it changes, the order of
H4 (02 R26, 05 R111), and device commits (05 R114, 14 R355 to R360). -/

namespace Sys2Proof.Machine

/-- What applying changes: the configurations before and after, the settings named, and A. -/
structure Swap where
  x0 : Proj := {}
  x1 : Proj := {}
  ts : List (Nat × Word) := []
  /-- content of the blob-typed tuples -/
  blobs : List (Nat × List Byte) := []
  a : Nat := 0
  /-- domains powered up for the commit -/
  doms : List Nat := []
deriving DecidableEq, Repr

/-- A setting is named. -/
def Swap.names (w : Swap) (id : Nat) : Bool := w.ts.any fun t => t.1 == id
/-- A setting's old and new values. -/
def Swap.was (w : Swap) (c i p : Nat) : Nat := cfgN w.x0.m c i p
def Swap.is (w : Swap) (c i p : Nat) : Nat := cfgN w.x1.m c i p
/-- The content now behind a blob-typed setting. -/
def Swap.blob (w : Swap) (c i p : Nat) : List Byte := tget [] w.x1.b (sid c i p)
/-- A as the tick counter holds it. -/
def Swap.tick (w : Swap) : BitVec 64 := BitVec.ofNat 64 w.a

/-! ### Clocks and voltage (03 R51, R60, 14 R363) -/

/-- A new selection, or FREQ_TRIM for a DISC that is the primary and lost, ends the stay on the secondary (03 R46, R51); FREQ_TRIM ends a loss of
DISC, CPU_OPP starts a transition, and VDD_CPU takes a new target. -/
def State.applyClk (s : State) (w : Swap) : State :=
  let chosen := w.was 2 0 0 != w.is 2 0 0 || w.was 2 0 1 != w.is 2 0 1
  let s := if chosen || (w.names (sid 2 0 4) && s.clk.discLost && w.is 2 0 0 == 1) then s.setClk { s.clk with failedOver := false } else s
  let s := if w.names (sid 2 0 4) then s.setClk { s.clk with discLost := false, discCount := 0 } else s
  let s := if (w.names (sid 3 0x40 0x10) || w.names (sid 3 0x40 0x11)) && s.pwr.vWait.isNone && s.clk.oppTarget.isNone then
      s.commandVdd (s.oppMv s.clk.opp) else s
  if w.names (sid 2 0 0x10) then s.startOpp (w.is 2 0 0x10) else s

/-! ### Audio ports (06 R136) -/

/-- Parameters of a port whose change restarts it: CLOCK, OSR, FORMAT, RATE, SLOTS, SLOT_BITS, BCLK_POL, FS_POL. -/
def restartPars (c : Nat) : List Nat :=
  if c = 0x10 then [2, 3] else if c = 0x11 then [2, 3] else [3, 4, 5, 6, 7, 0xC, 0xD]

/-- A commit acts on one audio port. -/
def State.applyPort (s : State) (w : Swap) (c p : Nat) : State :=
  let on0 := portEn w.x0.m c p
  let on1 := portEn w.x1.m c p
  let rose (k : Nat) : Bool := w.was c p k == 0 && w.is c p k == 1
  if !on1 then (if on0 then s.portStop c p else s)
  else if !s.domOn (portDom c p) then s
  else if rose 1 || (c == 0x12 && rose 2) || (restartPars c).any (fun k => w.names (sid c p k)) then s.portStart c p w.tick
  else s

/-! ### Fixed processing (07 R162 to R167) -/

/-- A filter's state goes when its FC leaves or reaches code 0. -/
def State.applyHpf (s : State) (w : Swap) (e c : Nat) : State :=
  if w.was 0x15 e (c * 256 + 1) = 0 || w.is 0x15 e (c * 256 + 1) = 0 then s.putHpf (64 * e + c) {} else s

/-- A gain starts to move from what acts in tick A - 1. -/
def State.applyGain (s : State) (w : Swap) (e c : Nat) : State :=
  let r := s.gainOf (64 * e + c)
  let zc := w.is 0x16 e (c * 256 + 2) == 1
  s.putGain (64 * e + c)
    { r with g0 := r.now, goal := targetOf (cfgOf w.x1.m (sid 0x16 e (c * 256 + 1))), k := 0, n := if zc then 0 else w.is 0x16 e (c * 256 + 3),
             zc := zc, start := w.tick, crossed := false }

/-- Samples of every channel of a DRC instance shift with LOOKAHEAD: the delay line is read at its new depth. -/
def State.applyDrc (s : State) (w : Swap) (i : Nat) : State :=
  let fresh := (w.was 0x17 i 1 = 0 && w.is 0x17 i 1 = 1) || w.was 0x17 i 2 != w.is 0x17 i 2 || w.was 0x17 i 3 != w.is 0x17 i 3
  if fresh || w.is 0x17 i 1 = 0 then s.putDrc i {} else s

/-- Classes 0x15 to 0x17. -/
def State.applyAudio (s : State) (w : Swap) : State :=
  let s := (List.range 256).foldl (fun s e =>
    if !(w.ts.any fun t => t.1 / 0x10000 = 0x1500 + e || t.1 / 0x10000 = 0x1600 + e) then s
    else (List.range (fixedCh e)).foldl (fun s c =>
      let s := if w.names (sid 0x15 e (c * 256 + 1)) then s.applyHpf w e c else s
      if [1, 2, 3, 4].any fun k => w.names (sid 0x16 e (c * 256 + k)) then s.applyGain w e c else s) s) s
  (List.range 32).foldl (fun s i =>
    if w.ts.any fun t => t.1 / 0x10000 = 0x1700 + i then s.applyDrc w i else s) s

/-! ### Churn (08 R196, R198, R205 to R207, R211) -/

/-- The gliders that a new coefficient set starts. -/
def PuSt.glide (u : PuSt) (reinit : Bool) (b : List Byte) : PuSt :=
  let gs := if reinit then [] else coefGliders b
  { u with coef := sparse (BitVec.ofNat 32) (coefWords b),
           glides := gs.foldl (fun m g =>
             let v := u.coefVal g.1
             tins g.1 ({ mode := g.2.1, param := g.2.2, v0 := v, v := v, j := 0, moving := true } : Glide) (tdel m g.1)) [] }

/-- A new program in a PU: lines of unchanged geometry keep their pointers, and REINIT clears the registers. -/
def PuSt.newProg (u : PuSt) (x : Prog) (reinit : Bool) : PuSt :=
  let keep (k : Nat) : Bool := !reinit && u.lines[k]? == x.lines[k]?
  let u := if reinit then { u with d := [], acc := [], p := 0, flight := [], glides := [] } else u
  { u with prog := sparse (BitVec.ofNat 64) x.words, lines := x.lines, tables := x.tables, vtabs := x.vtabs, taps := x.taps, hop := x.hop,
           lineSt := u.lineSt.filter fun e => e.1 < x.lines.length && keep e.1,
           fixes := u.fixes.filter fun f => !f.1 }

/-- The registers of the patch bus that a re-initialised program writes read 0. -/
def State.clearPatch (s : State) (x : Prog) : State :=
  s.setChurn { s.churn with patchR := x.pbws.eraseDups.foldl (fun m r => tset 0 m r 0) s.churn.patchR }

/-- A commit acts on PU p; one whose domain it powers on starts as with REINIT = 1 (08 R211). -/
def State.applyPu (s : State) (w : Swap) (p : Nat) : State :=
  let named (k : Nat) : Bool := w.names (sid 0x20 p k)
  let off := w.is 0x20 p 1 = 0 && w.is 0x20 p 2 = 0 && w.is 0x20 p 3 = 0
  if !(named 1 || named 2 || named 3) then s
  else if !s.domOn (11 + p) then s.putPu p { s.pu p with loaded := off }
  else
    let full := w.doms.contains (11 + p) || (named 1 && named 2 && named 3)
    let x := if w.is 0x20 p 1 = 0 then {} else progOf (w.blob 0x20 p 1)
    let reinit := (x.reinit && named 1) || w.doms.contains (11 + p)
    let u := s.pu p
    let u := if named 1 || full then u.newProg x reinit else u
    let u := if named 2 || full then
        (if w.is 0x20 p 2 = 0 then { u with coef := [], glides := [] } else u.glide reinit (w.blob 0x20 p 2)) else u
    let u := if named 3 || full then
        { u with lut := if w.is 0x20 p 3 = 0 then [] else sparse (BitVec.ofNat 32) (wordsAt (w.blob 0x20 p 3) 16 4 4096) } else u
    let u := { u with loaded := u.loaded || full || off }
    let s := s.putPu p u
    if reinit then s.clearPatch x else s

/-- Output bus channels that no program of the applied configuration writes read 0 (08 R198). -/
def State.clearOuts (s : State) (x1 : Proj) : State :=
  let live := (progsOf x1.m x1.b).flatMap fun o => match o with | some x => x.outs | none => []
  s.setChurn { s.churn with outBus := s.churn.outBus.filter fun e => live.contains e.1 }

/-- Class 0x20. -/
def State.applyChurn (s : State) (w : Swap) : State :=
  if !(w.ts.any fun t => t.1 / 0x1000000 = 0x20) then s
  else
    let s := (List.range 8).foldl (fun s p => s.applyPu w p) s
    if (List.range 8).any fun p => w.names (sid 0x20 p 1) then s.clearOuts w.x1 else s

/-! ### Separator (05 R113, 09 R226, R227, R233 to R235) -/

/-- Every row's state of a model is 0. -/
def State.clearRows (s : State) (d : ModelDesc) : State :=
  d.layers.foldl (fun s l =>
    let t := s.tile l.tile
    s.putTile l.tile { t with acc := t.acc.filter fun e => !(l.stFirst ≤ e.1 % 512 && e.1 % 512 < l.stFirst + l.stW) }) s

/-- A MODEL tuple: the model starts, or is removed; the hop that ends is left to its flip (09 R234, R237). -/
def State.newModel (s : State) (w : Swap) (m : Nat) : State :=
  let r := s.model m
  let old := r.desc.map fun d => ({ desc := d, cur := r.cur, ran := s.hopRan m } : OldHop)
  match w.x1.modelDesc m with
  | none => if r.desc.isSome then s.putModel m { old := old } else s
  | some d => (s.clearRows d).putModel m { desc := some d, nxt := d.freshSteps, old := old }

/-- Class 0x28: weights, biases and tables have been written while the commit loaded. -/
def State.applySep (s : State) (w : Swap) : State :=
  (List.range 16).foldl (fun s m => if w.names (sid 0x28 m 1) then s.newModel w m else s) s

/-! ### Networks (12 R311, R318, 13 R345, R346, 14 R360) -/

/-- Parameters of a Net port whose change restarts it. -/
def netRestart : List Nat := [1, 2, 3, 4, 5, 0xC, 0xD]

/-- Posted buffers that have become too short complete TOO_SHORT, in posting order (12 R318). -/
def State.trimPosted (s : State) (p : Nat) : State :=
  let n := s.longestRx 0x40 p
  let r := s.net0 p
  let s := s.putNet p { r with posted := r.posted.filter fun b => n ≤ b.len }
  (r.posted.filter fun b => b.len < n).foldl (fun s b => s.finish b.ring b.id tooShort) s

/-- A commit acts on Net port p: a restart (12 R311), a written TX_THRESH (R309), buffers now too short (R318). -/
def State.applyNet (s : State) (w : Swap) (p : Nat) : State :=
  let on0 := w.was 0x40 p 1 == 1
  let on1 := w.is 0x40 p 1 == 1
  let s := if on1 && netListens w.x1.m w.x1.profile p && on0 then s.putNet p { s.net0 p with listening := true }
    else if (s.net0 p).listening then s.putNet p { s.net0 p with listening := false } else s
  if !on1 then (if on0 then s.netStop p else s)
  else if !s.domOn (53 + p) then s
  else
    let s := if netRestart.any (fun k => w.names (sid 0x40 p k)) then
        (let s := s.netStart p
         s.putNet p { s.net0 p with triedAt := BitVec.ofNat 64 (w.a / 48) }) else s
    let s := if w.names (sid 0x40 p 0x11) then s.putNet p { s.net0 p with thresh := w.is 0x40 p 0x11 } else s
    s.trimPosted p

/-- A commit acts on Cowbell of port p. -/
def State.applyCow (s : State) (w : Swap) (p : Nat) : State :=
  let on1 := w.is 0x41 p 1 == 1
  if on1 && !(s.herd0 p).listening && (w.was 0x42 p 1 != w.is 0x42 p 1 || w.was 0x42 p 2 != w.is 0x42 p 2) then s.cowStart p
  else s

/-- MEDIUM or NODE_ID of a running port is written: what does not wait for the next resolution takes effect (13 R328, R330). -/
def State.applyMedium (s : State) (w : Swap) (p : Nat) : State :=
  let r := s.herd0 p
  let md := s.startMedium p
  if !(w.names (sid 0x41 p 2) || w.names (sid 0x41 p 3)) || (s.hd p 2 == 2 && s.settled p) || md == r.medium then s
  else s.putHerd p { r with medium := md, plcaOk := md == 2, modes := md :: r.modes.drop 1 }

/-- A commit acts on Herdline port p. -/
def State.applyHerd (s : State) (w : Swap) (p : Nat) : State :=
  let on0 := w.was 0x41 p 1 == 1
  let on1 := w.is 0x41 p 1 == 1
  if !on1 then (if on0 then s.herdStop p else s)
  else
    let listens := on0 && herdListens w.x1.m w.x1.profile p (s.cow p).active
    let s := s.putHerd p { s.herd0 p with listening := listens }
    if on0 then (s.applyMedium w p).applyCow w p
    else if s.domOn (55 + p) && s.domOn (57 + p) then
      (let s := s.herdStart p
       s.putHerd p { s.herd0 p with started := some w.tick, helloAt := w.tick })
    else s

/-- A commit acts on stream e. -/
def State.applyStream (s : State) (w : Swap) (e : Nat) : State :=
  if w.was 0x43 e 1 != w.is 0x43 e 1 then s.putStream e { base := (s.stream e).base } else s

/-- Classes 0x40 to 0x43. -/
def State.applyNets (s : State) (w : Swap) : State :=
  let s := [0, 1].foldl (fun s p => s.applyNet w p) s
  let s := (List.range 32).foldl (fun s k => s.applyStream w (0x20 + k)) s
  let s := [0, 1].foldl (fun s p => s.applyHerd w p) s
  if w.ts.any fun t => t.1 / 0x1000000 = 0x43 then
    [0, 1].foldl (fun s p => if w.is 0x41 p 1 = 1 then s.setFormats p (s.resolveFmt p) else s) s
  else s

/-! ### Host audio (10 R248) -/

/-- A buffer of the device's own placing: a ring's staging (10 R248), or a stream's buffer (13 R343) as 128 and its endpoint on. -/
def bufBank (m : Map Word) (k : Nat) : Nat := if k < 128 then cfgN m 0x30 0x41 k else cfgN m 0x43 (k - 128) 0xA
def bufSize (m : Map Word) (k : Nat) : Nat := if k < 128 then stageSize m k else streamSize m (k - 128)
def State.bufBase (s : State) (k : Nat) : Nat := if k < 128 then (s.haudio k).base else (s.stream (k - 128)).base
def State.putBufBase (s : State) (k b : Nat) : State :=
  if k < 128 then s.putHaudio k { s.haudio k with base := b } else s.putStream (k - 128) { s.stream (k - 128) with base := b }

/-- All of them. -/
def allBufs : List Nat := (List.range 128) ++ (List.range 32).map (0xA0 + ·)

/-- A reservation takes the lowest place of its bank that those of the buffers `others` leave; whether there is one. -/
def State.placeBuf (s : State) (others : List Nat) (k : Nat) : State × Bool :=
  let m := s.cmt.cfg
  let n := bufSize m k
  let used := (others.filter fun x => bufBank m x == bufBank m k).map fun x => (s.bufBase x, bufSize m x)
  let fits (b : Nat) : Bool := decide (b + n ≤ 262144) && used.all fun u => decide (b + n ≤ u.1) || decide (u.1 + u.2 ≤ b)
  let base := (sortBy id (0 :: used.map fun u => u.1 + u.2)).find? fits
  (s.putBufBase k (base.getD 0), base.isSome)

/-- Buffers take their places one after another beside those that keep theirs. -/
def State.placeBufs (s : State) (others : List Nat) : List Nat → State × Bool
  | [] => (s, true)
  | k :: r =>
    let x := s.placeBuf others k
    let y := x.1.placeBufs (k :: others) r
    (y.1, x.2 && y.2)

/-- Buffers whose size or bank changes are placed anew, all of them where the gaps between the others are too narrow (10 R248: the device
places the buffers; log 95). -/
def State.applyStage (s : State) (w : Swap) : State :=
  let live := allBufs.filter fun k => 0 < bufSize w.x1.m k
  let moved (k : Nat) : Bool := bufSize w.x0.m k != bufSize w.x1.m k || bufBank w.x0.m k != bufBank w.x1.m k
  let x := s.placeBufs (live.filter fun k => !moved k) (live.filter moved)
  if x.2 then x.1 else (s.placeBufs [] live).1

/-! ### Everything a swap does -/

/-- The units that lose or restart their requests at the swap: programs with REINIT and models of a function's commit, models that a
device commit removes (17 R424). -/
def Swap.resets (w : Swap) : List (Nat × Nat) :=
  ((List.range 8).filter fun p => w.names (sid 0x20 p 1) && w.is 0x20 p 1 != 0 && (progOf (w.blob 0x20 p 1)).reinit).map (fun p => (0x20, p))
    ++ ((List.range 16).filter fun m => w.names (sid 0x28 m 1) || w.names (sid 0x28 m 2)).map (fun m => (0x28, m))

/-- Every unit takes the settings of a commit. -/
def State.applyUnits (s : State) (w : Swap) : State :=
  let s := s.applyClk w
  let s := (List.range 8).foldl (fun s p => s.applyPort w 0x10 p) s
  let s := [0, 1, 2, 3].foldl (fun s p => (s.applyPort w 0x11 p).applyPort w 0x12 p) s
  let s := (s.applyAudio w).applyChurn w
  let s := ((s.applySep w).applyNets w).applyStage w
  if w.names (sid 0x50 0 0) then s.setHost { s.host with sweepT0 := w.tick } else s

/-- The configuration, generation and log of the last swap (05 R121). -/
def State.swapCfg (s : State) (w : Swap) (fn : Nat) : State :=
  (s.setCmt { s.cmt with cfg := w.x1.m, blobs := w.x1.b, gen := s.cmt.gen + 1, lastA := w.tick, lastFn := BitVec.ofNat 8 fn, applied := true }).setPwr
    { s.pwr with profile := w.x1.profile, saved := w.x1.saved }

/-- The token memory of a function takes the token of an applied commit (04 R92). -/
def State.keepToken (s : State) (f : Nat) (token a : BitVec 64) : State :=
  if token = 0 then s else s.putFn f { s.fnOf f with tokens := ((token, a) :: (s.fnOf f).tokens).take 16 }

/-- A function's commit applies. -/
def State.applyFn (s : State) (c : Commit) (f : Nat) (a : Nat) : State :=
  let w : Swap := { x0 := s.applied, x1 := s.applied.after s.cowActive c, ts := c.tuples, blobs := c.resolved, a := a, doms := c.doms }
  let s := s.putQueue (s.cmt.queue.drop 1)
  let s := w.resets.foldl (fun s u => s.shedUnit u.1 u.2) s
  let s := (s.swapCfg w f).applyUnits w
  let s := s.keepToken f c.token w.tick
  let s := s.finish c.ring c.id (ok (a % 2 ^ 32))
  let s := s.endWaiters f c.token { status := 1, result := BitVec.ofNat 32 (a % 2 ^ 32) }
  if w.names (sid 3 0x40 1) then s.requestProfile (w.is 3 0x40 1) else s

/-- A device commit waiting in the power controller enters the queue (05 R114). -/
def State.admitDev (s : State) : State :=
  match s.cmt.waiting with
  | [] => s
  | c :: r => if devCount s.cmt.queue < 4 then (s.setCmt { s.cmt with waiting := r }).enterDev c else s

/-- A device commit applies: the profile, its event and counter, and the entry to or exit from a stop of CK_E (14 R355 to R361). -/
def State.applyDev (s : State) (c : Commit) (p cause : Nat) (a : Nat) : State :=
  let x0 := s.applied
  let w : Swap := { x0 := x0, x1 := x0.after s.cowActive c, ts := x0.devTuples p s.cowActive, a := a, doms := c.doms }
  let s := s.putQueue (s.cmt.queue.drop 1)
  let s := (w.resets.filter fun u => u.1 == 0x28).foldl (fun s u => s.haltModel u.2) s
  let s := w.resets.foldl (fun s u => if s.busyUnit u.1 u.2 then s.shedUnit u.1 u.2 else s) s
  let s := (s.swapCfg w 0xFF).applyUnits w
  let code := if cause = 0x10 then 0x10 + s.pwr.wakeCause.toNat else cause
  let s := (s.post0 0x60 (p * 256 + code)).bump 0x03 0x40 0
  let s := if 2 ≤ p then s.setPwr { s.pwr with phase := 1, entry := true }
    else s.setPwr { s.pwr with phase := 0, entry := false }
  s.admitDev

/-- The head of the queue applies with apply tick A. -/
def State.applyHead (s : State) (c : Commit) (a : Nat) : State :=
  match c.fn, c.profile with
  | some f, _ => s.applyFn c f a
  | none, some (p, cause) => s.applyDev c p cause a
  | none, none => s.putQueue (s.cmt.queue.drop 1)

/-! ### H4 (02 R21, R26, 05 R111) -/

/-- A commit at the head is ready (05 R111, 10 R256, 11 R291, 14 R354). -/
def State.ready (s : State) (t : Nat) (c : Commit) : Bool :=
  let x1 := s.applied.after s.cowActive c
  c.checked.isSome && !c.recheck && c.loading && (match c.loadedAt with | some l => l.toNat ≤ t | none => false)
    && c.doms.all (fun d => s.domOn d) && c.banks.all (fun b => s.bankReached b (cfgN x1.m 0x30 b 2))
    && !(c.fn.isSome && s.effOn 4 && !x1.effOn 4 && s.cc.lines.any fun e => e.2.dirty)
    && !(s.tests.any fun x => x.kind = 2 && (loadTiles x1 c).contains x.inst && x1.usedTiles.contains x.inst)
    && s.allLoaded c

/-- Apply ticks of the commits still queued after H4 of tick t: one that cannot keep its own moves, and LATE is judged again. -/
def State.replan (s : State) (t : Nat) : Nat → State
  | 0 => s
  | n + 1 =>
    match firstFrom (fun k =>
        let c := nth {} s.cmt.queue k
        c.checked.isSome && !c.recheck && c.applyAt.toNat ≤ max (t + 1) (s.prevA k)) s.cmt.queue.length with
    | none => s
    | some k =>
      let c := nth {} s.cmt.queue k
      let x0 := s.projAt k
      let a := if c.fn.isNone then max (t + 2) (s.prevA k + 1) else alignUp (s.alignAt k x0 (x0.after s.cowActive c) c) (max (t + 1) (s.prevA k) + 1)
      match (if c.fn.isNone then none else lateOutc c a) with
      | some o => (s.failCommit c o).replan t n
      | none => (s.setCommit k { c with applyAt := BitVec.ofNat 64 a }).replan t n

/-- H4 of tick t. -/
def State.h4 (s : State) : State :=
  let t := s.time.tick.toNat
  let s := (s.endOrphans.startQuiesces t).abortDue t
  let s := match s.cmt.queue with
    | [] => s
    | c :: _ =>
      if c.checked.isSome && !c.recheck && c.applyAt.toNat ≤ t + 1 then
        (let s := if c.fn.isNone && !c.loading then s.startLoad else s.loadDue
         let c := nth ({} : Commit) s.cmt.queue 0
         if s.ready t c || (c.fn.isNone && s.ready (t + 1) c) then s.applyHead c (t + 1) else s)
      else s
  s.replan t 40

/-- Loading starts in H5 of the tick in which the commit ahead applies (05 R111). -/
def State.h5Load (s : State) : State := s.loadDue.startLoad

end Sys2Proof.Machine
end

