-- ==== Sys2Proof/Machine/Selftest.lean ====
section
/-! DEFINITION. Machine/Selftest.lean: TEST requests other than March H11 (17 R425, R426) and the Herdline PHY calibration (13 R329). -/

namespace Sys2Proof.Machine

/-- A TEST of a kind that runs on a unit number. -/
def State.running (s : State) (kind i : Nat) : Option TestRun := s.tests.find? fun t => t.kind = kind && t.inst = i

/-- A TEST starts: its request is taken. -/
def State.startTest (s : State) (g : Nat) (q : Req) : State :=
  let s := s.take g q.id
  s.setTests (s.tests ++ [{ kind := q.desc.kind, inst := q.desc.unit, ring := g, id := q.id, addr := q.desc.addr, arg2 := q.desc.arg2,
                            start := s.time.tick }])

/-- A TEST ends: its result is written, then its completion. -/
def State.endTest (s : State) (t : TestRun) (result : List Byte) : State :=
  (s.setTests (s.tests.filter fun x => x != t)).finishWrite t.ring t.id t.addr.toNat result (ok 0)

/-- A TEST request of a kind is taken, unless that kind already runs on its unit. -/
def State.takeTest (s : State) (g : Nat) (q : Req) (c i : Nat) : State :=
  if (s.running q.desc.kind q.desc.unit).isSome then s.finish g q.id (inUse c i) else s.startTest g q

/-! ### SEP_TILE -/

/-- A model of the applied configuration or of one that a pending commit leaves uses a tile. -/
def State.tileUsed (s : State) (t : Nat) : Bool :=
  (List.range (s.cmt.queue.length + 1)).any fun k => (s.projAt k).usedTiles.contains t

/-- SEP_TILE (17 R425, R426): the tile's words are lost, and the unit is in quiesce until the end. -/
def execSepTile (ring : Nat) (s : State) : Host.Outcome State Fault Refusal :=
  .next (match (s.ring ring).oldestTest 2 with
    | none => s
    | some q =>
      let t := q.desc.unit
      if !s.domOn (40 + t) || s.tileUsed t || (s.running 2 t).isSome then s.finish ring q.id (inUse 0x28 (0x80 + t))
      else ((s.startTest ring q).clearTile t).quiesce 0x28 (0x80 + t))

/-- SEP_TILE_END (17 R426): the numbers of failing weight words and accumulators, and whether all the rest passed. -/
def execSepTileEnd (tile : Nat) (fails : TileFails) (pass : Bool) (s : State) : Host.Outcome State Fault Refusal :=
  .next (match s.running 2 tile with
    | none => s
    | some t =>
      let out := if pass && fails.weights = 0 && fails.accs = 0 then 0 else 1
      (s.endQuiesce 0x28 (0x80 + tile)).endTest t (leBytes 4 out ++ leBytes 4 fails.weights.toNat ++ leBytes 4 fails.accs.toNat ++ leBytes 4 0))

/-! ### APLL_CAL -/

/-- APLL_CAL (17 R425): the APLL belongs to the applied set, so it completes IN_USE. -/
def execApllCal (ring : Nat) (s : State) : Host.Outcome State Fault Refusal :=
  .next (match (s.ring ring).oldestTest 3 with
    | none => s
    | some q => s.finish ring q.id (inUse 0x02 0))

/-! ### HERD_CAL (17 R426, 13 R329) -/

/-- The 16 bytes of a calibration. -/
def calBytes (outcome code tick : Nat) : List Byte := leBytes 4 outcome ++ leBytes 4 code ++ leBytes 8 tick

/-- HERD_CAL (17 R426). -/
def execHerdCal (ring : Nat) (s : State) : Host.Outcome State Fault Refusal :=
  .next (match (s.ring ring).oldestTest 4 with
    | none => s
    | some q => s.takeTest ring q 0x41 q.desc.unit)

/-- A HERD_CAL whose port's condition went down before an occasion arose is aborted. -/
def State.calAborts (s : State) : State :=
  (s.tests.filter fun t => t.kind = 4 && !s.cond 0x41 t.inst && !s.offline 0x41 t.inst).foldl
    (fun s t => s.endTest t (calBytes 2 (s.herd0 t.inst).calCode.toNat 0)) s

/-- PHY_CALIBRATION (13 R329): an occasion with nothing to send, every 48,000 T or for a HERD_CAL. -/
def execPhyCalibration (port : Nat) (rxOfs : BitVec 7) (txLvl : BitVec 7) (limit : Bool) (s : State) : Host.Outcome State Fault Refusal :=
  let r := s.herd0 port
  let since := max r.calAt.toNat (r.started.getD 0).toNat
  .next (if !(port < 2 && s.herdFree port && (s.candidate port).isNone
      && ((s.running 4 port).isSome || since + 48000 ≤ s.time.tick.toNat)) then s
    else
      let code := rxOfs.toNat + 256 * txLvl.toNat
      let s := s.putHerd port { r with calCode := BitVec.ofNat 32 code, calAt := s.time.tick }
      match s.running 4 port with
      | none => s
      | some t => s.endTest t (calBytes (b2n limit) code s.time.tick.toNat))

/-! ### Peeks (17 R426) -/

/-- CHURN_PEEK (17 R426). -/
def execChurnPeek (ring : Nat) (s : State) : Host.Outcome State Fault Refusal :=
  .next (match (s.ring ring).oldestTest 5 with
    | none => s
    | some q => s.takeTest ring q 0x20 q.desc.unit)

/-- The 328 bytes of a PU: D0 to D63, A0 to A3 sign-extended to 16 bytes, P0 to P7. -/
def PuSt.peekBytes (u : PuSt) : List Byte :=
  (List.range 64).flatMap (fun k => leBytes 4 (tget 0 u.d k).toNat)
    ++ (List.range 4).flatMap (fun k => leBytes 16 ((tget {} u.acc k).cur.signExtend 128).toNat)
    ++ leBytes 1 (u.p.toNat ||| 1) ++ leBytes 7 0

/-- The peek of a PU whose program slots of the first tick after dispatch have ended. -/
def State.churnPeek (s : State) (p : Nat) : State :=
  match s.running 5 p with
  | none => s
  | some t => if t.start.toNat < s.time.tick.toNat then s.endTest t (s.pu p).peekBytes else s

/-- SEP_PEEK (17 R426). -/
def execSepPeek (ring : Nat) (s : State) : Host.Outcome State Fault Refusal :=
  .next (match (s.ring ring).oldestTest 6 with
    | none => s
    | some q => s.takeTest ring q 0x28 (0x80 + q.desc.unit))

/-- Every span on a tile has ended in this hop. -/
def State.spansEnded (s : State) (t : Nat) : Bool := (s.spans t).all fun x => x.2.2 + x.2.1.span ≤ s.groupBeats t

/-- The peek of a tile in a hop that began after dispatch. -/
def State.sepPeek (s : State) (t : Nat) : State :=
  match s.running 6 t with
  | none => s
  | some r =>
    if r.start.toNat < s.sep.hopStart.toNat && s.spansEnded t then
      s.endTest r ((List.range 512).flatMap fun j => leBytes 6 (tget 0 (s.tile t).acc (r.arg2.toNat % 64 * 512 + j)).toNat)
    else s

/-- SEP_PEEK_SNAPSHOT (17 R426). -/
def execSepPeekSnapshot (tile : Nat) (s : State) : Host.Outcome State Fault Refusal :=
  .next (if s.time.ckeOff then s else s.sepPeek tile)

end Sys2Proof.Machine
end

