-- ==== Sys2Proof/Machine/Tick.lean ====
section
/-! DEFINITION. Machine/Tick.lean: a tick (02 R21): the program slots that are left, the phases H0 to H8 in order, the commands that make
one phase come to pass, and the AON tick keeper (02 R25). -/

namespace Sys2Proof.Machine

/-! ### Program slots (08 R182, R209) -/

/-- The state an outcome goes on with. -/
def goOn (s : State) : Host.Outcome State Fault Refusal → State
  | .next t => t
  | _ => s

/-- A decoded Churn instruction, with what the check of a coefficient read finds. -/
def State.runChurn (s : State) (e : Ecc) (i : Instr) : State :=
  match i with
  | .churnNop pu p => goOn s (execChurnNop pu p s)
  | .inb pu p d ch => goOn s (execInb pu p d ch s)
  | .outb pu p a ch => goOn s (execOutb pu p a ch s)
  | .pbr pu p d r => goOn s (execPbr pu p d r s)
  | .pbw pu p a r => goOn s (execPbw pu p a r s)
  | .ldc pu p d k => s.opLdc pu p d k e
  | .ldi pu p d v => goOn s (execLdi pu p d v s)
  | .mov pu p d a => goOn s (execMov pu p d a s)
  | .unpkl pu p d a => goOn s (execUnpkl pu p d a s)
  | .unpkh pu p d a => goOn s (execUnpkh pu p d a s)
  | .pack pu p d a b => goOn s (execPack pu p d a b s)
  | .dwr pu p a l => goOn s (execDwr pu p a l s)
  | .drd pu p d l k x => s.opDrd pu p d l k x
  | .drdx pu p d b l k x => s.opDrdx pu p d b l k x
  | .vrd pu p d b t k x => s.opVrd pu p d b t k x
  | .lut pu p d a t => goOn s (execLut pu p d a t s)
  | .add pu p d a b => goOn s (execAdd pu p d a b s)
  | .sub pu p d a b => goOn s (execSub pu p d a b s)
  | .neg pu p d a => goOn s (execNeg pu p d a s)
  | .abs pu p d a => goOn s (execAbs pu p d a s)
  | .min pu p d a b => goOn s (execMin pu p d a b s)
  | .max pu p d a b => goOn s (execMax pu p d a b s)
  | .mulr pu p d a b => goOn s (execMulr pu p d a b s)
  | .ash pu p d a sh => goOn s (execAsh pu p d a sh s)
  | .and pu p d a b => goOn s (execAnd pu p d a b s)
  | .or pu p d a b => goOn s (execOr pu p d a b s)
  | .xor pu p d a b => goOn s (execXor pu p d a b s)
  | .sel pu p d a b r v => goOn s (execSel pu p d a b r v s)
  | .cmp pu p q a b c => goOn s (execCmp pu p q a b c s)
  | .cmpi pu p q a c v => goOn s (execCmpi pu p q a c v s)
  | .plog pu p q a b o => goOn s (execPlog pu p q a b o s)
  | .mac pu p c a b => goOn s (execMac pu p c a b s)
  | .msu pu p c a b => goOn s (execMsu pu p c a b s)
  | .macc pu p c a k => s.opMacc pu p c a k e
  | .mpy pu p c a b => goOn s (execMpy pu p c a b s)
  | .mpyc pu p c a k => s.opMpyc pu p c a k e
  | .accst pu p d c z sh => goOn s (execAccst pu p d c z sh s)
  | .accld pu p c a => goOn s (execAccld pu p c a s)
  | .accadd pu p c r => goOn s (execAccadd pu p c r s)
  | _ => s

/-- What the checks of a slot find in one store. -/
def errAt (env : TickEnv) (p k : Nat) (m : ChurnMem) : Ecc :=
  match env.churn.find? fun x => x.pu = p && x.slot = k && x.mem = m with
  | some x => x.ecc
  | none => .ok

/-- One slot of a program: the word is read and checked, then executes (08 R209). -/
def State.runSlot (s : State) (env : TickEnv) (p k : Nat) : State :=
  let s := s.putPu p { s.pu p with slot := k }
  let w := tget 0 (s.pu p).prog k
  let e := errAt env p k .prog
  let s := s.puEcc p e
  let s := if e = .corrected then s.putPu p { s.pu p with fixes := (s.pu p).fixes ++ [(true, k)] } else s
  let nop : Instr := .churnNop (BitVec.ofNat 3 p) {}
  if e = .uncorrectable then s.runChurn .ok nop
  else
    match decodeChurn (BitVec.ofNat 3 p) w.toNat (errAt env p k .data) with
    | some i => s.runChurn (errAt env p k .coef) i
    | none => s.runChurn .ok nop

/-- Slots of a program that are not a clean NOP. -/
def State.slotsOf (s : State) (env : TickEnv) (p : Nat) : List Nat :=
  let more := (env.churn.filter fun x => x.pu = p && x.slot < progSlots && (tget 0 (s.pu p).prog x.slot).toNat == 0).map (·.slot)
  sortBy id ((((s.pu p).prog.map (·.1)) ++ more.eraseDups).filter fun k => (s.pu p).slot ≤ k && k < progSlots)

/-- The rest of a PU's program slots of this tick; results in flight are written at the end. -/
def State.runPu (s : State) (env : TickEnv) (p : Nat) : State :=
  if !s.puRuns p then s
  else
    let s := (s.slotsOf env p).foldl (fun s k => s.runSlot env p k) s
    s.putPu p { (s.pu p).endTick with slot := progSlots }

/-! ### The phases -/

/-- H0 (02 R21, 08 R199, R200): the output bus is latched, the patch bus flips, taps capture. -/
def State.h0 (s : State) : State :=
  let s := s.setAudio { s.audio with outLatch := s.churn.outBus }
  let r := s.churn.patchW.foldl (fun m e => match e.2 with | some v => tset 0 m e.1 v | none => m) s.churn.patchR
  (s.setChurn { s.churn with patchR := r, patchW := [] }).capture0

/-- H2 (08 R191): every delay-line pointer advances. -/
def State.h2 (s : State) : State :=
  (List.range 8).foldl (fun s p =>
    let u := s.pu p
    if u.lines.isEmpty || !s.domOn (11 + p) then s
    else
      s.putPu p { u with lineSt := (List.range u.lines.length).foldl (fun m k =>
        let n := (nth {} u.lines k).len
        let l := tget {} m k
        tset {} m k ({ wp := if l.wp + 1 < n then l.wp + 1 else 0, fill := min (l.fill + 1) n, wrote := false } : LineSt)) u.lineSt }) s

/-- H5 (02 R21): the source of the APLL, power, loading, and the modes of the converters (03 R50). Domains that are wanted and off start (14 R366). -/
def State.h5 (s : State) : State :=
  let s := if s.discOver then s.loseDisc else s
  let s := ((s.h5Source).slewTick).clkTick
  let s := s.h5Domains
  let s := s.startUps ((List.range 64).filter fun d => s.effOn d && s.domSt d == .off)
  ((List.range 0x14).filter isConvEp).foldl (fun s e => s.convMode e) s.h5Load

/-- Tiles that a pending commit reloads and whose group runs no steps in the hop that starts at tick `h` (05 R113). -/
def State.skipTiles (s : State) (h : Nat) : List Nat :=
  ((List.range s.cmt.queue.length).flatMap fun k =>
    let c := nth ({} : Commit) s.cmt.queue k
    if c.checked.isNone || c.recheck || c.fn.isNone then []
    else
      let x0 := s.projAt k
      (reloadTiles x0 (x0.after s.cowActive c) c).filter fun t => c.applyAt.toNat ≤ h + s.hop || (s.tile t).skip).eraseDups

/-- H6 (02 R22): in the last tick of a hop the staging buffers flip. -/
def State.h6 (s : State) : State :=
  let h := s.time.tick.toNat + 1
  if h % s.hop = 0 then
    (let s := s.stagingFlips
     let sk := s.skipTiles h
     let s := (List.range 8).foldl (fun s t => if (s.tile t).skip = sk.contains t then s else s.putTile t { s.tile t with skip := sk.contains t }) s
     s.loadDue)
  else s

/-- A glider's next value (08 R196). -/
def Glide.next (g : Glide) (target : Word) : Option Glide :=
  let c := target.toInt
  if g.mode = 1 then
    (if g.param ≤ g.j + 1 then none
     else some { g with j := g.j + 1, v := wOf (g.v0.toInt + rndDiv ((c - g.v0.toInt) * (g.j + 1 : Nat)) g.param) })
  else
    let d := rndShr (c - g.v.toInt) g.param
    if d = 0 then none else some { g with j := g.j + 1, v := wOf (g.v.toInt + d) }

/-- Every glider of a PU moves one tick on; one that has arrived ends. -/
def PuSt.glideTick (u : PuSt) : PuSt :=
  { u with glides := u.glides.filterMap fun e => (e.2.next (tget 0 u.coef e.1)).map fun g => (e.1, g) }

/-- TICK increments (02 R24). -/
def State.incTick (s : State) : State := s.setTime { s.time with tick := s.time.tick + 1 }

/-- The end of a tick: corrected words are written back (H7), the next input frame and glider values take over, and events are
written (H8). -/
def State.closeTick (s : State) : State :=
  let s := (List.range 8).foldl (fun s p =>
    let u := s.pu p
    s.putPu p { u.glideTick with slot := 0, fixes := [] }) s
  let s := (s.setAudio { s.audio with inBus := s.audio.nextIn }).portsEnd
  let s := ((s.calAborts).flrBounds).flushEvents
  s.setTime { s.time with phase := 0, slotSeen := 0 }

/-! ### Advancing through a tick -/

/-- Snapshots that are due once the program slots and beats of a tick have run (17 R426). -/
def State.peeks (s : State) : State := (List.range 8).foldl (fun s k => (s.churnPeek k).sepPeek k) s

/-- Take the phase that follows phase `s.time.phase` (log 6). Units are compared under the configuration of this tick, before the swap of
H4 (05 R118, Worked case). -/
def State.phaseStep (s : State) (env : TickEnv) : State :=
  let k := s.time.phase
  let s :=
    if k = 0 then ((((List.range 8).foldl (fun s p => s.runPu env p) s.masterFrames).tickBeats env).peeks).h0.h1Out
    else if k = 1 then (if s.time.tick.toNat % 48 = 47 then s.blockFlips else s)
    else if k = 2 then ((s.h1In).h2).h3
    else if k = 3 then (s.compareAll).h4
    else if k = 4 then s.h5
    else s.h6
  s.setTime { s.time with phase := k + 1 }

/-- Advance until phase `n` is done. -/
def State.advance (s : State) (env : TickEnv) (n : Nat) : State :=
  (List.range 6).foldl (fun s _ => if s.time.phase < n then s.phaseStep env else s) s

/-- Ticks of CK_E pass. -/
def State.ticking (s : State) : Bool := s.time.started && !s.time.ckeOff

/-- A whole tick ends. -/
def State.endTick (s : State) (env : TickEnv) : State := ((s.advance env 6).closeTick.incTick).clkOuts.mtips

/-- TICK (02 R21, R24); what the MACs have received since the last one is delivered first (log 100). -/
def execTick (env : TickEnv) (s : State) : Host.Outcome State Fault Refusal :=
  .next (if s.ticking then s.deliverPorts.endTick env else s)

/-- AON_TICK (02 R25): the AON tick keeper advances TICK while CK_E is stopped. -/
def execAonTick (s : State) : Host.Outcome State Fault Refusal :=
  .next (if s.time.started && s.time.ckeOff then
      let s := (((s.deliverPorts.compareAll).flrBounds).flushEvents).incTick
      (s.setTime { s.time with slotSeen := 0 }).mtips
    else s)

/-- BLOCK_FLIP (02 R22): H1 of the last tick of a block. -/
def execBlockFlip (s : State) : Host.Outcome State Fault Refusal :=
  .next (if s.ticking && s.time.tick.toNat % 48 = 47 && s.time.phase < 2 then s.advance {} 2 else s)

/-- STAGING_FLIP (02 R22): H6 of the last tick of a hop, under the configuration just applied. -/
def execStagingFlip (s : State) : Host.Outcome State Fault Refusal :=
  .next (if s.ticking && s.time.phase < 6 then
      (let t := s.advance {} 5
       if (t.time.tick.toNat + 1) % t.hop = 0 then t.advance {} 6 else s)
    else s)

/-- CHURN_PEEK_SNAPSHOT (17 R426): slot 16,383 of the tick has passed. -/
def execChurnPeekSnapshot (pu : BitVec 3) (s : State) : Host.Outcome State Fault Refusal :=
  .next (if s.ticking && s.time.phase < 1 && (match s.running 5 pu.toNat with | some t => t.start.toNat < s.time.tick.toNat | none => false)
    then s.advance {} 1 else s)

/-- ASRC_MODE_SWITCH (03 R50, 07 R157): the H5 in which a converter's mode follows its port. -/
def execAsrcModeSwitch (ep : Nat) (s : State) : Host.Outcome State Fault Refusal :=
  .next (if isConvEp ep && s.ticking && s.time.phase < 5 && s.convMode ep != s then s.advance {} 5 else s)

/-- COMMIT_APPLY (02 R21, R26): H4 and H5 of tick A - 1 for the commit at the head. -/
def execCommitApply (s : State) : Host.Outcome State Fault Refusal :=
  .next (match s.cmt.queue with
    | [] => s
    | c :: _ =>
      if s.ticking && s.time.phase < 4 && c.checked.isSome && !c.recheck && c.applyAt.toNat ≤ s.time.tick.toNat + 1 then s.advance {} 5
      else s)

end Sys2Proof.Machine
end

