-- ==== Sys2Proof/Machine/Power.lean ====
section
/-! DEFINITION. Machine/Power.lean: stopping and restarting CK_E (14 R359, R361, 02 R39, 03 R58, 18 R443), wake causes of the pins and of
WAKE_TICK, POL channels, PMBus and voltage scaling (14 R362, R363, R365). -/

namespace Sys2Proof.Machine

/-! ### Stopping CK_E -/

/-- Steps 2 and 3 of R359 have ended: offset 0, cores and slices off. -/
def State.entryDone (s : State) : Bool :=
  s.pwr.entry && s.clk.offset48 == 0 && [0, 1, 2, 3, 4, 5].all fun d => !s.domOn d

/-- CKE_STOP (14 R359 steps 4 to 6): LPDDR5 to self-refresh, pending events written, the remaining shed domains off in H5, the tick ends,
and domain 19 goes off. -/
def execCkeStop (s : State) : Host.Outcome State Fault Refusal :=
  .next (if !s.ticking || !s.entryDone then s
    else
      let s := s.advance {} 5
      if !s.entryDone then s
      else
        let s := (s.setCc { s.cc with selfRef := s.domOn 7 && s.domOn 8 }).flushEvents
        let s := s.setPwr { s.pwr with entry := false, phase := 0 }
        let s := ((List.range 64).filter fun d => d != 19 && !s.effOn d).foldl (fun s d => s.domOff d) s
        (s.endTick {}).domOff 19)

/-- CKE_RESTART (14 R361 steps 3 and 4): domain 19 has powered up; the APLL at offset 0, and the leaving commit begins to load. -/
def execCkeRestart (s : State) : Host.Outcome State Fault Refusal :=
  .next (if !(s.time.ckeOff && s.time.started && s.pwr.phase = 2 && 2 ≤ s.pwr.profile && s.domOn 19) then s
    else
      let s := s.setClk { s.clk with state := .free, src := none, offset48 := 0, slewing := false, discCount := 0 }
      let s := s.setTime { s.time with ckeOff := false, phase := 0 }
      s.resumeHop.startLoad)

/-- WAKE_IN (14 R361): a pin reaches a level; a selected pin at its level is wake cause 1. -/
def execWakeIn (pin : Nat) (level : Bool) (s : State) : Host.Outcome State Fault Refusal :=
  let b := s.cfg 3 0x40 3
  .next (if 4 ≤ pin then s
    else
      let w := s.pwr.wakeLvl.toNat
      let s := s.setPwr { s.pwr with wakeLvl := BitVec.ofNat 4 (if level then w ||| 2 ^ pin else w &&& (15 - 2 ^ pin)) }
      if bit b pin && bit b (4 + pin) == level then s.wake 1 else s)

/-- WAKE_TICK as one number. -/
def State.wakeTickAt (s : State) : Nat := s.cfg 3 0x40 4 + 2 ^ 32 * s.cfg 3 0x40 5

/-- WAKE_TICK (14 R361): TICK has reached WAKE_TICK. -/
def execWakeTick (s : State) : Host.Outcome State Fault Refusal :=
  .next (if s.wakeTickAt != 0 && s.time.tick.toNat = s.wakeTickAt then s.wake 2 else s)

/-! ### POL channels (14 R362, R365) -/

/-- A POL fault of channel k: counted and reported. -/
def State.polFault (s : State) (k : Nat) : State := (s.bump 0x03 0x40 1).post0 0x61 (0x380 + k)

/-- A domain whose channel failed stays off. -/
def State.polFailDom (s : State) (d : Nat) : State :=
  if s.domSt d == .poweringUp || s.pwr.upQ.contains d then
    (s.setPwr { s.pwr with upQ := s.pwr.upQ.filter (· != d) }).putDom d .failed
  else s

/-- Domains of a channel's mask. -/
def State.polDoms (s : State) (k : Nat) : List Nat := (List.range 64).filter fun d => bit (s.polMask k) d

/-- PG_TIMEOUT of a channel has passed since its enable; before the first tick no tick counts it (log 101). -/
def State.pgLate (s : State) (k : Nat) : Bool :=
  !s.time.started || (tget 0 s.pwr.polAt k).toNat + s.cfg 3 (0x80 + k) 4 ≤ s.time.tick.toNat

/-- PG_TIMEOUT (14 R365). -/
def execPgTimeout (ch : Nat) (s : State) : Host.Outcome State Fault Refusal :=
  .next (if ch < 8 && bit s.pwr.polEn.toNat ch && !bit s.pwr.polPg.toNat ch && s.pgLate ch then
      (((s.polDoms ch).foldl (fun s d => s.polFailDom d) s).polFault ch).refreshPol
    else s)

/-- A domain that loses its rail while on is isolated and off; its requests end (log 34). -/
def State.polDropDom (s : State) (d : Nat) : State :=
  if s.domOn d then ((s.domLose d).shedRequests d).putDom d .failed else s.polFailDom d

/-- POL_PG_DROP (14 R365): power good falls while a domain of the channel is on. -/
def execPolPgDrop (ch : Nat) (s : State) : Host.Outcome State Fault Refusal :=
  .next (if ch < 8 && bit s.pwr.polEn.toNat ch && (s.polDoms ch).any (fun d => s.domOn d) then
      (let s := s.setPwr { s.pwr with polPg := BitVec.ofNat 8 (s.pwr.polPg.toNat &&& (255 - 2 ^ ch)) }
       (((s.polDoms ch).foldl (fun s d => s.polDropDom d) s).polFault ch).refreshPol)
    else s)

/-! ### PMBus (14 R362, R365) -/

/-- Fault bits of STATUS_WORD: all but BUSY, OFF and POWER_GOOD# (PMBus 1.3, log 4). -/
def faultBits : Nat := 0xFFFF - 0x80 - 0x40 - 0x800

/-- A command on the bus. -/
def State.busSend (s : State) (ch cmd data : Nat) : State := s.setPwr { s.pwr with busSent := (ch, cmd, data) :: s.pwr.busSent }

/-- The PMBus master reaches a channel. -/
def State.addressed (s : State) (k : Nat) : Bool := k < 8 && s.domOn 63 && s.cfg 3 (0x80 + k) 1 != 0

/-- POL_ALERT (14 R362): STATUS_WORD of each channel, in channel order. -/
def execPolAlert (status : List (BitVec 16)) (s : State) : Host.Outcome State Fault Refusal :=
  .next (if !s.domOn 63 then (s.setPwr { s.pwr with alert := true }).plicGates
    else
      let s := (List.range 8).foldl (fun s k =>
        let w := (nth 0 status k).toNat
        if !s.addressed k then s
        else
          let s := s.busSend k 0x79 0
          if w &&& faultBits = 0 then s else (s.post0 0x62 (0x380 + k)).busSend k 3 0) ((s.setPwr { s.pwr with alert := true }).plicGates)
      s.setPwr { s.pwr with alert := false })

/-- PMBUS_POLL (14 R362, R365): the readings of a channel, or a transaction abandoned after its three retries. -/
def execPmbusPoll (ch : Nat) (vout : BitVec 32) (iout : BitVec 32) (ok : Bool) (s : State) : Host.Outcome State Fault Refusal :=
  .next (if !s.addressed ch then s
    else
      let s := s.busSend ch 0x8B 0
      if ok then
        (let s := s.busSend ch 0x8C 0
         s.setPwr { s.pwr with vout := tset 0 s.pwr.vout ch vout, iout := tset 0 s.pwr.iout ch iout })
      else ((((s.busSend ch 0x8B 0).busSend ch 0x8B 0).busSend ch 0x8B 0).bump 0x03 0x40 2).post0 0x62 (0x380 + ch))

/-! ### Voltage scaling (14 R363) -/

/-- AVS_TRIM (14 R363): the delay monitors move the trim one step of 5 mV, once a block. -/
def execAvsTrim (trimMv : Int) (s : State) : Host.Outcome State Fault Refusal :=
  let d := trimMv - s.pwr.trim
  .next (if s.vddPol && s.cfg 3 0x40 0x10 = 1 && -50 ≤ trimMv && trimMv ≤ 25 && (d = 5 || d = -5 || d = 0)
        && s.pwr.trimAt != some (BitVec.ofNat 64 (blockOf s.time.tick)) then
      (let s := s.setPwr { s.pwr with trim := trimMv, trimAt := some (BitVec.ofNat 64 (blockOf s.time.tick)) }
       if s.pwr.vWait.isSome || s.clk.oppTarget.isSome then s else s.commandVdd (s.oppMv s.clk.opp))
    else s)

/-- VOUT_POLL (14 R363): READ_VOUT during a raise; the frequency follows once it is within 10 mV below the target. -/
def execVoutPoll (mv : Nat) (s : State) : Host.Outcome State Fault Refusal :=
  .next (match s.pwr.vWait with
    | none => s
    | some (o, t) =>
      let s := s.busSend (s.cfg 3 0x40 0x11) 0x8B 0
      if t - 10 ≤ (mv : Int) then (s.setPwr { s.pwr with vWait := none, vddOk := t }).beginOpp o else s)

/-- OPP_VOLTAGE_TIMEOUT (14 R363): 1 ms after the command the change is abandoned; the cores stay at the old operating point (log 35). -/
def execOppVoltageTimeout (s : State) : Host.Outcome State Fault Refusal :=
  .next (match s.pwr.vWait with
    | none => s
    | some _ => if s.pwr.vAt.toNat + 48 ≤ s.time.tick.toNat then ((s.setPwr { s.pwr with vWait := none }).post0 0x26 0x02F1).nextOpp else s)

/-! ### Cores and slices go off in H5 (11 R279, R291, 14 R359) -/

/-- H5 of the present tick, where it is still to come and CK_E runs. -/
def State.toH5 (s : State) : State := if s.ticking then s.advance {} 5 else s

/-- H5 of the present tick is reached: the phases before it have run and H6 has not. -/
def State.inH5 (s : State) : Bool := !s.ticking || s.time.phase ≤ 5

/-- CORE_PARK_OFF (11 R279): in H5 of the first tick in which it is parked, a core whose intent is down is switched off. -/
def execCoreParkOff (core : Nat) (s : State) : Host.Outcome State Fault Refusal :=
  .next (if s.parkable core && s.inH5 then
      (let t := s.toH5
       if t.parkable core then (t.dropCore core).putDom core .off else t)
    else s)

/-- L2_FLUSH (11 R291, 14 R359): the write-back of the slices ends; entering a profile, they go off in H5. -/
def execL2Flush (s : State) : Host.Outcome State Fault Refusal :=
  .next (if !s.domOn 4 then s
    else if s.pwr.entry then
      (if [0, 1, 2, 3].any (fun c => s.domOn c) || !s.inH5 then s
       else
         let t := s.toH5
         if t.pwr.entry && !([0, 1, 2, 3].any fun c => t.domOn c) then ((t.flushL2.dropL2).putDom 4 .off).putDom 5 .off else t)
    else if s.slicesLeaving then s.flushL2 else s)

end Sys2Proof.Machine
end

