-- ==== Sys2Proof/Machine/Boot.lean ====
section
/-! DEFINITION. Machine/Boot.lean: resets, boot and the PCIe link (17 R415 to R421, R431 to R436; 04 R67, R70, R95, R96; 19 R452). -/

namespace Sys2Proof.Machine

/-! ### Paths -/

/-- A register access by a path reaches the device (19 R451): the PF or a VF over the link, a core, debug while it is open (17 R430). -/
def State.pathUp (s : State) : Path → Bool
  | .pf => s.hostMode && s.pcieMem
  | .vf f => s.hostMode && s.pcieMem && 0 < f && s.fnExists f
  | .core c => c < 4 && s.domOn c && s.domOn 6
  | .debug => s.domOn 60 && s.domOn 6 && !s.boot.debugClosed

/-- The PF, firmware on the cores, and debug. -/
def privileged : Path → Bool
  | .vf _ => false
  | _ => true

/-! ### Resets (17 R415, R416) -/

/-- Settings that a chip reset leaves: class 0x03, instance 0x40, of the barrier link (15 R395). -/
def keptSetting (k : Nat) : Bool := 0x03400020 ≤ k && k ≤ 0x03400032

/-- Flash contents and size: what the NV store is once its controller has lost its state. -/
def NvSt.bare (n : NvSt) : NvSt := { flash := n.flash, mib := n.mib }

/-- A chip reset for a cause: every switched domain and the commit unit lose their state; the power controller, the barrier link, TICK,
the AON SRAM, the causes and, for ndmreset, Debug keep theirs. The flash finishes an operation it has begun (16 R407). -/
def State.chipReset (s : State) (cause : Nat) (keepDebug : Bool) : State :=
  let n := s.nvOff.nv
  { pending := s.pending,
    time := { tick := s.time.tick, started := s.time.started, tickHi := s.time.tickHi, tickSub := s.time.tickSub, free := s.time.free },
    mem := s.mem.filter fun e => 0x01000000 ≤ e.1 && e.1 < 0x01040000,
    hostMem := s.hostMem,
    pcie := { perst := s.pcie.perst },
    cmt := { cfg := s.cmt.cfg.filter fun e => keptSetting e.1 },
    cnt := s.cnt.filter fun e => e.1 / 256 = 0x340,
    pwr := { dom := if keepDebug then tset .off [] 60 (s.domSt 60) else [], wakeCause := s.pwr.wakeCause, wakeAt := s.pwr.wakeAt,
             wakeLvl := s.pwr.wakeLvl, vout := s.pwr.vout, iout := s.pwr.iout, alert := s.pwr.alert },
    psu := s.psu, kf := s.kf,
    nv := n.bare,
    boot := { mode := s.boot.mode, cause := s.boot.cause ||| BitVec.ofNat 4 (2 ^ cause), fuses := s.boot.fuses,
              debugClosed := keepDebug && s.boot.debugClosed },
    dbg := if keepDebug then s.dbg else {} }

/-- AON loses its supply, or gets it: only flash, fuses, the other end of PCIe and the KF-7110 are outside. -/
def State.aonReset (s : State) (on : Bool) : State :=
  { pending := s.pending, time := { free := s.time.free }, hostMem := s.hostMem, pcie := { perst := s.pcie.perst }, kf := s.kf,
    nv := s.nv.bare, boot := { aonOn := on, fuses := s.boot.fuses } }

/-- AON_POWER_ON (17 R415). -/
def execAonPowerOn (s : State) : Host.Outcome State Fault Refusal := .next (if s.boot.aonOn then s else s.aonReset true)

/-- A flash operation in progress as the supply goes: it ended, or each bit it would have turned may have turned (16 R407). -/
def State.flashCut (s : State) (stepDone : Bool) : State :=
  match s.nv.busy with
  | none => s
  | some o => if stepDone then s.setNv { s.nv with flash := o.apply s.nv.flash } else s.flashPart o

/-- AON_POWER_LOSS (14 R366): the bus has collapsed with no reserve. -/
def execAonPowerLoss (s : State) : Host.Outcome State Fault Refusal :=
  .next (if s.boot.aonOn then (s.flashCut false).aonReset false else s)

/-- SUPPLY_COLLAPSE (16 R407, 14 R366): `stepDone` says whether the flash operation in progress ended. -/
def execSupplyCollapse (stepDone : Bool) (s : State) : Host.Outcome State Fault Refusal :=
  .next (if s.boot.aonOn then (s.flashCut stepDone).aonReset false else s)

/-- CHIP_RESET (17 R415): RESET_N low. -/
def execChipReset (s : State) : Host.Outcome State Fault Refusal := .next (if s.boot.aonOn then s.chipReset 1 false else s)

/-- SYS_RESET_CTL_CHIP (17 R436). -/
def execSysResetCtlChip (path : Path) (val : BitVec 32) (s : State) : Host.Outcome State Fault Refusal :=
  .next (if s.pathUp path && privileged path && fld val.toNat 0 16 = 0x5EED && bit val.toNat 16 then s.chipReset 2 false else s)

/-- NDMRESET (17 R415, R428). -/
def execNdmreset (s : State) : Host.Outcome State Fault Refusal :=
  .next (if s.domOn 60 && !s.boot.debugClosed then s.chipReset 3 true else s)

/-- RESET_OUT_RELEASE (17 R416): 10 ms after the release. -/
def execResetOutRelease (s : State) : Host.Outcome State Fault Refusal :=
  .next (if s.boot.aonOn && !s.boot.inReset then s.setBoot { s.boot with resetOut := true } else s)

/-! ### Boot directory and images (17 R418, R419) -/

/-- The boot directory, where a fitted flash holds a valid one. -/
def State.bootDir (s : State) : Option (List Byte) :=
  let d := flashBytes s.nv.flash 0 64
  if flashFits s.nv.mib && leAt d 0 4 = 0x4B46D1A0 && leAt d 4 1 = 1 && leAt d 0x3C 4 = (crc32 (d.take 0x3C)).toNat then some d else none

/-- Directory entries that are not empty, as entry number and offset, in the order they are tried (17 R420). -/
def bootEntries (d : List Byte) : List (Nat × Nat) :=
  let e0 := (0, leAt d 0x10 4)
  let e1 := (1, leAt d 0x18 4)
  (if leAt d 0x14 4 < leAt d 0x1C 4 then [e1, e0] else [e0, e1]).filter fun e => e.2 != 0

/-- LOAD of an image lies in LPDDR5. -/
def imgInDdr (h : List Byte) : Bool := 0x80000000 ≤ leAt h 0x10 8

/-- Check 1 of 17 R420: the header meets 17 R419. -/
def headerOk (h : List Byte) : Bool :=
  let len := leAt h 8 4
  let load := leAt h 0x10 8
  let entry := leAt h 0x18 8
  leAt h 0 4 = 0x4B46B007 && leAt h 4 1 = 1 && leAt h 5 1 ≤ 1 && 1 ≤ len && leAt h 0xC 4 ≤ 32
    && ((0x01000000 ≤ load && load + len ≤ 0x0103C000) || (0x80000000 ≤ load && load + len ≤ 0x84000000))
    && load ≤ entry && entry < load + len

/-- Check 2: key and rollback, with SECURE_EN. -/
def Fuses.accepts (f : Fuses) (h : List Byte) : Bool :=
  let k := leAt h 5 1
  !f.secureEn || (!bit f.revoke.toNat k && Config.sha256 (sub h 0x40 64) == (if k = 0 then f.keyHash0 else f.keyHash1)
    && popcount f.svnMin.toNat 32 ≤ leAt h 0xC 4)

/-- Check 3: SYS_MEM_CFG is written and locked, and the channel is trained (11 R289, R293). -/
def State.trainDdr (s : State) (memCfg : Nat) (memOk : Bool) : State :=
  let cfg := if bit s.cc.memCfg.toNat 31 then s.cc.memCfg else BitVec.ofNat 32 (memCfg % 32 + 2 ^ 31)
  let ok := memOk && fld cfg.toNat 1 2 != 3 && s.domOn 7 && s.domOn 8
  (s.setCc { s.cc with memCfg := cfg, ready := ok, trainFail := !ok }).setClk { s.clk with mpllLock := s.domOn 7 && s.domOn 8 }

/-- Checks 3 to 5 for an image of header and payload that has passed 1 and 2: the state, and 0 when it passes, else the ERR of a boot
whose last image it is. -/
def State.loadImage (s : State) (memOk : Bool) (h p : List Byte) : State × Nat :=
  let load := leAt h 0x10 8
  let s := if imgInDdr h then s.trainDdr (leAt h 0x20 4) memOk else s
  if imgInDdr h && !s.cc.ready then (s, 3)
  else
    let s := s.busWrite load p
    if Config.ecdsaOk (sub h 0x40 64) (sub h 0x80 64) (h.take 0x80 ++ p) then (s, 0)
    else (s.busWrite load (List.replicate p.length 0), 2)

/-- One image of the flash, by its directory offset (17 R418, R420). -/
def State.tryFlash (s : State) (memOk : Bool) (off : Nat) : State × Nat :=
  let h := flashBytes s.nv.flash off 256
  let top := s.nv.mib * 0x100000 - 0x400000
  if off % 4096 = 0 && 0x10000 ≤ off && off + 256 ≤ top && headerOk h && off + 256 + leAt h 8 4 ≤ top && s.boot.fuses.accepts h then
    s.loadImage memOk h (flashBytes s.nv.flash (off + 256) (leAt h 8 4))
  else (s, 2)

/-- The image in the boot window (17 R421). -/
def State.tryWindow (s : State) (memOk : Bool) : State × Nat :=
  let h := s.busBytes 0x01000000 256
  if headerOk h && leAt h 8 4 ≤ 245504 && s.boot.fuses.accepts h then s.loadImage memOk h (s.busBytes 0x01000100 (leAt h 8 4))
  else (s, 2)

/-- Core 0 starts at ENTRY: PHASE = DONE (17 R433 step 7). -/
def State.bootDone (s : State) (used : Bool) (h : List Byte) : State :=
  (s.setBoot { s.boot with phase := 3, err := 0, entryUsed := used, svn := BitVec.ofNat 6 (leAt h 0xC 4) }).putCore 0
    { run := .running, pc := BitVec.ofNat 64 (leAt h 0x18 8) }

/-- The cores stay off: the boot has ended with a PHASE and an ERR (17 R417, R432). -/
def State.bootEnds (s : State) (phase err : Nat) : State :=
  [0, 1, 2, 3].foldl (fun s c => s.domOff c) (s.setBoot { s.boot with phase := phase, err := err, coresOff := true })

/-- Entries in turn; the first that passes boots (17 R420). -/
def State.bootTry (s : State) (memOk : Bool) : List (Nat × Nat) → Nat → State
  | [], err => s.bootEnds 4 err
  | e :: r, _ =>
    match s.tryFlash memOk e.2 with
    | (s1, 0) => s1.bootDone (e.1 == 1) (flashBytes s.nv.flash e.2 256)
    | (s1, k) => s1.bootTry memOk r k

/-- Steps 6 and 7 of 17 R433. -/
def State.bootImage (s : State) (memOk : Bool) : State :=
  let m := s.boot.mode.toNat
  if m = 7 then s.setBoot { s.boot with phase := 2 }
  else if m = 1 then s.setBoot { s.boot with phase := 1 }
  else if 3 ≤ m then s.bootEnds 4 1
  else if !flashFits s.nv.mib then s.bootEnds 4 4
  else
    match (match s.bootDir with | some d => bootEntries d | none => []) with
    | [] => if m = 0 then s.bootEnds 3 0 else s.bootEnds 4 2
    | es => s.bootTry memOk es 2

/-! ### The start-up sequence (17 R433) -/

/-- Domains on at once. -/
def State.powerNow (s : State) (ds : List Nat) : State := (ds.foldl (fun s d => (s.putDom d .on).polGood d) s).refreshPol

/-- Steps 1 to 3: straps, domains, CLK_BOOT_CFG, and PCIe in host modes. -/
def State.bootStart (s : State) (env : BootEnv) : State :=
  let m := env.mode.toNat
  let s := s.setBoot { s.boot with mode := env.mode, inReset := false, secure := s.boot.fuses.secureEn, debugClosed := s.boot.fuses.debugDis }
  let s := if m = 2 then s.setCmt { s.cmt with cfg := tset 1 s.cmt.cfg (sid 3 9 1) 0 } else s
  let s := s.setNv { s.nv with mib := env.flashMib }
  let s := s.powerNow ([0, 4, 5, 6, 19, 59, 63] ++ (if m ≤ 2 then [61] else []) ++ (if m ≤ 1 then [9, 10] else []))
  let s := s.coreReset 0
  let clk := if m ≤ 2 then (match s.bootDir with | some d => leAt d 8 4 % 32 | none => 0) else 0
  let s := s.setClk { s.clk with xoOk := true, splLock := true, bootCfg := BitVec.ofNat 32 (clk + 2 ^ 31), state := .free, src := some 0 }
  if m ≤ 1 then s.setPcie { s.pcie with training := !s.pcie.perst } else s

/-- The repair record of the active slot (10 R263). -/
def repairOf (d : List Byte) : Map (BitVec 16) :=
  if d.length != 512 then [] else (List.range 256).foldl (fun m k => tset 0 m k (BitVec.ofNat 16 (leAt d (2 * k) 2))) []

/-- Steps 4 and 5, once the APLL is locked: the domains that the next steps use, the journal and the repairs. -/
def State.bootTick (s : State) : State :=
  let m := s.boot.mode.toNat
  let s := s.lockNow
  let s := s.powerNow ([7, 8, 49, 50, 51, 52, 62] ++ (if m = 7 then [61] else []))
  if m ≤ 2 || m = 7 then
    (let s := s.nvStart
     s.setVat { s.vat with repair := repairOf (tget [] s.nv.recs 0xFF000001) })
  else s

/-- CHIP_RESET_RELEASE (17 R433). Where the APLL does not lock, the ROM stays at step 4. -/
def execChipResetRelease (env : BootEnv) (s : State) : Host.Outcome State Fault Refusal :=
  .next (if !(s.boot.aonOn && s.boot.inReset) then s
    else
      let s := s.bootStart env
      if env.apllOk then s.bootTick.bootImage env.memOk else s)

/-- The boot window reads 0. -/
def State.clearWindow (s : State) : State := s.dropMem 0x01000000 0x01040000

/-- GO while PHASE = HOST_WAIT: the image in the window is checked (17 R421). -/
def State.bootGo (s : State) (memOk : Bool) : State :=
  if !(s.boot.phase = 1 && s.boot.mode == 1) then s
  else
    match s.tryWindow memOk with
    | (s1, 0) => s1.bootDone false (s.busBytes 0x01000000 256)
    | (s1, k) => (s1.clearWindow).setBoot { s1.boot with phase := 1, err := k }

/-- SYS_BOOT_GO (17 R421, R436). -/
def execSysBootGo (val : BitVec 32) (env : BootEnv) (s : State) : Host.Outcome State Fault Refusal :=
  .next (if bit val.toNat 0 && s.domOn 59 then s.bootGo env.memOk else s)

/-- SYS_CORE_RUN takes a value: a core whose bit rises starts; clearing a bit leaves its core as it is (17 R435, R436). -/
def State.writeCoreRun (s : State) (v : Nat) : State :=
  let old := s.cc.coreRun
  let s := s.setCc { s.cc with coreRun := BitVec.ofNat 4 (v &&& 0xE) }
  [1, 2, 3].foldl (fun s c =>
    if bit v c && !bit old.toNat c && s.domOn c && (s.core c).run == .inReset then s.coreReset c else s) s

/-- SYS_CORE_RUN (17 R435, R436). -/
def execSysCoreRun (path : Path) (val : BitVec 32) (s : State) : Host.Outcome State Fault Refusal :=
  .next (if s.pathUp path && privileged path && s.domOn 6 then s.writeCoreRun val.toNat else s)

/-! ### The PCIe link (04 R67, R95, R96; 17 R415, R431, R434) -/

/-- PERST_N (17 R415, R431): ignored outside host mode; during host load the window is cleared. -/
def execPerstN (s : State) : Host.Outcome State Fault Refusal :=
  .next (let s := s.setPcie { s.pcie with perst := true }
    if !s.hostMode || s.boot.inReset then s
    else
      let s := s.resetPcie
      if s.boot.mode == 1 && s.boot.phase = 1 then s.clearWindow.setBoot { s.boot with phase := 0 } else s)

/-- PERST_N_RELEASE (17 R434, R431). -/
def execPerstNRelease (s : State) : Host.Outcome State Fault Refusal :=
  .next (let s := s.setPcie { s.pcie with perst := false }
    if !s.hostMode || s.boot.inReset then s
    else
      let s := if s.domOn 9 then s.setPcie { s.pcie with training := true } else s
      if s.boot.mode == 1 && s.boot.phase = 0 && !s.time.ckeOff then s.setBoot { s.boot with phase := 1 } else s)

/-- DL_UP (04 R70, 17 R434): training has ended with the link up, at a speed of 1 to 3 and a width of 1, 2 or 4 lanes; which of them the other
end of the link supports is a free value (log 2). -/
def execDlUp (s : State) : Host.Outcome State Fault Refusal :=
  .next (if s.hostMode && s.domOn 9 && s.pcie.training && !s.pcie.perst then
      (let d := s.draw
       d.1.setPcie { s.pcie with linkUp := true, training := false, speed := 1 + fld d.2.toNat 0 16 % 3, width := 2 ^ (fld d.2.toNat 16 16 % 3) })
    else s)

/-- DL_DOWN (04 R95): an FLR of every function; the link trains again. -/
def execDlDown (s : State) : Host.Outcome State Fault Refusal :=
  .next (if s.pcie.linkUp then
      (let s := s.linkDown
       if s.hostMode && s.domOn 9 && !s.pcie.perst then s.setPcie { s.pcie with training := true } else s)
    else s)

/-- FLR (04 R96): by configuration request, in host mode. -/
def execFlr (fn : Nat) (s : State) : Host.Outcome State Fault Refusal :=
  .next (if s.hostMode && s.pcieUp && s.fnExists fn then s.flr fn else s)

/-! ### Configuration requests (04 R70, 19 R452) -/

/-- A dword of configuration space: the bits that always read 1, those that a write changes, and what these are at reset. -/
structure ConfRow where
  fixed : Nat := 0
  mask : Nat := 0
  reset : Nat := 0
deriving DecidableEq, Repr

/-- The dwords that both kinds of function have; a VF's own header and capability list differ (04 R70, 19 R452; log 4 for the layouts and
reset values that the published standards give). -/
def confCommon (off : Nat) : Option ConfRow :=
  if off = 0x08 then some { fixed := 0x040100B0 }
  else if off = 0x50 then some { fixed := 0x000F6011, mask := 0xC0000000 }
  else if off = 0x60 then some { fixed := 0x00020010 }
  else if off = 0x64 then some { fixed := 0x10008022 }
  else if off = 0x6C then some { fixed := 0x00410843 }
  else if off = 0x84 then some { fixed := 0x1F }
  else if off = 0x8C then some { fixed := 0xE }
  else none

/-- The dwords of the PF, NumVFs apart: type 0 header with a 16 MiB BAR0, PM with No_Soft_Reset, MSI-X, PCI Express, AER, ARI, SR-IOV with a
64 KiB VF BAR0, Secondary PCI Express, serial number. -/
def State.confPf (s : State) (off : Nat) : ConfRow :=
  if off = 0x00 then { fixed := 0x71601D2A }
  else if off = 0x04 then { fixed := 0x00100000, mask := 0x146 }
  else if off = 0x0C then { mask := 0xFF }
  else if off = 0x10 then { fixed := 4, mask := 0xFF000000 }
  else if off = 0x14 then { mask := 0xFFFFFFFF }
  else if off = 0x2C then { fixed := 0x71601D2A }
  else if off = 0x34 then { fixed := 0x40 }
  else if off = 0x3C then { mask := 0xFF }
  else if off = 0x40 then { fixed := 0x00035001 }
  else if off = 0x44 then { fixed := 8, mask := 3 }
  else if off = 0x54 then { fixed := 0x108000 }
  else if off = 0x58 then { fixed := 0x10C000 }
  else if off = 0x68 then { mask := 0x79FF, reset := 0x2810 }
  else if off = 0x70 then
    { fixed := s.pcie.speed * 2 ^ 16 + s.pcie.width * 2 ^ 20 + 2 ^ 28 * b2n (!bit s.clk.bootCfg.toNat 4), mask := 0xCB }
  else if off = 0x88 then { mask := 0x1F }
  else if off = 0x90 then { mask := 0xF, reset := 3 }
  else if off = 0x100 then { fixed := 0x14010001 }
  else if off = 0x108 then { mask := 0x7FF030 }
  else if off = 0x10C then { mask := 0x7FF030, reset := 0x462030 }
  else if off = 0x114 then { mask := 0x31C1, reset := 0x2000 }
  else if off = 0x140 then { fixed := 0x1601000E }
  else if off = 0x160 then { fixed := 0x1A010010 }
  else if off = 0x168 then { fixed := b2n s.pcie.vfEnable, mask := 0x18 }
  else if off = 0x16C then { fixed := 0x000F000F }
  else if off = 0x170 then { fixed := s.pcie.numVfs.toNat }
  else if off = 0x174 then { fixed := 0x00010001 }
  else if off = 0x178 then { fixed := 0x71680000 }
  else if off = 0x17C then { fixed := 1 }
  else if off = 0x180 then { fixed := 1 }
  else if off = 0x184 then { fixed := 4, mask := 0xFFFF0000 }
  else if off = 0x188 then { mask := 0xFFFFFFFF }
  else if off = 0x1A0 then { fixed := 0x1C010019 }
  else if off = 0x1C0 then { fixed := 0x00010003 }
  else if off = 0x1C4 then { fixed := s.boot.fuses.serial.toNat % 2 ^ 32 }
  else if off = 0x1C8 then { fixed := s.boot.fuses.serial.toNat / 2 ^ 32 }
  else {}

/-- The dwords of a VF. -/
def confVf (off : Nat) : ConfRow :=
  if off = 0x00 then { fixed := 0xFFFFFFFF }
  else if off = 0x04 then { fixed := 0x00100000, mask := 4 }
  else if off = 0x2C then { fixed := 0x71681D2A }
  else if off = 0x34 then { fixed := 0x50 }
  else if off = 0x54 then { fixed := 0x8000 }
  else if off = 0x58 then { fixed := 0xC000 }
  else if off = 0x100 then { fixed := 0x0001000E }
  else {}

/-- A dword of function fn. -/
def State.confRow (s : State) (fn off : Nat) : ConfRow := (confCommon off).getD (if fn = 0 then s.confPf off else confVf off)

/-- Read a dword of configuration space. -/
def State.confRead (s : State) (fn off : Nat) : Nat :=
  let r := s.confRow fn off
  (tget (BitVec.ofNat 32 r.reset) s.pcie.cfg (fn * 4096 + off)).toNat ||| r.fixed

/-- VFs that no longer exist are reset (log 4). -/
def State.dropVfs (s : State) : State := ((List.range 16).filter fun f => !s.fnExists f).foldl (fun s f => s.flrOne f) s

/-- A write of a dword takes the bits that writes change; NumVFs holds while VF Enable is 1, PowerState takes D0 and D3hot alone; FLR and
SR-IOV act. -/
def State.confWrite (s : State) (fn off : Nat) (val : BitVec 32) : State :=
  let r := s.confRow fn off
  let v := val.toNat &&& r.mask
  if fn = 0 && off = 0x170 then (if s.pcie.vfEnable then s else s.setPcie { s.pcie with numVfs := val.setWidth 16 })
  else if off = 0x44 && (v = 1 || v = 2) then s
  else
    let s := s.setPcie { s.pcie with cfg := tset (BitVec.ofNat 32 r.reset) s.pcie.cfg (fn * 4096 + off) (BitVec.ofNat 32 v) }
    if fn = 0 && off = 0x168 then (s.setPcie { s.pcie with vfEnable := bit val.toNat 0 }).dropVfs
    else if off = 0x68 && bit val.toNat 15 then s.flr fn
    else s

/-- CONFIGURATION_REQUEST (04 R67, R70, 19 R452): a read gives its data, a write acts; a request to a VF that does not exist is not
answered. -/
def execConfigurationRequest (fn : Nat) (off : Nat) (write : Bool) (val : BitVec 32) (s : State) : Host.Outcome State Fault Refusal :=
  .next (if !(s.hostMode && s.pcieUp && s.fnExists fn && off < 4096 && off % 4 = 0) then s
    else if write then s.confWrite fn off val
    else s.setPcie { s.pcie with reply := BitVec.ofNat 32 (s.confRead fn off) })

end Sys2Proof.Machine
end

