-- ==== Sys2Proof/Machine/Mains.lean ====
section
/-! DEFINITION. Machine/Mains.lean: the barrier link, the compensator, mains indications, hold-up and reserve of the device, and the
KF-7110 (15). -/

namespace Sys2Proof.Machine

/-! ### Frames (15 R372 to R377) -/

/-- One bit of the CRC-8 with polynomial 0x07 (15 R373). -/
def crc8Bit (c : Nat) (b : Bool) : Nat := if bit c 7 != b then (2 * c % 256) ^^^ 7 else 2 * c % 256

/-- CRC-8 of bytes, each from its most significant bit. -/
def crc8 (l : List Byte) : Nat :=
  l.foldl (fun c v => [7, 6, 5, 4, 3, 2, 1, 0].foldl (fun c k => crc8Bit c (bit v.toNat k)) c) 0

/-- A frame of fields, with its CRC over bytes 0 to 6. -/
def sealed (fields : Nat) : BitVec 64 := BitVec.ofNat 64 (fields % 2 ^ 56 + 2 ^ 56 * crc8 (leBytes 7 fields))

/-- SYNC and CRC of a frame are good (15 R372). -/
def frameGood (sync : Nat) (w : BitVec 64) : Bool := fld w.toNat 0 4 = sync && sealed w.toNat == w

/-- A setting of the barrier link. -/
def State.psuCfg (s : State) (p : Nat) : Nat := s.cfg 3 0x40 p

/-- Settings sent as PIDX 0 to 5 (15 R375). -/
def pidxParams : List Nat := [0x27, 0x28, 0x2A, 0x2B, 0x2C, 0x29]

/-- Range of a parameter. -/
def pidxRange (k : Nat) : Nat × Nat :=
  nth (0, 0) [(50, 1000), (760, 800), (50, 2000), (2000, 10000), (4000, 25000), (400, 700)] k

/-- Defaults that the KF-7110 takes in START. -/
def pidxDefault (k : Nat) : BitVec 16 := nth 0 [200, 780, 400, 2500, 16000, 600] k

/-! ### Reserve, mains loss (15 R386, R389) -/

/-- RSV_EN follows MAINS_LOST and the bus. -/
def State.rsvRefresh (s : State) : State :=
  let want := s.psuCfg 0x2F == 1 && (s.psu.mainsLost || s.psu.rsvLow)
  if s.psu.rsvEn = want then s
  else (s.setPsu { s.psu with rsvEn := want }).post0 (if want then 0x6D else 0x6E) 0x340

/-- The mains-loss indication. -/
def State.mainsLoss (s : State) : State :=
  if s.psu.mainsLost then s
  else
    let s := (s.setPsu { s.psu with mainsLost := true, losses := satAdd32 s.psu.losses 1 }).post0 0x68 0x340
    s.rsvRefresh.mainsEvent true

/-! ### Uplink (15 R379, R386, R392) -/

/-- A new LINK_STATE: LINK_UP and LINK_DOWN, mains loss with DOWN; CTRL is sent as 0 from DOWN, UP and SAFE on. -/
def State.setLink (s : State) (l : Nat) : State :=
  if s.psu.link = l then s
  else
    let s := s.setPsu { s.psu with link := l, ctrl := l == 2, burst := false, goodRun := if l = 0 then 0 else s.psu.goodRun,
                                   okSince := if l = 2 then s.psu.okSince else none,
                                   holdup := if l = 0 then 0 else s.psu.holdup }
    if l = 2 then s.post0 0x6A 0x340 else if l = 0 then (s.post0 0x6B 0x340).mainsLoss else s

/-- A bad uplink slot: the fourth in a row takes the link down. -/
def State.uplinkBad (s : State) : State :=
  let s := s.setPsu { s.psu with linkBad := satAdd32 s.psu.linkBad 1, badRun := s.psu.badRun + 1, goodRun := 0 }
  if 4 ≤ s.psu.badRun then s.setLink 0 else s

/-- PERIOD_NOW as last reported, within PER_MIN to PER_MAX. -/
def State.periodNow (s : State) : Rat :=
  let p : Rat := ((tget 0 s.psu.tele 6).toNat : Int)
  let lo : Rat := ((s.psuCfg 0x2B : Nat) : Int)
  let hi : Rat := ((s.psuCfg 0x2C : Nat) : Int)
  if p < lo then lo else if hi < p then hi else p

/-- The hand-over, where its conditions hold (15 R379). -/
def State.handOver (s : State) : State :=
  let p := s.psu
  if !p.ctrl && ((p.link = 1 && fld p.up.toNat 8 3 = 1) || p.link = 3) && 64 ≤ p.goodRun && 11400 ≤ p.vbus && p.vbus ≤ 12600 then
    s.setPsu { p with ctrl := true, y1 := s.periodNow, y2 := s.periodNow, e1 := 0, e2 := 0 }
  else s

/-- A good uplink frame. -/
def State.uplinkGood (s : State) (w : BitVec 64) : State :=
  let old := s.psu.up.toNat
  let st := fld w.toNat 8 3
  let fault := fld w.toNat 13 3
  let k := fld w.toNat 35 4
  let s := s.setPsu { s.psu with
    up := w, badRun := 0, goodRun := s.psu.goodRun + 1,
    tele := if k ≤ 6 then tset 0 s.psu.tele k (BitVec.ofNat 16 (fld w.toNat 39 16)) else s.psu.tele,
    bursts := if st = 3 && fld old 8 3 != 3 then satAdd32 s.psu.bursts 1 else s.psu.bursts }
  let s := if fault != 0 && fault != fld old 13 3 then s.post0 0x6C (0x300 + fault) else s
  let s := if st = 2 then s.setLink 2 else if st = 3 then s.setLink 3
    else if s.psu.link = 0 then (if 16 ≤ s.psu.goodRun then s.setLink 1 else s) else s.setLink 1
  let s := s.handOver
  let s := s.setPsu { s.psu with okSince := if bit w.toNat 11 && s.psu.link == 2 then some (s.psu.okSince.getD s.time.tick) else none }
  if bit w.toNat 11 then s else s.mainsLoss

/-- UPLINK_FRAME (15 R372, R376, R379). -/
def execUplinkFrame (word : BitVec 64) (s : State) : Host.Outcome State Fault Refusal :=
  .next (if !s.boot.aonOn then s else if frameGood 0xA word then s.uplinkGood word else s.uplinkBad)

/-- MAINS_OK and LINKED have held for 1 s, as TICK shows it to 500 ppm; before the first tick nothing counts it (log 101). -/
def State.mainsHeld (s : State) : Bool := s.psu.okSince.any fun t => !s.time.started || t.toNat + 47976 ≤ s.time.tick.toNat

/-- MAINS_RETURN (15 R386): MAINS_OK and LINKED have held for 1 s. -/
def execMainsReturn (s : State) : Host.Outcome State Fault Refusal :=
  .next (if s.boot.aonOn && s.psu.mainsLost && s.psu.link = 2 && bit s.psu.up.toNat 11 && s.mainsHeld then
      ((s.setPsu { s.psu with mainsLost := false }).post0 0x69 0x340).rsvRefresh.mainsEvent false
    else s)

/-! ### The compensator (15 R382, R383) -/

/-- A coefficient, Q8.24. -/
def State.coefOf (s : State) (p : Nat) : Rat := (((s.cfgW 3 0x40 p).toInt : Int) : Rat) / 16777216

/-- A sample of V_BUS: overvoltage, and the sense of the comparator at 11.0 V. -/
def State.sampleBus (s : State) (vBus : Nat) : State :=
  let p := s.psu
  s.setPsu { p with vbus := vBus, rsvLow := vBus < 11000,
                    ovp := if 13800 < vBus then true else if vBus < s.psuCfg 0x20 then false else p.ovp }

/-- V_REF moves towards VBUS_TARGET by 1 mV. -/
def State.nextVref (s : State) : Int :=
  let t : Int := (s.psuCfg 0x20 : Nat)
  if s.psu.vref < t then s.psu.vref + 1 else if t < s.psu.vref then s.psu.vref - 1 else s.psu.vref

/-- y[n], clamped. -/
def State.compY (s : State) (e : Int) : Rat :=
  let p := s.psu
  let y := s.coefOf 0x21 * (e : Rat) + s.coefOf 0x22 * (p.e1 : Rat) + s.coefOf 0x23 * (p.e2 : Rat) - s.coefOf 0x24 * p.y1 - s.coefOf 0x25 * p.y2
  let lo : Rat := ((s.psuCfg 0x2B : Nat) : Int)
  let hi : Rat := ((s.psuCfg 0x2C : Nat) : Int)
  if y < lo then lo else if hi < y then hi else y

/-- One update in LINKED. -/
def State.compStep (s : State) : State :=
  let p := s.psu
  let v := s.nextVref
  let e := v - (p.vbus : Int)
  if p.burst && e < 0 then s.setPsu { p with vref := v }
  else
    let y := s.compY e
    let lo : Rat := ((s.psuCfg 0x2B : Nat) : Int)
    s.setPsu { p with vref := v, y1 := y, y2 := p.y1, e1 := e, e2 := p.e1,
                      burst := y == lo && e < -((s.psuCfg 0x26 : Nat) : Int) }

/-- The command of a slot: the loop in LINKED, PERIOD_NOW and no error in every other state. -/
def State.loopStep (s : State) : State :=
  let s := if s.psu.link = 2 then s.compStep
    else s.setPsu { s.psu with y1 := s.periodNow, y2 := s.periodNow, e1 := 0, e2 := 0, burst := false }
  s.setPsu { s.psu with run := !s.psu.burst && !s.psu.ovp }

/-- round(y). -/
def roundNs (y : Rat) : Nat := (y + 1 / 2).floor.toNat

/-- The frame of a slot (15 R374, R375). -/
def State.sendDown (s : State) : State :=
  let p := s.psu
  let pars := if p.pidx = 0 then pidxParams.map (fun k => s.psuCfg k) else p.pars
  let per := roundNs p.y1 % 2 ^ 16
  let w := sealed (5 + 2 ^ 4 * p.seq.toNat + 2 ^ 8 * b2n p.run + 2 ^ 9 * b2n p.ctrl + 2 ^ 12 * per + 2 ^ 28 * p.pidx
    + 2 ^ 32 * (nth 0 pars p.pidx % 2 ^ 16))
  s.setPsu { p with last := w, seq := p.seq + 1, pars := pars, pidx := (p.pidx + 1) % 6,
                    period := if p.ctrl then BitVec.ofNat 16 per else p.period }

/-! ### The KF-7110: states (15 R370, R377, R378, R380, R381) -/

/-- A parameter in force. -/
def KfSt.par (k : KfSt) (i : Nat) : Nat := (tget (pidxDefault i) k.params i).toNat

/-- A parameter accepted. -/
def KfSt.putPar (k : KfSt) (i : Nat) (v : BitVec 16) : KfSt := { k with params := tset (pidxDefault i) k.params i v }

/-- The PFC may switch (15 R380). -/
def KfSt.pfc (k : KfSt) : KfSt := { k with pfcOn := k.on && k.mainsOk && k.st != 4 }

/-- Entry to a state: its counts start again. -/
def KfSt.enter (k : KfSt) (st : Nat) : KfSt :=
  ({ k with st := st, good1 := 0, good0 := 0, bad := 0, limRun := 0, capRun := 0, soft := false, perNow := none } : KfSt).pfc

/-- START: default parameters, LLC off, and a new sequence of crossings. -/
def KfSt.start (k : KfSt) : KfSt :=
  ({ k with params := [], cand := [], run := false, valid := 0, anyCand := false } : KfSt).enter 0

/-- HOLDOFF for a FAULT: PFC and LLC off. -/
def KfSt.holdoff (k : KfSt) (fault : BitVec 3) : KfSt := ({ k with run := false, fault := fault } : KfSt).enter 4

/-- The half-bridge switches. -/
def KfSt.switching (k : KfSt) : Bool := k.on && (k.soft || (1 ≤ k.st && k.st ≤ 3))

/-! ### The KF-7110: link (15 R370, R372, R375, R381) -/

/-- A slot of the downlink that holds no good frame. -/
def KfSt.badSlot (k : KfSt) : KfSt :=
  let k := { k with bad := k.bad + 1, good1 := 0, good0 := 0 }
  if k.st = 2 && 4 ≤ k.bad then ({ k with fault := 3 } : KfSt).enter 3 else k

/-- A parameter of a good frame: taken when the last good frame with its PIDX carried the same value in range. -/
def KfSt.hear (k : KfSt) (i : Nat) (v : BitVec 16) : KfSt :=
  if 6 ≤ i then k
  else
    let r := pidxRange i
    let k' := { k with cand := tset none k.cand i (some v) }
    if tget none k.cand i = some v && r.1 ≤ v.toNat && v.toNat ≤ r.2 then k'.putPar i v else k'

/-- A commanded period, clamped. -/
def KfSt.clampPer (k : KfSt) (p : Nat) : BitVec 16 := BitVec.ofNat 16 (max (k.par 3) (min (k.par 4) p))

/-- A good downlink frame. -/
def KfSt.goodFrame (k : KfSt) (w : Nat) : KfSt :=
  let k := k.hear (fld w 28 4) (BitVec.ofNat 16 (fld w 32 16))
  let ctrl := bit w 9
  let k := { k with bad := 0, good1 := if ctrl then k.good1 + 1 else 0, good0 := if ctrl then 0 else k.good0 + 1 }
  let k := if (k.st = 1 || k.st = 3) && 4 ≤ k.good1 then ({ k with fault := 0 } : KfSt).enter 2
    else if k.st = 2 && 4 ≤ k.good0 then k.enter 1 else k
  if k.st = 2 && ctrl then { k with period := k.clampPer (fld w 12 16), perNow := some (k.clampPer (fld w 12 16)), run := bit w 8 } else k

/-- The KF-7110 sends an uplink frame: what it measures is a free value (log 2). -/
def State.kfSend (s : State) : State :=
  let x := s.draw
  let s := x.1
  let r := x.2.toNat
  let k := s.kf
  let tval := if k.tidx = 0 then (if k.mainsOk then fld r 0 16 else 0) else if k.tidx = 3 then 0x71A1
    else if k.tidx = 6 then (match k.perNow with | some p => p.toNat | none => fld r 0 16) else fld r 0 16
  let w := sealed (0xA + 2 ^ 4 * k.seq.toNat + 2 ^ 8 * k.st + 2 ^ 11 * b2n k.mainsOk + 2 ^ 12 * b2n (k.pfcOn && !k.pfcHold)
    + 2 ^ 13 * k.fault.toNat + 2 ^ 16 * fld r 16 10 + 2 ^ 26 * (if k.mainsOk then fld r 26 9 else 0) + 2 ^ 35 * k.tidx + 2 ^ 39 * tval)
  s.setKf { k with last := w, seq := k.seq + 1, tidx := (k.tidx + 1) % 7 }

/-- The KF-7110 meets the frame that the device has sent, good or not, and answers it. -/
def State.kfReceive (s : State) (good : Bool) : State :=
  if !s.kf.on then s
  else (s.setKf (if good then s.kf.goodFrame s.psu.last.toNat else s.kf.badSlot)).kfSend

/-- DOWNLINK_FRAME (15 R374, R382, R383): `good` says that the frame reaches the KF-7110 as it was sent. -/
def execDownlinkFrame (vBus : Nat) (good : Bool) (s : State) : Host.Outcome State Fault Refusal :=
  .next (if !s.boot.aonOn then s
    else ((((s.sampleBus vBus).loopStep).sendDown).kfReceive good).rsvRefresh)

/-- BAD_SLOT (15 R372): at the device's receiver, or at the KF-7110's. -/
def execBadSlot (uplink : Bool) (s : State) : Host.Outcome State Fault Refusal :=
  .next (if uplink then (if s.boot.aonOn then s.uplinkBad else s) else if s.kf.on then s.setKf s.kf.badSlot else s)

/-- UPLINK_SELF_TIMED (15 R372): a bad slot of the KF-7110, and a frame on its own timer. -/
def execUplinkSelfTimed (s : State) : Host.Outcome State Fault Refusal :=
  .next (if s.kf.on then (s.setKf s.kf.badSlot).kfSend else s)

/-! ### Hold-up and reserve (15 R387, R389) -/

/-- HOLDUP_US for a mean power of P mW and a reserve of V_RSV mV. -/
def State.holdupOf (s : State) (powerMw vRsv : Nat) : Nat :=
  let p := max powerMw 1000
  let vb := fld s.psu.up.toNat 16 10
  let vm := s.psuCfg 0x29
  let uf := s.psuCfg 0x2D
  let num := if s.psu.link = 0 || uf = 0 || vb ≤ vm then 0 else s.psuCfg 0x2E * uf * (vb * vb - vm * vm)
  let t := num / (8 * p)
  let t := if s.psuCfg 0x2F = 1 && s.psu.rsvEn && s.psuCfg 0x30 ≤ vRsv then t + 1000 * s.psuCfg 0x31 else t
  min t 0xFFFFFFFF

/-- HOLDUP_ESTIMATE (15 R387): the means of the last 1 ms. -/
def execHoldupEstimate (powerMw : Nat) (iOutMa : Nat) (vRsv : Nat) (s : State) : Host.Outcome State Fault Refusal :=
  .next (if s.boot.aonOn then s.setPsu { s.psu with holdup := BitVec.ofNat 32 (s.holdupOf powerMw vRsv), iout := iOutMa } else s)

/-- RSV_COMPARATOR (15 R389): V_BUS has fallen below 11.0 V. -/
def execRsvComparator (vBus : Nat) (s : State) : Host.Outcome State Fault Refusal :=
  .next (if s.boot.aonOn && vBus < 11000 then (s.setPsu { s.psu with rsvLow := true }).rsvRefresh else s)

/-! ### The KF-7110: start-up and protections (15 R370, R378, R380, R381, R385) -/

/-- VCC_START (15 R378): VCC has reached 16.0 V. -/
def execVccStart (mv : Nat) (s : State) : Host.Outcome State Fault Refusal :=
  .next (if !s.kf.on && 16000 ≤ mv then s.setKf ({ on := true, fault := s.kf.fault, seq := s.kf.seq, last := s.kf.last } : KfSt).start else s)

/-- LLC_SOFT_START (15 R378): V_BULK has reached 360 V in START. -/
def execLlcSoftStart (halfV : Nat) (s : State) : Host.Outcome State Fault Refusal :=
  .next (let k := s.kf
    if k.on && k.st = 0 && !k.soft && k.mainsOk && 720 ≤ halfV then
      s.setKf { k with soft := true, run := true, period := BitVec.ofNat 16 (k.par 3) }
    else s)

/-- SOFT_START_END (15 R378). -/
def execSoftStartEnd (s : State) : Host.Outcome State Fault Refusal :=
  .next (if s.kf.on && s.kf.st = 0 && s.kf.soft then s.setKf (s.kf.enter 1) else s)

/-- HOLDOFF (15 R370): 100 ms in SAFE_BURST without a good frame. -/
def execHoldoff (s : State) : Host.Outcome State Fault Refusal :=
  .next (if s.kf.on && s.kf.st = 3 then s.setKf (s.kf.holdoff 3) else s)

/-- HOLDOFF_END (15 R370, R381): 1 s has passed; a die that was too hot must be below 125 °C. -/
def execHoldoffEnd (tempHalfC : Int) (s : State) : Host.Outcome State Fault Refusal :=
  .next (if s.kf.on && s.kf.st = 4 && (!s.kf.hot || tempHalfC < 250) then s.setKf ({ s.kf with hot := false } : KfSt).start else s)

/-- ZERO_CROSSING (15 R385): `dtUs` after the candidate before it, its half-cycle peaking at `peakV`. -/
def execZeroCrossing (dtUs : Nat) (peakV : Nat) (s : State) : Host.Outcome State Fault Refusal :=
  .next (let k := s.kf
    if !k.on || peakV ≤ 100 then s
    else
      let n := if k.anyCand && 7500 ≤ dtUs && dtUs ≤ 11000 then k.valid + 1 else 0
      s.setKf ({ k with anyCand := true, valid := n, mainsOk := k.mainsOk || 4 ≤ n } : KfSt).pfc)

/-- MAINS_OK_TIMEOUT (15 R385): 12 ms without a valid crossing. -/
def execMainsOkTimeout (s : State) : Host.Outcome State Fault Refusal :=
  .next (if s.kf.on then s.setKf ({ s.kf with mainsOk := false, valid := 0 } : KfSt).pfc else s)

/-- OCP_LIMIT (15 R381): a half-period ended at once by the limit; `inRow` says that the cycle before it did too. -/
def execOcpLimit (inRow : Bool) (s : State) : Host.Outcome State Fault Refusal :=
  .next (if !s.kf.switching then s
    else
      let n := if inRow then s.kf.limRun + 1 else 1
      s.setKf (if 64 ≤ n then s.kf.holdoff 1 else { s.kf with limRun := n, perNow := none }))

/-- CAPACITIVE_MODE (15 R381): the next period is 10 % shorter; `inRow` says that the cycle before was corrected too. -/
def execCapacitiveMode (inRow : Bool) (s : State) : Host.Outcome State Fault Refusal :=
  .next (if !s.kf.switching then s
    else
      let n := if inRow then s.kf.capRun + 1 else 1
      s.setKf (if 256 ≤ n then s.kf.holdoff 5 else { s.kf with capRun := n,
                                                               perNow := if s.kf.st = 2 then some (BitVec.ofNat 16 (s.kf.period.toNat * 9 / 10)) else none }))

/-- OVER_TEMPERATURE (15 R381, R390): above 150 °C, in every state. -/
def execOverTemperature (tempHalfC : Int) (s : State) : Host.Outcome State Fault Refusal :=
  .next (if s.kf.on && 300 < tempHalfC then s.setKf { s.kf.holdoff 2 with hot := true } else s)

/-- VCC_UVLO (15 R381): VCC below 9.5 V; FAULT 4 is reported after the restart. -/
def execVccUvlo (mv : Nat) (s : State) : Host.Outcome State Fault Refusal :=
  .next (if s.kf.on && mv < 9500 then s.setKf { fault := 4, seq := s.kf.seq, last := s.kf.last } else s)

/-- BULK_OVP (15 R380): above 425 V the PFC gate is held off, above 450 V HOLDOFF. -/
def execBulkOvp (halfV : Nat) (s : State) : Host.Outcome State Fault Refusal :=
  .next (if !s.kf.on then s
    else if 900 < halfV then s.setKf { s.kf.holdoff 6 with pfcHold := true }
    else if 850 < halfV then s.setKf { s.kf with pfcHold := true } else s)

/-- BULK_OVP_RELEASE (15 R380): below 410 V. -/
def execBulkOvpRelease (halfV : Nat) (s : State) : Host.Outcome State Fault Refusal :=
  .next (if s.kf.on && halfV < 820 then s.setKf { s.kf with pfcHold := false } else s)

/-- BULK_UV (15 R381): V_BULK below BULK_MIN while the stage switches. -/
def execBulkUv (halfV : Nat) (s : State) : Host.Outcome State Fault Refusal :=
  .next (if s.kf.switching && halfV < s.kf.par 5 then s.setKf s.kf.start else s)

end Sys2Proof.Machine
end

