-- ==== Sys2Proof/Machine/Regs.lean ====
section
/-! DEFINITION. Machine/Regs.lean: the set-up register space: offsets, reads, writes by each path, and the register commands
(19 R448 to R452, 04 R99, 05 R120, 11 R276, R293, 17 R436). -/

namespace Sys2Proof.Machine

/-! ### Where a register lies -/

/-- Offset of an access in the set-up space: a VF sees its function page alone. -/
def regOffset : Path → Nat → Option Nat
  | .vf f, off => if off < 0x10000 then some (0x100000 + f * 0x10000 + off) else none
  | _, off => if off < 0x1000000 then some off else none

/-- A path may write a register (19 R451). -/
def State.mayWrite (s : State) (p : Path) (off : Nat) : Bool :=
  match p with
  | .vf f => pageFn off == some f
  | .pf => true
  | _ => s.standalone || ((pageFn off).isNone && !inWindowRegs off)

/-- A 64-bit register with its low half written. -/
def putLo (v : BitVec 64) (w : Nat) : BitVec 64 := BitVec.ofNat 64 (hi32 v * 2 ^ 32 + w % 2 ^ 32)

/-- A 64-bit register with its high half written. -/
def putHi (v : BitVec 64) (w : Nat) : BitVec 64 := BitVec.ofNat 64 (w % 2 ^ 32 * 2 ^ 32 + lo32 v)

/-- Write one half. -/
def putHalf (v : BitVec 64) (h w : Nat) : BitVec 64 := if h = 0 then putLo v w else putHi v w

/-! ### Rings and function pages (04 R99) -/

/-- A write of RNG_CFG. -/
def State.writeRngCfg (s : State) (g v : Nat) : State :=
  let r := s.ring g
  let en := bit v 0
  if r.on || r.want then (if en then s else s.putRing g { r with on := false, want := false })
  else if r.busy then s
  else s.putRing g { r with cfg := BitVec.ofNat 16 (v % 2 ^ 16 / 2 * 2), want := en }

/-- A write of FN_CTRL: RESET acts in standalone mode only. -/
def State.writeFnCtrl (s : State) (f v : Nat) : State :=
  if s.standalone && bit v 8 then s.flr f
  else s.putFn f { s.fnOf f with enable := bit v 0, eventRing := BitVec.ofNat 3 (fld v 1 3), eventEn := bit v 4 }

/-- A write of an MSI-X table dword (19 R452, log 4). -/
def State.writeMsix (s : State) (k d v : Nat) : State :=
  let e := s.vec k
  s.putVec k (if d = 0 then { e with addr := putLo e.addr (v / 4 * 4) } else if d = 1 then { e with addr := putHi e.addr v }
    else if d = 2 then { e with data := BitVec.ofNat 32 v } else { e with ctl := BitVec.ofNat 32 (v % 2) })

/-- A write in function f's page. -/
def State.writePage (s : State) (f o v : Nat) : State :=
  let F := s.fnOf f
  if 0x8000 ≤ o then
    (if s.domOn 9 && s.hostMode && o < 0x8100 then s.writeMsix (16 * f + (o - 0x8000) / 16) ((o - 0x8000) / 4 % 4) v else s)
  else if !s.domOn 10 then s
  else if o = 0 then s.writeFnCtrl f v
  else if o = 4 then (if bit v 0 then s.putFn f { F with dbFault := false } else s)
  else if o = 8 then (if F.enable then s else s.putFn f { F with db := putLo F.db (v / 64 * 64) })
  else if o = 0xC then (if F.enable then s else s.putFn f { F with db := putHi F.db v })
  else if 0x100 ≤ o && o < 0x180 then
    (let g := 8 * f + (o - 0x100) / 16
     let r := s.ring g
     let k := (o - 0x100) / 4 % 4
     if k < 2 then (if r.busy then s else s.putRing g { r with base := putHalf r.base k v })
     else if k = 2 then s.writeRngCfg g v
     else s.putRing g { r with cfgErr := r.cfgErr && !bit v 17, budgetFail := r.budgetFail && !bit v 18 })
  else s

/-- Replace a window's record. -/
def State.putWin (s : State) (k : Nat) (v : WinSt) : State := s.setHost { s.host with wins := tset {} s.host.wins k v }

/-- A write of a window register. -/
def State.writeWindow (s : State) (o v : Nat) : State :=
  let w := s.win (o / 0x20)
  let k := o % 0x20
  if !s.domOn 10 then s
  else if k = 0 then s.putWin (o / 0x20) { w with base := putLo w.base (v / 4096 * 4096) }
  else if k = 4 then s.putWin (o / 0x20) { w with base := putHi w.base v }
  else if k = 8 then s.putWin (o / 0x20) { w with limit := putLo w.limit (v / 4096 * 4096 + 0xFFF) }
  else if k = 0xC then s.putWin (o / 0x20) { w with limit := putHi w.limit v }
  else if k = 0x10 then s.putWin (o / 0x20) { w with valid := bit v 0, read := bit v 1, write := bit v 2 }
  else s

/-! ### PLIC and SYS -/

/-- A write in the PLIC window. -/
def State.writePlic (s : State) (o v : Nat) : State :=
  let p := s.cc.plic
  let put (q : PlicSt) : State := s.setCc { s.cc with plic := q }
  if !s.domOn 6 then s
  else if 4 ≤ o && o < 0x500 then put { p with prio := tset 0 p.prio (o / 4) (BitVec.ofNat 3 v) }
  else if 0x2000 ≤ o && o < 0x2400 then
    (let c := (o - 0x2000) / 0x80
     let j := (o - 0x2000) % 0x80 / 4
     if 10 ≤ j then s
     else put { p with en := (List.range 32).foldl (fun m b =>
       if 32 * j + b = 0 then m else tset false m (c * 1024 + 32 * j + b) (bit v b)) p.en })
  else if 0x200000 ≤ o && o < 0x208000 then
    (let c := (o - 0x200000) / 0x1000
     if o % 0x1000 = 0 then put { p with thr := tset 0 p.thr c (BitVec.ofNat 3 v) }
     else if o % 0x1000 = 4 then s.complete c v else s)
  else s

/-- A write of a SYS register; SYS_BOOT_GO takes what it meets outside from free values (log 2). -/
def State.writeSys (s : State) (p : Path) (o v : Nat) : State :=
  let c := s.cc
  if o = 0x08 then
    (if s.domOn 59 && bit v 0 then (let x := s.draw; x.1.bootGo (bit x.2.toNat 0)) else s)
  else if o = 0x0C then s.setBoot { s.boot with cause := s.boot.cause &&& ~~~(BitVec.ofNat 4 v) }
  else if o = 0x10 then (if fld v 0 16 = 0x5EED && bit v 16 && privileged p then s.chipReset 2 false else s)
  else if o = 0x40 then
    (if !s.domOn 7 || bit c.memCfg.toNat 31 then s else s.setCc { c with memCfg := BitVec.ofNat 32 (v % 32 + 2 ^ 31 * b2n (bit v 31)) })
  else if o = 0x48 then (if s.domOn 7 then s.writeMemErr (BitVec.ofNat 32 v) else s)
  else if !s.domOn 6 then s
  else if o = 0x14 then s.writeCoreRun v
  else if o = 0x18 then s.setCc { c with entry := BitVec.ofNat 40 (c.entry.toNat / 2 ^ 32 * 2 ^ 32 + v % 2 ^ 32 / 4 * 4) }
  else if o = 0x1C then s.setCc { c with entry := BitVec.ofNat 40 (v % 256 * 2 ^ 32 + c.entry.toNat % 2 ^ 32) }
  else if o = 0x30 then (if bit v 31 then s.setBus { s.bus with err := { s.bus.err with valid := false, count := 0 } } else s)
  else if 0x80 ≤ o && o < 0xA0 then
    (let k := (o - 0x80) / 8
     (s.setCc { c with mtimecmp := tset (BitVec.allOnes 64) c.mtimecmp k (putHalf (tget (BitVec.allOnes 64) c.mtimecmp k) ((o - 0x80) / 4 % 2) v) }).mtips)
  else if 0xA0 ≤ o && o < 0xB0 then s.setCc { c with msip := tset false c.msip ((o - 0xA0) / 4) (bit v 0) }
  else s

/-- A write of CMT_STORE_BASE or CMT_STORE_SIZE, ignored while a commit is pending or a blob is held (05 R120). -/
def State.writeStore (s : State) (o v : Nat) : State :=
  let c := s.cmt
  if !c.queue.isEmpty || !c.waiting.isEmpty || !c.held.isEmpty then s
  else if o = 0 then s.setCmt { c with storeBase := BitVec.ofNat 40 (c.storeBase.toNat / 2 ^ 32 * 2 ^ 32 + v % 2 ^ 32 / 4096 * 4096) }
  else if o = 4 then s.setCmt { c with storeBase := BitVec.ofNat 40 (v % 256 * 2 ^ 32 + c.storeBase.toNat % 2 ^ 32) }
  else if o = 8 then s.setCmt { c with storePages := BitVec.ofNat 24 v }
  else s

/-- A register takes a written value. -/
def State.regPut (s : State) (p : Path) (off v : Nat) : State :=
  if off % 4 != 0 then s
  else if off < 0x1000 then s.writeSys p off v
  else if off = 0x1000 then
    (if bit s.clk.bootCfg.toNat 31 then s else s.setClk { s.clk with bootCfg := BitVec.ofNat 32 (v % 32 + 2 ^ 31 * b2n (bit v 31)) })
  else if 0x3000 ≤ off && off < 0x300C then s.writeStore (off - 0x3000) v
  else if off = 0x6000 then s.writeMdioCmd (BitVec.ofNat 32 v)
  else if off = 0x6004 then s.writeMdioData (BitVec.ofNat 32 v)
  else
    match pageFn off with
    | some f => s.writePage f (off % 0x10000) v
    | none =>
      if inWindowRegs off then s.writeWindow (off - 0x200000) v
      else if 0x400000 ≤ off && off < 0x800000 then s.writePlic (off - 0x400000) v
      else if 0x800000 ≤ off && off < 0x840000 && s.windowOpen then s.busWrite (0x01000000 + (off - 0x800000)) (leBytes 4 v)
      else s

/-- A write by a path: ignored where the path may not write the register (19 R451). -/
def State.regWrite (s : State) (p : Path) (off v : Nat) : State :=
  match regOffset p off with
  | some o => if s.pathUp p && s.mayWrite p o then s.regPut p o v else s
  | none => s

/-! ### Commands -/

/-- REG_WRITE (19 R448 to R451). -/
def execRegWrite (path : Path) (off : Nat) (val : BitVec 32) (s : State) : Host.Outcome State Fault Refusal :=
  .next (s.regWrite path off val.toNat)

/-- Offset of a register in function f's page, as a path addresses it. -/
def pageOffset (p : Path) (f o : Nat) : Option Nat :=
  match p with
  | .vf k => if k = f then some o else none
  | _ => if f < 16 then some (0x100000 + f * 0x10000 + o) else none

/-- RING_ENABLE (04 R93, R99): RNG_CFG is written with ENABLE = 1; it takes effect at the next sweep. -/
def execRingEnable (path : Path) (ring : Nat) (val : BitVec 32) (s : State) : Host.Outcome State Fault Refusal :=
  .next (match pageOffset path (ring / 8) (0x108 + 0x10 * (ring % 8)) with
    | some o => if bit val.toNat 0 then s.regWrite path o val.toNat else s
    | none => s)

/-- RING_DISABLE (04 R94, R99): RNG_CFG is written with ENABLE = 0. -/
def execRingDisable (path : Path) (ring : Nat) (val : BitVec 32) (s : State) : Host.Outcome State Fault Refusal :=
  .next (match pageOffset path (ring / 8) (0x108 + 0x10 * (ring % 8)) with
    | some o => if bit val.toNat 0 then s else s.regWrite path o val.toNat
    | none => s)

/-- FN_CTRL_RESET (04 R69, R99): FN_CTRL is written with RESET = 1. -/
def execFnCtrlReset (path : Path) (fn : Nat) (val : BitVec 32) (s : State) : Host.Outcome State Fault Refusal :=
  .next (match pageOffset path fn 0 with
    | some o => if bit val.toNat 8 then s.regWrite path o val.toNat else s
    | none => s)

/-- MEM_ERR_VALID_CLEAR (11 R293). -/
def execMemErrValidClear (path : Path) (val : BitVec 32) (s : State) : Host.Outcome State Fault Refusal :=
  .next (s.regWrite path 0x48 val.toNat)

/-- SYS_TICK_LO_READ (02, Fields; 19 R449). -/
def execSysTickLoRead (slot : Nat) (s : State) : Host.Outcome State Fault Refusal :=
  .next (if s.boot.aonOn && slot < 20480 then (let x := s.atSlot slot; x.1.latchTick x.2) else s)

/-- SYS_MTIME_LO_READ (11 R293, 19 R449). -/
def execSysMtimeLoRead (slot : Nat) (s : State) : Host.Outcome State Fault Refusal :=
  .next (if s.domOn 6 && slot < 20480 then (let x := s.atSlot slot; x.1.latchMtime x.2) else s)

end Sys2Proof.Machine
end

