-- ==== Sys2Proof/Machine/Bus.lean ====
section
/-! DEFINITION. Machine/Bus.lean: the accesses that bus-side masters make in one cycle (01 R14 to R20, 10 R250 to R254, 11 R270, R288,
19 R449, R454). -/

namespace Sys2Proof.Machine

/-- Bytes of an access. -/
def Access.size (x : Access) : Nat := if x.write then x.bytes.length else x.len

/-- The function that an access acts for. -/
def Access.fn (x : Access) : Nat := x.func.toNat

/-- A port B access carries at most 64 bytes and is naturally aligned; others have at least one byte (10 R249). -/
def Access.shaped (x : Access) : Bool :=
  let n := Access.size x
  0 < n && (!inVats x.addr.toNat || x.master.toNat < 4 || ([1, 2, 4, 8, 16, 32, 64].contains n && x.addr.toNat % n = 0))

/-- A master can make an access: it is there, and its access has a form that it makes. -/
def State.masterOn (s : State) (x : Access) : Bool := s.masterUp x.master.toNat (Access.fn x) && Access.shaped x

/-- What a master learns of an access that fails (01 R15, 10 R252, R254, 11 R288). -/
def failStatus (master : Nat) (other : BusStatus) : BusStatus := if master < 4 then .accessFault else if master = 4 then .access else other

/-- Causes of the access faults of a core's access: instruction, load, store (01 R15, 11 R270). -/
def Access.faultCause (x : Access) : Nat := if x.op = .fetch then 1 else if x.write then 7 else 5

/-- Causes of its address-misaligned exceptions. -/
def Access.alignCause (x : Access) : Nat := if x.op = .fetch then 0 else if x.write then 6 else 4

/-- A core takes an exception of an access. -/
def State.coreTrap (s : State) (master cause : Nat) : State := if master < 4 then s.coreFault master cause else s

/-- What an access that fails returns. -/
def Access.noData (x : Access) (st : BusStatus) : BusReply := { status := st, data := if x.write then [] else List.replicate x.len 0 }

/-- An access that ends in an error. -/
def State.failAccess (s : State) (x : Access) (other : BusStatus) : State × BusReply :=
  (s.coreTrap x.master.toNat (Access.faultCause x), Access.noData x (failStatus x.master.toNat other))

/-- What the attributes of a region bar to a core's access: the cause of the exception (11 R270). -/
def State.coreBar (s : State) (x : Access) : Option Nat :=
  let a := x.addr.toNat
  let n := Access.size x
  let io (ok : Bool) : Option Nat := if x.op = .plain && ok && a % n = 0 then none else some (Access.faultCause x)
  match s.region a with
  | .setup => io (n = 4 || n = 8)
  | .vat _ => io ([1, 2, 4, 8].contains n)
  | .sepWeights _ => io ([1, 2, 4, 8].contains n)
  | .sepLut _ => io ([1, 2, 4, 8].contains n)
  | .churn _ => io ([1, 2, 4, 8].contains n)
  | .reserved => none
  | r => if a / 64 != (a + n - 1) / 64 then some (Access.alignCause x)
      else if r = .bootRom && x.op != .plain && x.op != .fetch then some (Access.faultCause x) else none

/-! ### Set-up registers -/

/-- The path by which a master writes registers; the other engines only read them (19 R451). -/
def pathOf (master fn : Nat) : Option Path :=
  if master < 4 then some (.core master)
  else if master = 6 then some (if fn = 0 then .pf else .vf fn)
  else if master = 0xD then some .debug else none

/-- Offset of an address as a path counts it. -/
def pathRel (p : Path) (off : Nat) : Option Nat :=
  match p with
  | .vf f => if pageFn off = some f then some (off % 0x10000) else none
  | _ => some off

/-- Registers all of whose bytes are written, in ascending order (19 R449). -/
def State.writeRegs (s : State) (p : Path) (base : Nat) (bs : List Byte) (off : Nat) : Nat → State
  | 0 => s
  | n + 1 =>
    let s1 := if base ≤ off && off + 4 ≤ base + bs.length then
        (match pathRel p off with
         | some o => s.regWrite p o (leAt bs (off - base) 4)
         | none => s)
      else s
    s1.writeRegs p base bs (off + 4) n

/-- An access at an offset of the set-up register space. -/
def State.regAccessAt (s : State) (x : Access) (off : Nat) : State × BusReply :=
  let n := Access.size x
  let first := off / 4 * 4
  let k := (off + n - first + 3) / 4
  let read : State × BusReply :=
    let r := s.readRegs first k
    (r.1, { data := sub r.2 (off - first) n })
  match pathOf x.master.toNat (Access.fn x) with
  | none => if x.write then (s, {}) else read
  | some p =>
    if (pathRel p off).isNone then (s, Access.noData x .unsupported)
    else if x.write then (s.writeRegs p off x.bytes first k, {})
    else read

/-- An access in the set-up register space. -/
def State.regAccess (s : State) (x : Access) : State × BusReply := s.regAccessAt x (x.addr.toNat - 0x10000000)

/-! ### Vats -/

/-- A port B write, a word a cycle: the word that port A writes in its cycle is lost; a merged word that could not be corrected is an
error too (10 R251 to R254). -/
def State.vatStore (s : State) (x : Access) : State × BusReply :=
  let a := x.addr.toNat
  let ws := vatWords a x.bytes.length
  let hit := nth 0 ws x.portAt
  let lost := x.portA = .write && x.portAt < ws.length
  let s := s.upset (a / 8 * 8) x.ecc
  let t := s.vatStores a x.bytes (if lost then [hit] else [])
  if lost then
    (let r := (t.1.wlost (vatBankOf a)).failAccess x .wlost
     (r.1, { r.2 with status := .wlost }))
  else if t.2 then t.1.failAccess x .poisoned
  else (t.1, {})

/-- A port B read. -/
def State.vatLoad (s : State) (x : Access) : State × BusReply :=
  let a := x.addr.toNat
  let s := s.upset (a / 8 * 8) x.ecc
  let t := s.vatTouches (vatWords a x.len)
  if t.2 then t.1.failAccess x .poisoned else (t.1, { data := s.busBytes a x.len })

/-! ### Other memory -/

/-- What a store of a core is to its line. -/
def Access.storeKind (x : Access) : StoreKind := if x.op = .sc then .sc else if x.op = .amo then .amo else .store

/-- A core's access to a cacheable line, through its caches (11 R270 to R272). -/
def State.coreAccess (s : State) (x : Access) : State × BusReply :=
  let a := x.addr.toNat
  let c := x.master.toNat
  let l := a / 64
  if x.write then
    (let t := s.coreStore c l (a % 64) x.bytes (Access.storeKind x) x.ecc
     if x.op = .amo && (s.line l).poison then (t, Access.noData x .accessFault) else (t, {}))
  else
    let t := if x.op = .fetch then s.coreFetch c l x.ecc else s.coreLoad c l (x.op = .lr) x.ecc
    (t, if (t.line l).poison then Access.noData x .accessFault else { data := t.busBytes a x.len })

/-- An access to memory outside the Vats and the registers. -/
def State.memAccess (s : State) (x : Access) : State × BusReply :=
  let a := x.addr.toNat
  let m := x.master.toNat
  if m < 4 && s.cacheable a then s.coreAccess x
  else if x.write then (s.busWrite a x.bytes, {})
  else
    let s := if s.cacheable a then s.lineCheck (a / 64) x.ecc else s
    if s.poisonedIn a x.len then s.failAccess x .poisoned else (s, { data := s.busBytes a x.len })

/-! ### One access, one cycle -/

/-- One access is performed, or refused and captured (01 R15, R20). -/
def State.busOne (s : State) (x : Access) : State × BusReply :=
  let a := x.addr.toNat
  let m := x.master.toNat
  match (if m < 4 then s.coreBar x else none) with
  | some c => (s.coreTrap m c, Access.noData x .accessFault)
  | none =>
    match s.refusalOf m a (Access.size x) x.write with
    | some k => (s.capture m (Access.fn x) k a x.write).failAccess x (if m = 6 then .unsupported else .access)
    | none =>
      match s.region a with
      | .setup => s.regAccess x
      | .vat _ => if x.write then s.vatStore x else s.vatLoad x
      | _ => s.memAccess x

/-- Accesses one after the other, each with its master's reply. -/
def State.busAll (s : State) : List Access → State × List (Nat × BusReply)
  | [] => (s, [])
  | x :: r =>
    let y := s.busOne x
    let z := y.1.busAll r
    (z.1, (x.master.toNat, y.2) :: z.2)

/-- An access writes SYS_BUSERR_INFO or SYS_MEM_ERR_INFO: software's clear, over which what the device sets in the cycle wins (00 R4,
01 R17). -/
def Access.clears (x : Access) : Bool :=
  x.write && ((x.addr.toNat ≤ 0x10000030 && 0x10000034 ≤ x.addr.toNat + x.bytes.length)
    || (x.addr.toNat ≤ 0x10000048 && 0x1000004C ≤ x.addr.toNat + x.bytes.length))

/-- The order of a cycle: software's clears, then ascending MASTER (00 R4, 01 R17, 19 R454), and at port B of a bank the rotating priority
over the MASTER codes (10 R249). -/
def State.busKey (s : State) (x : Access) : Nat :=
  let m := x.master.toNat
  let a := x.addr.toNat
  if Access.clears x then m
  else if inVats a then 1024 + (m + 16 - tget 0 s.vat.top (vatBankOf a) % 16) % 16 * 16 + m
  else 16 + m

/-- After a cycle the master after the last one served comes first at a bank (10 R249). -/
def State.rotate (s : State) (x : Access) : State :=
  let a := x.addr.toNat
  if inVats a then s.setVat { s.vat with top := tset 0 s.vat.top (vatBankOf a) ((x.master.toNat + 1) % 16) } else s

/-- The accesses of a cycle are made, refusals in ascending MASTER before the accesses that are served, and what they return is kept in
ascending MASTER. -/
def State.busCycle (s : State) (accs : List Access) : State :=
  let accs := accs.filter fun x => s.masterOn x
  let bad := fun (x : Access) => (s.refusalOf x.master.toNat x.addr.toNat (Access.size x) x.write).isSome
  let clr := sortBy (fun x : Access => x.master.toNat) (accs.filter fun x => Access.clears x)
  let ref := sortBy (fun x : Access => x.master.toNat) (accs.filter fun x => !(Access.clears x) && bad x)
  let srv := sortBy (fun x => s.busKey x) (accs.filter fun x => !(Access.clears x) && !bad x)
  let r := s.busAll (clr ++ ref ++ srv)
  let t := srv.foldl (fun t x => t.rotate x) r.1
  t.setBus { t.bus with replies := (sortBy (·.1) r.2).map (·.2) }

/-- BUS_ACCESS (01 R15). -/
def execBusAccess (accs : List Access) (s : State) : Host.Outcome State Fault Refusal := .next (s.busCycle accs)

/-- BUSERR_VALID_CLEAR (01 R17, R20): the earlier capture and its count go, and a refusal of the same cycle is captured anew. -/
def execBuserrValidClear (accs : List Access) (s : State) : Host.Outcome State Fault Refusal :=
  .next (if !s.domOn 6 then s
    else (s.setBus { s.bus with err := { s.bus.err with valid := false, count := 0 } }).busCycle accs)

end Sys2Proof.Machine
end

