-- ==== Sys2Proof/Machine/Debug.lean ====
section
/-! DEFINITION. Machine/Debug.lean: the test access port, boundary scan and external debug (17 R427 to R430, 20 R480). What the RISC-V
debug specification 0.13.2 gives is taken from it (log 4). -/

namespace Sys2Proof.Machine

/-! ### Test access port (17 R427, R430, 20 R480) -/

/-- Length of the boundary-scan register. -/
def cellBits : Nat := 428

/-- The port and the debug module lie in domain 60. -/
def State.tapOn (s : State) : Bool := s.domOn 60

/-- External debug is reachable. -/
def State.debugOpen (s : State) : Bool := s.domOn 60 && !s.boot.debugClosed

/-- An instruction is selected: its data register captures a value; the pins are the chip's own unless it drives or floats them. -/
def State.tapSelect (s : State) (ir : BitVec 5) (dr : BitVec 64) (driving floating : Bool) : State :=
  if s.tapOn then s.setDbg { s.dbg with ir := ir, dr := dr, driving := driving, floating := floating } else s

/-- The cells from TDO on, ball by ball in ascending row and column (20 R478 to R480): runs of (bits of a cell, number of cells). One bit
captures (an input, or an AON ball, which is only observed), two also drive, three also enable. -/
def cellRuns : List (Nat × Nat) :=
  -- row A: four byte lanes; row C: the command balls
  (List.range 4).flatMap (fun _ => [(3, 4), (1, 2), (3, 1), (2, 2), (3, 4)]) ++ [(2, 12)]
  -- rows 11 to 42: eight PDM input ports, four PDM output ports, PERST_N
  ++ (List.range 8).flatMap (fun _ => [(3, 1), (1, 8)]) ++ (List.range 4).flatMap (fun _ => [(3, 1), (2, 4)]) ++ [(1, 1)]
  -- rows 43 to 54: TDM ports on the west side, QSPI and the straps on the east side
  ++ [(3, 2), (1, 1), (2, 1), (3, 2), (1, 1), (2, 2), (3, 2), (1, 1), (2, 2), (3, 3), (1, 1), (3, 1), (2, 1), (3, 1), (1, 1), (2, 2), (3, 1), (1, 3)]
  -- row CE: five AON balls and PMBus; rows CF and CG: AON
  ++ [(1, 5), (3, 2), (1, 21)]
  -- row CH: AON, the two Net ports, MDIO
  ++ [(1, 6)] ++ (List.range 2).flatMap (fun _ => [(2, 6), (1, 6)]) ++ [(2, 1), (3, 1)]

/-- Which bits of the register drive a ball: every bit of a cell but the first. -/
def driveBits : List Bool := cellRuns.flatMap fun r => (List.replicate r.2 (false :: List.replicate (r.1 - 1) true)).flatten

/-- What a register shifted in drives: nothing at inputs and at the AON balls (17 R429). -/
def driven (load : List Bool) : List Bool := List.zipWith (fun b x => b && x) driveBits load

/-- Boundary cells capture the levels of the balls and take what is shifted in. -/
def State.scanCells (s : State) (pins load : List Bool) : State :=
  if s.tapOn then s.setDbg { s.dbg with capture := pins.take cellBits, drive := driven load } else s

/-- EXTEST: acts as BYPASS while debug is closed. -/
def execExtest (pins : List Bool) (load : List Bool) (s : State) : Host.Outcome State Fault Refusal :=
  .next (if s.debugOpen then (s.tapSelect 0 0 true false).scanCells pins load else s.tapSelect 0 0 false false)

/-- IDCODE. -/
def execIdcode (s : State) : Host.Outcome State Fault Refusal := .next (s.tapSelect 1 0x1716054B false false)

/-- SAMPLE_PRELOAD: always available. -/
def execSamplePreload (pins : List Bool) (load : List Bool) (s : State) : Host.Outcome State Fault Refusal :=
  .next ((s.tapSelect 2 0 false false).scanCells pins load)

/-- HIGHZ: the outputs float, the AON balls apart; acts as BYPASS while debug is closed. -/
def execHighz (s : State) : Host.Outcome State Fault Refusal := .next (s.tapSelect 3 0 false s.debugOpen)

/-- CLAMP: the outputs hold what the boundary register drives; acts as BYPASS while debug is closed. -/
def execClamp (s : State) : Host.Outcome State Fault Refusal := .next (s.tapSelect 4 0 s.debugOpen false)

/-- DTMCS: version 0.13 with 7 address bits; no debug module is reported while debug is closed (log 4). -/
def execDtmcs (s : State) : Host.Outcome State Fault Refusal := .next (s.tapSelect 0x10 (if s.debugOpen then 0x71 else 0) false false)

/-- BYPASS. -/
def execBypass (s : State) : Host.Outcome State Fault Refusal := .next (s.tapSelect 0x1F 0 false false)

/-- TEST_LOGIC_RESET: IDCODE is selected. -/
def execTestLogicReset (s : State) : Host.Outcome State Fault Refusal := .next (s.tapSelect 1 0x1716054B false false)

/-! ### Cores (17 R428) -/

/-- A core halts; it keeps answering snoops. -/
def State.haltCore (s : State) (c : Nat) : State :=
  if s.debugOpen && c < 4 && s.domOn c && (s.core c).run == .running then s.putCore c { s.core c with run := .halted } else s

/-- A halted core goes on where it stopped. -/
def State.resumeCore (s : State) (c : Nat) : State :=
  if s.debugOpen && c < 4 && (s.core c).run == .halted then s.putCore c { s.core c with run := .running } else s

/-- hartreset: the caches are invalid, and the core starts from reset (11 R290, 17 R415). -/
def State.hartReset (s : State) (c : Nat) : State :=
  if s.debugOpen && c < 4 && s.domOn c then (s.dropCore c).coreReset c else s

/-- HALT. -/
def execHalt (core : Nat) (s : State) : Host.Outcome State Fault Refusal := .next (s.haltCore core)

/-- RESUME. -/
def execResume (core : Nat) (s : State) : Host.Outcome State Fault Refusal := .next (s.resumeCore core)

/-- HARTRESET. -/
def execHartreset (core : Nat) (s : State) : Host.Outcome State Fault Refusal := .next (s.hartReset core)

/-! ### Abstract register access -/

/-- Trigger that tselect names. -/
def CoreSt.tsel (r : CoreSt) : Nat := (tget 0 r.regs 0x7A0).toNat % 4

/-- An element of a list chosen by a free value. -/
def oneOf3 (f : Nat) : Nat := nth 0 [0, 1, 3] (f % 3)

/-- A byte of pmpcfg as it is stored: reserved bits 0; W without R, and NA4, which a granularity of 4 KiB does not offer, become some legal
code, chosen by a free value (11 R268, log 4). -/
def pmpLegal (b f : Nat) : Nat :=
  let rw := if b % 4 = 2 then oneOf3 f else b % 4
  let a := if fld b 3 2 = 2 then oneOf3 (f / 3) else fld b 3 2
  rw + b / 4 % 2 * 4 + a * 8 + b / 128 % 2 * 128

/-- Configuration byte of PMP entry `i`. -/
def CoreSt.pmpCfg (r : CoreSt) (i : Nat) : Nat := fld (tget 0 r.regs (0x3A0 + i / 8 * 2)).toNat (8 * (i % 8)) 8

/-- A PMP entry's address register is locked: its own L, or that of a TOR entry above it. -/
def CoreSt.pmpLocked (r : CoreSt) (i : Nat) : Bool :=
  bit (r.pmpCfg i) 7 || (i < 15 && bit (r.pmpCfg (i + 1)) 7 && fld (r.pmpCfg (i + 1)) 3 2 == 1)

/-- pmpaddr as it reads with G = 10 (11 R268). -/
def CoreSt.pmpAddr (r : CoreSt) (i : Nat) : Nat :=
  let v := (tget 0 r.regs (0x3B0 + i)).toNat
  if bit (r.pmpCfg i) 4 then v / 512 * 512 + 511 else v / 1024 * 1024

/-- A written pmpcfg word: bytes of locked entries stay. -/
def CoreSt.pmpWrite (r : CoreSt) (n w f : Nat) : CoreSt :=
  let e := (n - 0x3A0) / 2 * 8
  let v := sumOf (fun k => (if bit (r.pmpCfg (e + k)) 7 then r.pmpCfg (e + k) else pmpLegal (fld w (8 * k) 8) (f / 9 ^ k)) * 2 ^ (8 * k)) (List.range 8)
  { r with regs := tset 0 r.regs n (BitVec.ofNat 64 v) }

/-- The CSRs that a core has (11 R268, R269, R292, R293, 17 R428, log 4). -/
def csrExists (n : Nat) : Bool :=
  (1 ≤ n && n ≤ 3) || [0x100, 0x104, 0x105, 0x106, 0x10A, 0x180, 0x30A, 0x320, 0xB00, 0xB02].contains n
    || (0x140 ≤ n && n ≤ 0x144) || (0x300 ≤ n && n ≤ 0x306) || (0x323 ≤ n && n ≤ 0x33F) || (0x340 ≤ n && n ≤ 0x344)
    || (0x3A0 ≤ n && n ≤ 0x3AF && n % 2 = 0) || (0x3B0 ≤ n && n ≤ 0x3EF) || (0x7A0 ≤ n && n ≤ 0x7A2) || (0x7B0 ≤ n && n ≤ 0x7B3)
    || (0x7C0 ≤ n && n ≤ 0x7C2) || (0xB03 ≤ n && n ≤ 0xB1F) || (0xC00 ≤ n && n ≤ 0xC1F) || n == 0xCC0 || n == 0xCC1
    || (0xF11 ≤ n && n ≤ 0xF15)

/-- A register that the abstract command reaches: a CSR of the core, x0 to x31 or f0 to f31. -/
def regExists (n : Nat) : Bool := csrExists n || (0x1000 ≤ n && n < 0x1040)

/-- Bits of mstatus that sstatus shows (log 4). -/
def sstatusMask : BitVec 64 := 0x80000003000DE762

/-- What a register of the core itself reads (11 R268, R269, R292, R293). -/
def CoreSt.readReg (r : CoreSt) (c n : Nat) : BitVec 64 :=
  let t := tget {} r.trigs r.tsel
  let plain := tget 0 r.regs n
  if n = 0x1000 then 0
  else if n = 0x301 then 0x800000000014112D
  else if n = 0xF11 || n = 0xF12 || n = 0xF15 then 0
  else if n = 0xF13 then 0xB0
  else if n = 0xF14 then BitVec.ofNat 64 c
  else if n = 1 then BitVec.ofNat 64 (fld (tget 0 r.regs 3).toNat 0 5)
  else if n = 2 then BitVec.ofNat 64 (fld (tget 0 r.regs 3).toNat 5 3)
  else if n = 0x100 then tget 0 r.regs 0x300 &&& sstatusMask
  else if n = 0x104 then tget 0 r.regs 0x304 &&& tget 0 r.regs 0x303
  else if n = 0x7C0 then BitVec.ofNat 64 (b2n r.pfEn + 2 * b2n r.tickSu + 4 * b2n r.park)
  else if n = 0x7C1 then 0
  else if n = 0x7C2 then BitVec.ofNat 64 (r.l1dCorr.toNat + 2 ^ 16 * r.l1iErr.toNat + 2 ^ 32 * r.l1dUncorr.toNat)
  else if n = 0xCC1 then r.kslot
  else if n = 0x7B1 then r.pc
  else if n = 0x7B0 then BitVec.ofNat 64 (0x40000000 + r.mode.toNat)
  else if n = 0x7A1 then t.ctl
  else if n = 0x7A2 then t.val
  else if 0x3B0 ≤ n && n < 0x3C0 then BitVec.ofNat 64 (r.pmpAddr (n - 0x3B0))
  else if (0x3A4 ≤ n && n ≤ 0x3AF) || (0x3C0 ≤ n && n ≤ 0x3EF) then 0
  else if 0xB03 ≤ n && n ≤ 0xB06 then tget 0 r.hpm (n - 0xB00)
  else if 0xC03 ≤ n && n ≤ 0xC06 then tget 0 r.hpm (n - 0xC00)
  else if 0x323 ≤ n && n ≤ 0x326 then tget 0 r.hpmEvt (n - 0x320)
  else if (0xB07 ≤ n && n ≤ 0xB1F) || (0xC07 ≤ n && n ≤ 0xC1F) || (0x327 ≤ n && n ≤ 0x33F) then 0
  else plain

/-- What a core's register takes from a written value, with a free value for what a write of an unsupported code leaves (11 R268, R269,
R292, R293). -/
def CoreSt.writeReg (r : CoreSt) (n : Nat) (v : BitVec 64) (f : Nat) : CoreSt :=
  let t := tget {} r.trigs r.tsel
  let w := v.toNat
  let put (n : Nat) (v : BitVec 64) : CoreSt := { r with regs := tset 0 r.regs n v }
  if n = 0x1000 || n = 0x301 || n = 0x7C1 then r
  else if n = 1 then put 3 (BitVec.ofNat 64 ((tget 0 r.regs 3).toNat / 32 * 32 + w % 32))
  else if n = 2 then put 3 (BitVec.ofNat 64 ((tget 0 r.regs 3).toNat % 32 + w % 8 * 32))
  else if n = 3 then put 3 (BitVec.ofNat 64 (w % 256))
  else if n = 0x180 then (if fld w 60 4 = 0 || fld w 60 4 = 8 then put n v else r)
  else if n = 0x105 || n = 0x305 then put n (BitVec.ofNat 64 (w / 4 * 4 + (if w % 4 < 2 then w % 4 else f % 2)))
  else if n = 0x100 then put 0x300 ((tget 0 r.regs 0x300 &&& ~~~sstatusMask) ||| (v &&& sstatusMask))
  else if n = 0x104 then put 0x304 ((tget 0 r.regs 0x304 &&& ~~~(tget 0 r.regs 0x303)) ||| (v &&& tget 0 r.regs 0x303))
  else if n = 0x304 then put n (v &&& 0xAAA)
  else if n = 0x344 then put n (v &&& 0x222)
  else if n = 0x144 then
    (let m := tget 0 r.regs 0x303 &&& 0x2
     put 0x344 ((tget 0 r.regs 0x344 &&& ~~~m) ||| (v &&& m)))
  else if n = 0x3A0 || n = 0x3A2 then r.pmpWrite n w f
  else if 0x3B0 ≤ n && n < 0x3C0 then (if r.pmpLocked (n - 0x3B0) then r else put n (BitVec.ofNat 64 (w % 2 ^ 54)))
  else if 0x3A0 ≤ n && n ≤ 0x3EF then r
  else if n = 0x7C0 then { r with pfEn := bit w 0, tickSu := bit w 1, park := bit w 2 }
  else if n = 0x7C2 then { r with l1dCorr := BitVec.ofNat 16 w, l1iErr := BitVec.ofNat 16 (w / 2 ^ 16), l1dUncorr := BitVec.ofNat 16 (w / 2 ^ 32) }
  else if n = 0x7B1 then { r with pc := v }
  else if n = 0x7B0 then { r with mode := BitVec.ofNat 2 w }
  else if n = 0x7A0 then (if w < 4 then { r with regs := tset 0 r.regs n v } else r)
  else if n = 0x7A1 then { r with trigs := tset {} r.trigs r.tsel { t with ctl := v } }
  else if n = 0x7A2 then { r with trigs := tset {} r.trigs r.tsel { t with val := v } }
  else if 0xB03 ≤ n && n ≤ 0xB06 then { r with hpm := tset 0 r.hpm (n - 0xB00) v }
  else if 0x323 ≤ n && n ≤ 0x326 then { r with hpmEvt := tset 0 r.hpmEvt (n - 0x320) v }
  else if (0xB07 ≤ n && n ≤ 0xB1F) || (0x327 ≤ n && n ≤ 0x33F) then r
  else put n v

/-- mip of a core: software's supervisor bits, and the timer, software and external interrupts of the chip around it (11 R275, R276). -/
def State.mip (s : State) (c : Nat) : BitVec 64 :=
  (tget 0 (s.core c).regs 0x344 &&& 0x222)
    ||| BitVec.ofNat 64 (8 * b2n (tget false s.cc.msip c) + 128 * b2n (tget false s.cc.mtip c) + 2048 * b2n (s.plicEip (2 * c)))
    ||| BitVec.ofNat 64 (512 * b2n (s.plicEip (2 * c + 1)))

/-- A register of a halted core as debug reads it: ktick latches kslot, the time CSR is mtime, the cycle and instruction counters are free
values, since the model runs no core's instructions (11 R275, R292, log 32). -/
def State.readCoreReg (s : State) (c n : Nat) : State × BitVec 64 :=
  if n = 0xCC0 then
    (let x := s.someSlot
     let k : BitVec 64 := if s.time.ckeOff then 0x8000000000000000 else BitVec.ofNat 64 x.2
     (x.1.putCore c { s.core c with ktick := s.time.tick, kslot := k }, s.time.tick))
  else if n = 0xC01 then
    (let x := s.someSlot
     (x.1, BitVec.ofNat 64 (s.mtime x.2)))
  else if n = 0xB00 || n = 0xB02 || n = 0xC00 || n = 0xC02 then s.draw
  else if n = 0x344 then (s, s.mip c)
  else if n = 0x144 then (s, s.mip c &&& tget 0 (s.core c).regs 0x303)
  else (s, (s.core c).readReg c n)

/-- A write by debug: mkfclean acts on the caches. -/
def State.writeCoreReg (s : State) (c n : Nat) (v : BitVec 64) : State :=
  if n = 0x7C1 then
    (let s := if bit v.toNat 0 then s.cleanDcache c else s
     if bit v.toNat 1 then s.dropIcache c else s)
  else
    let x := s.draw
    x.1.putCore c ((s.core c).writeReg n v x.2.toNat)

/-- cmderr of an abstract command that fails, unless one stands. -/
def State.cmdFail (s : State) (e : Nat) : State := s.setDbg { s.dbg with cmdErr := if s.dbg.cmdErr = 0 then e else s.dbg.cmdErr }

/-- An abstract register access: 4 where the core is not halted, 3 where the register does not exist or is a CSR that may only be read
(log 4). -/
def State.abstractReg (s : State) (c n : Nat) (write : Bool) (v : BitVec 64) : State :=
  if !s.debugOpen then s
  else if !(c < 4 && s.domOn c && (s.core c).run == .halted) then s.cmdFail 4
  else if !regExists n || (write && 0xC00 ≤ n && n < 0x1000) then s.cmdFail 3
  else if write then s.writeCoreReg c n v
  else
    let x := s.readCoreReg c n
    x.1.setDbg { x.1.dbg with abs := x.2 }

/-- ABSTRACT_COMMAND. -/
def execAbstractCommand (core : Nat) (regno : BitVec 16) (write : Bool) (val : BitVec 64) (s : State) : Host.Outcome State Fault Refusal :=
  .next (s.abstractReg core regno.toNat write val)

/-! ### System bus, triggers -/

/-- A 32-bit access as master 0xD. -/
def State.sbAccess (s : State) (addr : BitVec 40) (write : Bool) (val : BitVec 32) : State :=
  let x : Access := { master := 0xD, func := 0, addr := addr, write := write, len := 4,
                      bytes := if write then leBytes 4 val.toNat else [], portA := .none, ecc := .ok }
  if s.debugOpen && s.masterOn x then
    (let r := s.busOne x
     r.1.setDbg { r.1.dbg with sba := r.2 })
  else s

/-- SYSTEM_BUS_ACCESS. -/
def execSystemBusAccess (addr : BitVec 40) (write : Bool) (val : BitVec 32) (s : State) : Host.Outcome State Fault Refusal :=
  .next (s.sbAccess addr write val)

/-- Bit of tdata1 for a kind of match. -/
def trigBit : TrigKind → Nat
  | .execute => 2 | .load => 0 | .store => 1

/-- Bit of tdata1 that enables a trigger in a privilege mode: 6 in M, 4 in S, 3 in U. -/
def trigMode (mode : BitVec 2) : Nat := if mode = 3 then 6 else if mode = 1 then 4 else 3

/-- A trigger matches an operation of its core. -/
def Trig.matchesOp (t : Trig) (mode : BitVec 2) (kind : TrigKind) (addr val : BitVec 64) : Bool :=
  bit t.ctl.toNat (trigMode mode) && bit t.ctl.toNat (trigBit kind) && t.val == (if bit t.ctl.toNat 19 then val else addr)

/-- TRIGGER: a running core meets an operation that enabled triggers match: their hit bits are set; a trigger of action 1 halts the core,
the others raise a breakpoint exception (log 4). -/
def execTrigger (core : Nat) (kind : TrigKind) (addr : BitVec 64) (val : BitVec 64) (s : State) : Host.Outcome State Fault Refusal :=
  .next (let r := s.core core
    let hits := (List.range 4).filter fun k => (tget {} r.trigs k).matchesOp r.mode kind addr val
    let halts := hits.any fun k => fld (tget {} r.trigs k).ctl.toNat 12 4 = 1
    if hits.isEmpty || !(s.debugOpen && core < 4 && s.domOn core && r.run == .running) then s
    else s.putCore core { r with
      run := if halts then .halted else .running
      trap := if halts then r.trap else some 3
      trigs := hits.foldl (fun m k => tmod {} m k fun t => { t with ctl := t.ctl ||| 0x100000 }) r.trigs })

/-! ### The debug module interface (log 4) -/

/-- Core that dmcontrol selects. -/
def State.hartSel (s : State) : Nat := fld (tget 0 s.dbg.dmRegs 0x10).toNat 16 10

/-- A write of dmcontrol: requests act on the selected core; dmactive = 0 resets the module. -/
def State.writeDmcontrol (s : State) (v : BitVec 32) : State :=
  let w := v.toNat
  if !bit w 0 then s.setDbg { s.dbg with dmRegs := [], cmdErr := 0 }
  else
    let s := s.setDbg { s.dbg with dmRegs := tset 0 s.dbg.dmRegs 0x10 (v &&& 0x23FFFFC3) }
    if bit w 1 then s.chipReset 3 true
    else if bit w 29 then s.hartReset s.hartSel
    else if bit w 31 then s.haltCore s.hartSel
    else if bit w 30 then s.resumeCore s.hartSel
    else s

/-- Address of a system bus access. -/
def State.sbAddr (s : State) : BitVec 40 :=
  BitVec.ofNat 40 ((tget 0 s.dbg.dmRegs 0x39).toNat + 2 ^ 32 * (tget 0 s.dbg.dmRegs 0x3A).toNat)

/-- An access at sbaddress, which advances by 4 with sbautoincrement; data read go to sbdata0. -/
def State.sbGo (s : State) (write : Bool) (v : BitVec 32) : State :=
  let s := s.sbAccess s.sbAddr write v
  let d := if write then s.dbg.dmRegs else tset 0 s.dbg.dmRegs 0x3C (BitVec.ofNat 32 (leNat s.dbg.sba.data))
  let d := if bit (tget 0 d 0x38).toNat 16 then tset 0 d 0x39 (tget 0 d 0x39 + 4) else d
  s.setDbg { s.dbg with dmRegs := d }

/-- A register access command: cmdtype 0 with transfer set; data in data0 and data1. -/
def State.runCommand (s : State) (v : BitVec 32) : State :=
  let w := v.toNat
  if s.dbg.cmdErr != 0 then s
  else if fld w 24 8 != 0 then s.setDbg { s.dbg with cmdErr := 2 }
  else if !bit w 17 then s
  else
    let d := BitVec.ofNat 64 ((tget 0 s.dbg.dmRegs 4).toNat + 2 ^ 32 * (tget 0 s.dbg.dmRegs 5).toNat)
    let s := s.abstractReg s.hartSel (fld w 0 16) (bit w 16) d
    if bit w 16 || s.dbg.cmdErr != 0 then s
    else s.setDbg { s.dbg with dmRegs := tset 0 (tset 0 s.dbg.dmRegs 4 (BitVec.ofNat 32 (lo32 s.dbg.abs))) 5 (BitVec.ofNat 32 (hi32 s.dbg.abs)) }

/-- A write over the interface. -/
def State.dmWrite (s : State) (a : Nat) (v : BitVec 32) : State :=
  let put (s : State) : State := s.setDbg { s.dbg with dmRegs := tset 0 s.dbg.dmRegs a v }
  if a = 0x10 then s.writeDmcontrol v
  else if a = 0x11 || a = 0x12 then s
  else if a = 0x16 then s.setDbg { s.dbg with cmdErr := s.dbg.cmdErr &&& (7 - fld v.toNat 8 3) }
  else if a = 0x17 then s.runCommand v
  else if a = 0x39 then (let s := put s; if bit (tget 0 s.dbg.dmRegs 0x38).toNat 20 then s.sbGo false 0 else s)
  else if a = 0x3C then (put s).sbGo true v
  else put s

/-- dmstatus of the selected core: version 0.13, authenticated. -/
def State.dmStatus (s : State) : Nat :=
  let r := (s.core s.hartSel).run
  let ok := s.hartSel < 4
  2 + 128 + (if ok && r == .halted then 0x300 else 0) + (if ok && r == .running then 0xC00 else 0) + (if ok then 0 else 0xC000)

/-- A read over the interface: the value, and with sbreadondata another access. -/
def State.dmRead (s : State) (a : Nat) : State × BitVec 32 :=
  if a = 0x11 then (s, BitVec.ofNat 32 s.dmStatus)
  else if a = 0x12 then (s, 0)
  else if a = 0x16 then (s, BitVec.ofNat 32 (2 + 256 * s.dbg.cmdErr))
  else if a = 0x17 then (s, 0)
  else if a = 0x3C then
    (let v := tget 0 s.dbg.dmRegs a
     (if bit (tget 0 s.dbg.dmRegs 0x38).toNat 15 then s.sbGo false 0 else s, v))
  else (s, tget 0 s.dbg.dmRegs a)

/-- DMI (17 R427, R430): returns 0 while debug is closed. -/
def execDmi (op : BitVec 2) (addr : BitVec 7) (val : BitVec 32) (s : State) : Host.Outcome State Fault Refusal :=
  .next (let s := s.tapSelect 0x11 0 false false
    if !s.debugOpen then (if s.tapOn then s.setDbg { s.dbg with dmi := 0 } else s)
    else if op = 1 then
      (let r := s.dmRead addr.toNat
       r.1.setDbg { r.1.dbg with dmi := r.2 })
    else if op = 2 then
      (let t := s.dmWrite addr.toNat val
       t.setDbg { t.dbg with dmi := val })
    else s)

end Sys2Proof.Machine
end

