-- ==== Sys2Proof/Machine/Dispatch.lean ====
section
/-! DEFINITION. Machine/Dispatch.lean: one arm per command, each one direct call of its meaning. -/

namespace Sys2Proof.Machine

def exec (i : Instr) (s : State) : Host.Outcome State Fault Refusal :=
  match i with
  | .tick env => Sys2Proof.Machine.execTick env s
  | .aonTick => Sys2Proof.Machine.execAonTick s
  | .blockFlip => Sys2Proof.Machine.execBlockFlip s
  | .captureBlockWritten ring ok => Sys2Proof.Machine.execCaptureBlockWritten ring ok s
  | .stagingFlip => Sys2Proof.Machine.execStagingFlip s
  | .sepResultWritten model ok => Sys2Proof.Machine.execSepResultWritten model ok s
  | .sepBeat tile err => Sys2Proof.Machine.execSepBeat tile err s
  | .churnNop pu p => Sys2Proof.Machine.execChurnNop pu p s
  | .inb pu p d ch => Sys2Proof.Machine.execInb pu p d ch s
  | .outb pu p a ch => Sys2Proof.Machine.execOutb pu p a ch s
  | .pbr pu p d reg => Sys2Proof.Machine.execPbr pu p d reg s
  | .pbw pu p a reg => Sys2Proof.Machine.execPbw pu p a reg s
  | .ldc pu p d idx => Sys2Proof.Machine.execLdc pu p d idx s
  | .ldi pu p d imm => Sys2Proof.Machine.execLdi pu p d imm s
  | .mov pu p d a => Sys2Proof.Machine.execMov pu p d a s
  | .unpkl pu p d a => Sys2Proof.Machine.execUnpkl pu p d a s
  | .unpkh pu p d a => Sys2Proof.Machine.execUnpkh pu p d a s
  | .pack pu p d a b => Sys2Proof.Machine.execPack pu p d a b s
  | .dwr pu p a line => Sys2Proof.Machine.execDwr pu p a line s
  | .drd pu p d line delay ecc => Sys2Proof.Machine.execDrd pu p d line delay ecc s
  | .drdx pu p d b line off ecc => Sys2Proof.Machine.execDrdx pu p d b line off ecc s
  | .vrd pu p d b tab off ecc => Sys2Proof.Machine.execVrd pu p d b tab off ecc s
  | .lut pu p d a tab => Sys2Proof.Machine.execLut pu p d a tab s
  | .add pu p d a b => Sys2Proof.Machine.execAdd pu p d a b s
  | .sub pu p d a b => Sys2Proof.Machine.execSub pu p d a b s
  | .neg pu p d a => Sys2Proof.Machine.execNeg pu p d a s
  | .abs pu p d a => Sys2Proof.Machine.execAbs pu p d a s
  | .min pu p d a b => Sys2Proof.Machine.execMin pu p d a b s
  | .max pu p d a b => Sys2Proof.Machine.execMax pu p d a b s
  | .mulr pu p d a b => Sys2Proof.Machine.execMulr pu p d a b s
  | .ash pu p d a sh => Sys2Proof.Machine.execAsh pu p d a sh s
  | .and pu p d a b => Sys2Proof.Machine.execAnd pu p d a b s
  | .or pu p d a b => Sys2Proof.Machine.execOr pu p d a b s
  | .xor pu p d a b => Sys2Proof.Machine.execXor pu p d a b s
  | .sel pu p d a b pr inv => Sys2Proof.Machine.execSel pu p d a b pr inv s
  | .cmp pu p pd a b cond => Sys2Proof.Machine.execCmp pu p pd a b cond s
  | .cmpi pu p pd a cond imm => Sys2Proof.Machine.execCmpi pu p pd a cond imm s
  | .plog pu p pd pa pb lop => Sys2Proof.Machine.execPlog pu p pd pa pb lop s
  | .mac pu p acc a b => Sys2Proof.Machine.execMac pu p acc a b s
  | .msu pu p acc a b => Sys2Proof.Machine.execMsu pu p acc a b s
  | .macc pu p acc a idx => Sys2Proof.Machine.execMacc pu p acc a idx s
  | .mpy pu p acc a b => Sys2Proof.Machine.execMpy pu p acc a b s
  | .mpyc pu p acc a idx => Sys2Proof.Machine.execMpyc pu p acc a idx s
  | .accst pu p d acc clear sh => Sys2Proof.Machine.execAccst pu p d acc clear sh s
  | .accld pu p acc a => Sys2Proof.Machine.execAccld pu p acc a s
  | .accadd pu p acc src => Sys2Proof.Machine.execAccadd pu p acc src s
  | .sweep env => Sys2Proof.Machine.execSweep env s
  | .fenceRelease ring => Sys2Proof.Machine.execFenceRelease ring s
  | .vectorMessage fn vec => Sys2Proof.Machine.execVectorMessage fn vec s
  | .nop ring => Sys2Proof.Machine.execNop ring s
  | .commit ring got => Sys2Proof.Machine.execCommit ring got s
  | .commitCheck => Sys2Proof.Machine.execCommitCheck s
  | .commitRecheck => Sys2Proof.Machine.execCommitRecheck s
  | .commitLoad => Sys2Proof.Machine.execCommitLoad s
  | .commitApply => Sys2Proof.Machine.execCommitApply s
  | .quiesceStart => Sys2Proof.Machine.execQuiesceStart s
  | .quiesceAbort cls inst => Sys2Proof.Machine.execQuiesceAbort cls inst s
  | .requestReply cls inst ep => Sys2Proof.Machine.execRequestReply cls inst ep s
  | .diverge cls inst => Sys2Proof.Machine.execDiverge cls inst s
  | .converge cls inst => Sys2Proof.Machine.execConverge cls inst s
  | .query list => Sys2Proof.Machine.execQuery list s
  | .blobLoad ring ok => Sys2Proof.Machine.execBlobLoad ring ok s
  | .audioIn ring => Sys2Proof.Machine.execAudioIn ring s
  | .audioOut ring ok => Sys2Proof.Machine.execAudioOut ring ok s
  | .netTx ring => Sys2Proof.Machine.execNetTx ring s
  | .netRxPost ring => Sys2Proof.Machine.execNetRxPost ring s
  | .herdTx ring => Sys2Proof.Machine.execHerdTx ring s
  | .herdRxPost ring => Sys2Proof.Machine.execHerdRxPost ring s
  | .sepStep ring ok => Sys2Proof.Machine.execSepStep ring ok s
  | .sepResult ring => Sys2Proof.Machine.execSepResult ring s
  | .meterSnap ring => Sys2Proof.Machine.execMeterSnap ring s
  | .statsSnap ring => Sys2Proof.Machine.execStatsSnap ring s
  | .nvWrite ring ok => Sys2Proof.Machine.execNvWrite ring ok s
  | .nvRead ring => Sys2Proof.Machine.execNvRead ring s
  | .vatMarch ring => Sys2Proof.Machine.execVatMarch ring s
  | .marchWord res => Sys2Proof.Machine.execMarchWord res s
  | .marchEnd abort => Sys2Proof.Machine.execMarchEnd abort s
  | .sepTile ring => Sys2Proof.Machine.execSepTile ring s
  | .sepTileEnd tile fails pass => Sys2Proof.Machine.execSepTileEnd tile fails pass s
  | .apllCal ring => Sys2Proof.Machine.execApllCal ring s
  | .herdCal ring => Sys2Proof.Machine.execHerdCal ring s
  | .churnPeek ring => Sys2Proof.Machine.execChurnPeek ring s
  | .churnPeekSnapshot pu => Sys2Proof.Machine.execChurnPeekSnapshot pu s
  | .sepPeek ring => Sys2Proof.Machine.execSepPeek ring s
  | .sepPeekSnapshot tile => Sys2Proof.Machine.execSepPeekSnapshot tile s
  | .busAccess accs => Sys2Proof.Machine.execBusAccess accs s
  | .scrubWriteBack bank => Sys2Proof.Machine.execScrubWriteBack bank s
  | .bankPowerUpEnd bank => Sys2Proof.Machine.execBankPowerUpEnd bank s
  | .domainPowerUpEnd dom ok => Sys2Proof.Machine.execDomainPowerUpEnd dom ok s
  | .refMeasure src ppb => Sys2Proof.Machine.execRefMeasure src ppb s
  | .clkRefLost src => Sys2Proof.Machine.execClkRefLost src s
  | .buildOutCapture phase => Sys2Proof.Machine.execBuildOutCapture phase s
  | .clkLock => Sys2Proof.Machine.execClkLock s
  | .apllLockLoss phaseNs => Sys2Proof.Machine.execApllLockLoss phaseNs s
  | .revertToPrimary => Sys2Proof.Machine.execRevertToPrimary s
  | .discLost => Sys2Proof.Machine.execDiscLost s
  | .xoFail => Sys2Proof.Machine.execXoFail s
  | .xoRecover => Sys2Proof.Machine.execXoRecover s
  | .asrcModeSwitch ep => Sys2Proof.Machine.execAsrcModeSwitch ep s
  | .cpllLock => Sys2Proof.Machine.execCpllLock s
  | .cpllFail => Sys2Proof.Machine.execCpllFail s
  | .portFrame port pins => Sys2Proof.Machine.execPortFrame port pins s
  | .settle port periodCy highCy => Sys2Proof.Machine.execSettle port periodCy highCy s
  | .portClkOk port => Sys2Proof.Machine.execPortClkOk port s
  | .rampUpEnd port => Sys2Proof.Machine.execRampUpEnd port s
  | .rampDownEnd port => Sys2Proof.Machine.execRampDownEnd port s
  | .portClkLost port => Sys2Proof.Machine.execPortClkLost port s
  | .portFrameErr port => Sys2Proof.Machine.execPortFrameErr port s
  | .pdmStuck port line odd => Sys2Proof.Machine.execPdmStuck port line odd s
  | .asrcLock ep => Sys2Proof.Machine.execAsrcLock ep s
  | .asrcUnlock ep => Sys2Proof.Machine.execAsrcUnlock ep s
  | .gainZcStep ep ch => Sys2Proof.Machine.execGainZcStep ep ch s
  | .zcTimeout ep ch => Sys2Proof.Machine.execZcTimeout ep ch s
  | .peakHoldExpiry meter => Sys2Proof.Machine.execPeakHoldExpiry meter s
  | .readShared core loc kind ecc victim => Sys2Proof.Machine.execReadShared core loc kind ecc victim s
  | .readUnique core loc bytes kind ecc victim rivals => Sys2Proof.Machine.execReadUnique core loc bytes kind ecc victim rivals s
  | .upgrade core loc bytes kind ecc rivals => Sys2Proof.Machine.execUpgrade core loc bytes kind ecc rivals s
  | .cleanEvict core line => Sys2Proof.Machine.execCleanEvict core line s
  | .writeBack core entry => Sys2Proof.Machine.execWriteBack core entry s
  | .ioRead port line ecc => Sys2Proof.Machine.execIoRead port line ecc s
  | .ioWrite port line off bytes => Sys2Proof.Machine.execIoWrite port line off bytes s
  | .replay line => Sys2Proof.Machine.execReplay line s
  | .machineTimer core slot => Sys2Proof.Machine.execMachineTimer core slot s
  | .patrolScrub ecc => Sys2Proof.Machine.execPatrolScrub ecc s
  | .mr4Poll code => Sys2Proof.Machine.execMr4Poll code s
  | .plicClaim ctx => Sys2Proof.Machine.execPlicClaim ctx s
  | .plicComplete ctx src => Sys2Proof.Machine.execPlicComplete ctx src s
  | .dcacheClean core => Sys2Proof.Machine.execDcacheClean core s
  | .icacheInvalidate core => Sys2Proof.Machine.execIcacheInvalidate core s
  | .ktickRead core mode slot => Sys2Proof.Machine.execKtickRead core mode slot s
  | .coreParkOff core => Sys2Proof.Machine.execCoreParkOff core s
  | .l2Flush => Sys2Proof.Machine.execL2Flush s
  | .linkPoll port reg1 reg5 reg10 => Sys2Proof.Machine.execLinkPoll port reg1 reg5 reg10 s
  | .sgmiiStatus port up speed full => Sys2Proof.Machine.execSgmiiStatus port up speed full s
  | .netDownshift port => Sys2Proof.Machine.execNetDownshift port s
  | .netRxFrame port frame rx frac => Sys2Proof.Machine.execNetRxFrame port frame rx frac s
  | .pauseRefresh port => Sys2Proof.Machine.execPauseRefresh port s
  | .pauseExpiry port => Sys2Proof.Machine.execPauseExpiry port s
  | .netTxStart port ok => Sys2Proof.Machine.execNetTxStart port ok s
  | .netTxDone port frac => Sys2Proof.Machine.execNetTxDone port frac s
  | .txUnderrun port => Sys2Proof.Machine.execTxUnderrun port s
  | .collision port late => Sys2Proof.Machine.execCollision port late s
  | .backoffExpiry port => Sys2Proof.Machine.execBackoffExpiry port s
  | .mdioGo cmd => Sys2Proof.Machine.execMdioGo cmd s
  | .mdioDone ack rdata => Sys2Proof.Machine.execMdioDone ack rdata s
  | .netWake port => Sys2Proof.Machine.execNetWake port s
  | .herdRxFrame port frame rx => Sys2Proof.Machine.execHerdRxFrame port frame rx s
  | .herdTxStart port ok => Sys2Proof.Machine.execHerdTxStart port ok s
  | .hello port frame => Sys2Proof.Machine.execHello port frame s
  | .helloSend port => Sys2Proof.Machine.execHelloSend port s
  | .peerExpire port src => Sys2Proof.Machine.execPeerExpire port src s
  | .herdMode port => Sys2Proof.Machine.execHerdMode port s
  | .plcaLoss port => Sys2Proof.Machine.execPlcaLoss port s
  | .phyCalibration port rxOfs txLvl limit => Sys2Proof.Machine.execPhyCalibration port rxOfs txLvl limit s
  | .beaconSend port txOffset => Sys2Proof.Machine.execBeaconSend port txOffset s
  | .beacon port frame => Sys2Proof.Machine.execBeacon port frame s
  | .listenWindowOpen port => Sys2Proof.Machine.execListenWindowOpen port s
  | .listenWindowClose port => Sys2Proof.Machine.execListenWindowClose port s
  | .awakeWindowEnd port => Sys2Proof.Machine.execAwakeWindowEnd port s
  | .herdWake port => Sys2Proof.Machine.execHerdWake port s
  | .data port frame => Sys2Proof.Machine.execData port frame s
  | .ack port frame => Sys2Proof.Machine.execAck port frame s
  | .rcRetransmit port dst seq => Sys2Proof.Machine.execRcRetransmit port dst seq s
  | .streamPacket port frame => Sys2Proof.Machine.execStreamPacket port frame s
  | .streamSilence ep => Sys2Proof.Machine.execStreamSilence ep s
  | .wakeIn pin level => Sys2Proof.Machine.execWakeIn pin level s
  | .wakeTick => Sys2Proof.Machine.execWakeTick s
  | .ckeStop => Sys2Proof.Machine.execCkeStop s
  | .ckeRestart => Sys2Proof.Machine.execCkeRestart s
  | .pgTimeout ch => Sys2Proof.Machine.execPgTimeout ch s
  | .polPgDrop ch => Sys2Proof.Machine.execPolPgDrop ch s
  | .polAlert status => Sys2Proof.Machine.execPolAlert status s
  | .pmbusPoll ch vout iout ok => Sys2Proof.Machine.execPmbusPoll ch vout iout ok s
  | .avsTrim trimMv => Sys2Proof.Machine.execAvsTrim trimMv s
  | .voutPoll mv => Sys2Proof.Machine.execVoutPoll mv s
  | .oppVoltageTimeout => Sys2Proof.Machine.execOppVoltageTimeout s
  | .downlinkFrame vBus good => Sys2Proof.Machine.execDownlinkFrame vBus good s
  | .uplinkFrame word => Sys2Proof.Machine.execUplinkFrame word s
  | .badSlot uplink => Sys2Proof.Machine.execBadSlot uplink s
  | .mainsReturn => Sys2Proof.Machine.execMainsReturn s
  | .holdupEstimate powerMw iOutMa vRsv => Sys2Proof.Machine.execHoldupEstimate powerMw iOutMa vRsv s
  | .rsvComparator vBus => Sys2Proof.Machine.execRsvComparator vBus s
  | .uplinkSelfTimed => Sys2Proof.Machine.execUplinkSelfTimed s
  | .vccStart mv => Sys2Proof.Machine.execVccStart mv s
  | .softStartEnd => Sys2Proof.Machine.execSoftStartEnd s
  | .holdoff => Sys2Proof.Machine.execHoldoff s
  | .holdoffEnd tempHalfC => Sys2Proof.Machine.execHoldoffEnd tempHalfC s
  | .zeroCrossing dtUs peakV => Sys2Proof.Machine.execZeroCrossing dtUs peakV s
  | .mainsOkTimeout => Sys2Proof.Machine.execMainsOkTimeout s
  | .ocpLimit inRow => Sys2Proof.Machine.execOcpLimit inRow s
  | .capacitiveMode inRow => Sys2Proof.Machine.execCapacitiveMode inRow s
  | .overTemperature tempHalfC => Sys2Proof.Machine.execOverTemperature tempHalfC s
  | .vccUvlo mv => Sys2Proof.Machine.execVccUvlo mv s
  | .bulkOvp halfV => Sys2Proof.Machine.execBulkOvp halfV s
  | .bulkUv halfV => Sys2Proof.Machine.execBulkUv halfV s
  | .flashOpStart => Sys2Proof.Machine.execFlashOpStart s
  | .flashOpDone ok => Sys2Proof.Machine.execFlashOpDone ok s
  | .flashBusyTimeout => Sys2Proof.Machine.execFlashBusyTimeout s
  | .holdupLow => Sys2Proof.Machine.execHoldupLow s
  | .aonPowerOn => Sys2Proof.Machine.execAonPowerOn s
  | .aonPowerLoss => Sys2Proof.Machine.execAonPowerLoss s
  | .chipReset => Sys2Proof.Machine.execChipReset s
  | .chipResetRelease env => Sys2Proof.Machine.execChipResetRelease env s
  | .resetOutRelease => Sys2Proof.Machine.execResetOutRelease s
  | .sysBootGo val env => Sys2Proof.Machine.execSysBootGo val env s
  | .sysResetCtlChip path val => Sys2Proof.Machine.execSysResetCtlChip path val s
  | .sysCoreRun path val => Sys2Proof.Machine.execSysCoreRun path val s
  | .buserrValidClear accs => Sys2Proof.Machine.execBuserrValidClear accs s
  | .memErrValidClear path val => Sys2Proof.Machine.execMemErrValidClear path val s
  | .sysTickLoRead slot => Sys2Proof.Machine.execSysTickLoRead slot s
  | .sysMtimeLoRead slot => Sys2Proof.Machine.execSysMtimeLoRead slot s
  | .ringEnable path ring val => Sys2Proof.Machine.execRingEnable path ring val s
  | .ringDisable path ring val => Sys2Proof.Machine.execRingDisable path ring val s
  | .fnCtrlReset path fn val => Sys2Proof.Machine.execFnCtrlReset path fn val s
  | .regWrite path off val => Sys2Proof.Machine.execRegWrite path off val s
  | .flr fn => Sys2Proof.Machine.execFlr fn s
  | .perstN => Sys2Proof.Machine.execPerstN s
  | .dlDown => Sys2Proof.Machine.execDlDown s
  | .dmaTimeout ring id => Sys2Proof.Machine.execDmaTimeout ring id s
  | .extest pins load => Sys2Proof.Machine.execExtest pins load s
  | .idcode => Sys2Proof.Machine.execIdcode s
  | .samplePreload pins load => Sys2Proof.Machine.execSamplePreload pins load s
  | .highz => Sys2Proof.Machine.execHighz s
  | .clamp => Sys2Proof.Machine.execClamp s
  | .dtmcs => Sys2Proof.Machine.execDtmcs s
  | .dmi op addr val => Sys2Proof.Machine.execDmi op addr val s
  | .bypass => Sys2Proof.Machine.execBypass s
  | .halt core => Sys2Proof.Machine.execHalt core s
  | .resume core => Sys2Proof.Machine.execResume core s
  | .abstractCommand core regno write val => Sys2Proof.Machine.execAbstractCommand core regno write val s
  | .systemBusAccess addr write val => Sys2Proof.Machine.execSystemBusAccess addr write val s
  | .hartreset core => Sys2Proof.Machine.execHartreset core s
  | .ndmreset => Sys2Proof.Machine.execNdmreset s
  | .trigger core kind addr val => Sys2Proof.Machine.execTrigger core kind addr val s
  | .supplyCollapse stepDone => Sys2Proof.Machine.execSupplyCollapse stepDone s
  | .perstNRelease => Sys2Proof.Machine.execPerstNRelease s
  | .dlUp => Sys2Proof.Machine.execDlUp s
  | .configurationRequest fn off write val => Sys2Proof.Machine.execConfigurationRequest fn off write val s
  | .plcaBeacon port => Sys2Proof.Machine.execPlcaBeacon port s
  | .llcSoftStart halfV => Sys2Proof.Machine.execLlcSoftStart halfV s
  | .bulkOvpRelease halfV => Sys2Proof.Machine.execBulkOvpRelease halfV s
  | .testLogicReset => Sys2Proof.Machine.execTestLogicReset s

end Sys2Proof.Machine
end

