-- ==== Sys2Proof/Machine/Step.lean ====
section
/-! DEFINITION. Machine/Step.lean: one step takes the command at the front of the queue (first in, first out) and runs it on the
state with the queue's rest. -/

namespace Sys2Proof.Machine

/-- One step: the front command acts; on an empty queue the block idles (log 15). -/
def step : State → Host.Outcome State Fault Refusal := fun s =>
  match s.pending with
  | [] => .next s
  | c :: r => exec c (s.setPending r)

/-- `s` with the command that a table word spells at the front of its queue; unchanged where the word spells none. -/
def State.withFetchWord (s : State) (nbits w : Nat) : State :=
  match decodeTableWord nbits w with
  | some c => s.setPending (c :: s.pending)
  | none => s

end Sys2Proof.Machine
end

