-- ==== Sys2Proof/Certificates/Slice0/Obligations.lean ====
section
/-! DEFINITION. Certificates/Slice0/Obligations.lean: the statements for the provers, and the words they use. -/

open Sys2Proof Sys2Proof.Machine

namespace Sys2Proof.Said

/-! Words the statements use. -/

/-- A PU that can take a slot: its domain is powered, CK_E runs and the program of this tick is not over. -/
def Ready (s : State) (pu : BitVec 3) : Prop :=
  s.domOn (11 + pu.toNat) = true ∧ s.time.ckeOff = false ∧ (s.pu pu.toNat).slot < 16384

/-- The registers of a PU as the present slot sees them. -/
abbrev now (s : State) (pu : BitVec 3) : PuSt := (s.pu pu.toNat).now

/-- P[PSEL] XOR PINV is 1. -/
def Executes (s : State) (pu : BitVec 3) (p : Pred) : Prop := ((now s pu).preg p.sel.toNat).xor p.inv = true

/-- The data register `r` as slot `k` sees it. -/
def dAt (u : PuSt) (k : Nat) (r : BitVec 6) : Word := (u.settle k).dreg r

/-- The predicate `n` as slot `k` sees it. -/
def pAt (u : PuSt) (k : Nat) (n : BitVec 3) : Bool := (u.settle k).preg n.toNat

/-- SAT of a PU counted one, or nothing counted. -/
def satCnt (s : State) (pu : BitVec 3) (sat : Prop) (m : Map Word) : Prop :=
  (sat → m = tset 0 s.cnt (cntKey 0x20 pu.toNat 0) (satAdd32 (s.count 0x20 pu.toNat 0) 1)) ∧ (¬ sat → m = s.cnt)

/-- From `s` to `t` one slot of `pu` wrote `v` to D`d`, visible `lat` slots later, and did nothing else: no other register, predicate,
accumulator, store, bus or PU changes, and SAT counts when `sat`. -/
def WroteD (s t : State) (pu : BitVec 3) (lat : Nat) (d : BitVec 6) (v : Word) (sat : Prop) : Prop :=
  ∃ fl m, t = (s.putPu pu.toNat { now s pu with flight := fl, slot := (now s pu).slot + 1 }).setCnt m ∧ satCnt s pu sat m ∧
    dAt (t.pu pu.toNat) ((now s pu).slot + lat) d = v ∧
    (∀ k < (now s pu).slot + lat, dAt (t.pu pu.toNat) k d = dAt (now s pu) k d) ∧
    (∀ k r, r ≠ d → dAt (t.pu pu.toNat) k r = dAt (now s pu) k r) ∧
    (∀ k n, pAt (t.pu pu.toNat) k n = pAt (now s pu) k n)

/-- The same for a predicate, visible in the next slot. -/
def WroteP (s t : State) (pu : BitVec 3) (d : BitVec 3) (v : Bool) : Prop :=
  ∃ fl, t = s.putPu pu.toNat { now s pu with flight := fl, slot := (now s pu).slot + 1 } ∧
    (d ≠ 0 → pAt (t.pu pu.toNat) ((now s pu).slot + 1) d = v) ∧
    (∀ k n, n ≠ d → pAt (t.pu pu.toNat) k n = pAt (now s pu) k n) ∧
    (∀ k, pAt (t.pu pu.toNat) k 0 = true) ∧
    (∀ k r, dAt (t.pu pu.toNat) k r = dAt (now s pu) k r)

/-- The accumulator as the next accumulate sees it. -/
def accAt (u : PuSt) (a : BitVec 2) : Int := u.accNow a

/-- One slot of `pu` wrote the accumulator `a`, limited to 80 bits, and nothing else. -/
def WroteA (s t : State) (pu : BitVec 3) (a : BitVec 2) (v : Int) : Prop :=
  ∃ ac m, t = (s.putPu pu.toNat { now s pu with acc := ac, slot := (now s pu).slot + 1 }).setCnt m ∧
    satCnt s pu (v < -(2 ^ 79) ∨ 2 ^ 79 ≤ v) m ∧
    accAt (t.pu pu.toNat) a = max (-(2 ^ 79)) (min v (2 ^ 79 - 1)) ∧
    (∀ b, b ≠ a → (t.pu pu.toNat).accOf b = (now s pu).accOf b)

/-- `v` is `x` rounded to the nearest integer, ties away from zero (`x` given as a fraction `n / 2^k`). -/
def Nearest (n : Int) (k : Nat) (v : Int) : Prop :=
  2 * (v * 2 ^ k - n).natAbs ≤ 2 ^ k ∧ (2 * (v * 2 ^ k - n).natAbs = 2 ^ k → n.natAbs < (v * 2 ^ k).natAbs)

/-- The signed 32-bit word nearest to `v`. -/
def sat (v : Int) : Word := BitVec.ofInt 32 (max (-2147483648) (min v 2147483647))

/-- `v` lies outside 32 bits. -/
def outside32 (v : Int) : Prop := v < -2147483648 ∨ 2147483647 < v

/-- The value of an instruction's exact result, rounded: `n / 2^k`. -/
def WroteRounded (s t : State) (pu : BitVec 3) (lat : Nat) (d : BitVec 6) (n : Int) (k : Nat) : Prop :=
  ∃ v, Nearest n k v ∧ WroteD s t pu lat d (sat v) (outside32 v)

/-- The event of a code and REASON for function 0. -/
def ev (code reason : Nat) : Evt := { fn := 0, code := BitVec.ofNat 16 code, reason := BitVec.ofNat 16 reason }

/-- From `s` to `t` function 0's event `ev code reason` was posted, and no other. -/
def Posts (s t : State) (code reason : Nat) : Prop := t.host.posted = s.host.posted ++ [ev code reason]

/-- From `s` to `t` no event was posted. -/
def Quiet (s t : State) : Prop := t.host.posted = s.host.posted

/-- Every byte of the internal address space but those from `lo` up to `hi` reads as before. -/
def SameBytes (s t : State) (lo hi : Nat) : Prop := ∀ x, x < 2 ^ 40 → (x < lo ∨ hi ≤ x) → t.busByte x = s.busByte x

/-- What a read of the Vat word of address `a` finds, after cells of it went wrong as `e` says. -/
def found (s : State) (a : Nat) (e : Ecc) : Ecc := (s.upset (a / 8 * 8) e).vatDecode (a / 8 * 8)

/-- The 32 bits at an address of a Vat as a read that found `x` takes them: 0 where they cannot be corrected. -/
def taken (s : State) (a : Nat) (x : Ecc) : Word := if x = .uncorrectable then 0 else BitVec.ofNat 32 (leNat (s.vatBytes a 4))

/-- From `s` to `t` a slot of `pu` read a Vat word, finding `x`, into D`d`, visible four slots later: CORR or UNCORR of the PU counts as
`x` says, no other data register and no predicate changes, and no memory. -/
def ReadVat (s t : State) (pu : BitVec 3) (d : BitVec 6) (a : Nat) (x : Ecc) : Prop :=
  dAt (t.pu pu.toNat) ((now s pu).slot + 4) d = taken s a x ∧ (∀ k r, r ≠ d → dAt (t.pu pu.toNat) k r = dAt (now s pu) k r) ∧
  (∀ k n, pAt (t.pu pu.toNat) k n = pAt (now s pu) k n) ∧
  t.count 0x20 pu.toNat 2 = (if x = .corrected then satAdd32 (s.count 0x20 pu.toNat 2) 1 else s.count 0x20 pu.toNat 2) ∧
  t.count 0x20 pu.toNat 3 = (if x = .uncorrectable then satAdd32 (s.count 0x20 pu.toNat 3) 1 else s.count 0x20 pu.toNat 3) ∧
  (t.pu pu.toNat).slot = (now s pu).slot + 1 ∧ t.mem = s.mem ∧ t.hostMem = s.hostMem

/-- Function `f` may read `n` bytes at `a` by DMA: a window admits them, and the link or the fabric (04 R72, R82); neither registers nor Vats. -/
def MayRead (s : State) (f a n : Nat) : Prop := s.dmaFail f a n false = none ∧ (s.standalone = true → inVats a = false ∧ s.region a ≠ .setup)

/-- Function `f` may write `n` bytes at `a` by DMA: a window admits them, and the link or the fabric; not the Vats. -/
def MayWrite (s : State) (f a n : Nat) : Prop := s.dmaFail f a n true = none ∧ (s.standalone = true → inVats a = false)

/-- The state after a DMA has written bytes at `a`: host memory, or in standalone mode the internal address space. -/
def written (s : State) (a : Nat) (bs : List Byte) : State := if s.standalone then s.busWrite a bs else s.setHostMem (memPut s.hostMem a bs)

/-- Every Vat word of the `n` bytes at `a` reads without error. -/
def Sound (s : State) (a n : Nat) : Prop := ∀ w ∈ vatWords a n, s.vatDecode w = .ok

/-- The bytes `b` lie in the Vats from address `a`. -/
def Lies (s : State) (a : Nat) (b : List Byte) : Prop := ∀ i, i < b.length → s.vatByte (a + i) = nth 0 b i

/-- The commit unit may reach a page of the blob store. -/
def PageOpen (s : State) (write : Bool) (k : Nat) : Prop :=
  ∀ x, s.pageAddr k ≤ x → x < s.pageAddr k + 4096 → s.refusal 5 x write = none

/-- The `n` bytes that pages of the blob store hold. -/
def stored (s : State) : Nat → List Nat → List Byte
  | _, [] => []
  | n, k :: r => s.busBytes (s.pageAddr k) (min 4096 n) ++ stored s (n - min 4096 n) r

/-- Both memories are in canonical form. -/
def Canonical (s : State) : Prop := Memory.wf s.mem = true ∧ Memory.wf s.hostMem = true

/-- Commands that end a tick or switch the supply of the AON domain. -/
def movesTick : Instr → Bool
  | .tick _ => true
  | .aonTick => true
  | .ckeStop => true
  | .aonPowerOn => true
  | .aonPowerLoss => true
  | .supplyCollapse _ => true
  | _ => false

end Sys2Proof.Said

open Sys2Proof Sys2Proof.Machine Sys2Proof.Said

/-- A step takes the command at the front of the queue and runs it with the rest of the queue; an empty queue idles. The queue is the
model's interface, not a unit of the chip (log 15). -/
def Obligations.StepRunsFront : Prop :=
  (∀ (c : Instr) (r : List Instr) (s : State), step (s.setPending (c :: r)) = exec c (s.setPending r)) ∧
  (∀ s : State, s.pending = [] → step s = .next s)

/-- No command touches the queue of commands or the fuses: every command answers a next state that has both as before. -/
def Obligations.CommandsKeepQueueAndFuses : Prop :=
  ∀ (c : Instr) (s : State), ∃ t, exec c s = .next t ∧ t.pending = s.pending ∧ t.boot.fuses = s.boot.fuses

/-- Both memories are sorted by address with no byte listed that an unlisted address reads as, and every step keeps them so. -/
def Obligations.StepKeepsMemoryCanonical : Prop :=
  ∀ s t : State, Canonical s → step s = .next t → Canonical t

/-- TICK moves with nothing but the end of a tick and the AON supply: every other command, every reset of the chip among them, leaves it
(02 R24). -/
def Obligations.TickMovesOnlyWithTime : Prop :=
  ∀ (c : Instr) (s t : State), movesTick c = false → exec c s = .next t → t.time.tick = s.time.tick

/-- TICK increments at the end of every tick, whatever the tick meets; while CK_E is stopped the AON tick keeper advances it; before the
first tick it holds; the AON power-on reset clears it (02 R24, R25). -/
def Obligations.TickAdvances : Prop :=
  (∀ (env : TickEnv) (s : State), s.time.started = true → s.time.ckeOff = false →
    ∃ t, exec (.tick env) s = .next t ∧ t.time.tick = s.time.tick + 1) ∧
  (∀ s : State, s.time.started = true → s.time.ckeOff = true → ∃ t, exec .aonTick s = .next t ∧ t.time.tick = s.time.tick + 1) ∧
  (∀ (env : TickEnv) (s : State), s.time.started = false → exec (.tick env) s = .next s ∧ exec .aonTick s = .next s) ∧
  (∀ s : State, s.boot.aonOn = false → ∃ t, exec .aonPowerOn s = .next t ∧ t.time.tick = 0 ∧ t.boot.aonOn = true)

/-- What the spec fixes right after the AON power-on reset: TICK 0 and not yet counting, the Full profile, the reset cause POR, every
setting at its default (none listed), both memories canonical and nothing pending. -/
def Obligations.ResetState : Prop :=
  State.reset.time.tick = 0 ∧ State.reset.time.started = false ∧ State.reset.pwr.profile = 0 ∧ State.reset.boot.cause = 1 ∧
  State.reset.cmt.cfg = [] ∧ State.reset.cmt.queue = [] ∧ State.reset.host.posted = [] ∧ State.reset.churn.outBus = [] ∧
  Canonical State.reset ∧ State.reset.pending = []

/-! ### Churn -/

/-- Moves, halves, logic, selection and the smaller or larger of two: the value, one slot later, and nothing else (08 R187, R188). -/
def Obligations.ChurnMoves : Prop :=
  ∀ (s : State) (pu : BitVec 3) (p : Pred), Ready s pu → Executes s pu p →
    let u := now s pu
    (∀ d imm, ∃ t, exec (.ldi pu p d imm) s = .next t ∧ WroteD s t pu 1 d imm False) ∧
    (∀ d a, ∃ t, exec (.mov pu p d a) s = .next t ∧ WroteD s t pu 1 d (u.dreg a) False) ∧
    (∀ d a, ∃ t, exec (.unpkl pu p d a) s = .next t ∧
      WroteD s t pu 1 d (BitVec.ofNat 32 ((u.dreg a).toNat % 65536 * 65536)) False) ∧
    (∀ d a, ∃ t, exec (.unpkh pu p d a) s = .next t ∧
      WroteD s t pu 1 d (BitVec.ofNat 32 ((u.dreg a).toNat / 65536 * 65536)) False) ∧
    (∀ d a b, ∃ t, exec (.and pu p d a b) s = .next t ∧ WroteD s t pu 1 d (u.dreg a &&& u.dreg b) False) ∧
    (∀ d a b, ∃ t, exec (.or pu p d a b) s = .next t ∧ WroteD s t pu 1 d (u.dreg a ||| u.dreg b) False) ∧
    (∀ d a b, ∃ t, exec (.xor pu p d a b) s = .next t ∧ WroteD s t pu 1 d (u.dreg a ^^^ u.dreg b) False) ∧
    (∀ d a b, ∃ t x, exec (.min pu p d a b) s = .next t ∧ WroteD s t pu 1 d x False ∧
      x.toInt = min (u.dreg a).toInt (u.dreg b).toInt) ∧
    (∀ d a b, ∃ t x, exec (.max pu p d a b) s = .next t ∧ WroteD s t pu 1 d x False ∧
      x.toInt = max (u.dreg a).toInt (u.dreg b).toInt) ∧
    (∀ d a b (pr : BitVec 3) (inv : Bool), ∃ t, exec (.sel pu p d a b pr inv) s = .next t ∧
      WroteD s t pu 1 d (if (u.preg pr.toNat).xor inv then u.dreg a else u.dreg b) False)

/-- Sums, differences, products and shifts: rounded to nearest with ties away from zero, saturated, SAT counted once when saturation
changed the value; MULR three slots later, the others one (08 R184, R187, R188). -/
def Obligations.ChurnArithmetic : Prop :=
  ∀ (s : State) (pu : BitVec 3) (p : Pred), Ready s pu → Executes s pu p →
    let x (r : BitVec 6) : Int := ((now s pu).dreg r).toInt
    (∀ d a b, ∃ t, exec (.add pu p d a b) s = .next t ∧ WroteD s t pu 1 d (sat (x a + x b)) (outside32 (x a + x b))) ∧
    (∀ d a b, ∃ t, exec (.sub pu p d a b) s = .next t ∧ WroteD s t pu 1 d (sat (x a - x b)) (outside32 (x a - x b))) ∧
    (∀ d a, ∃ t, exec (.neg pu p d a) s = .next t ∧ WroteD s t pu 1 d (sat (-(x a))) (outside32 (-(x a)))) ∧
    (∀ d a, ∃ t, exec (.abs pu p d a) s = .next t ∧ WroteD s t pu 1 d (sat (x a).natAbs) (outside32 (x a).natAbs)) ∧
    (∀ d a b, ∃ t, exec (.mulr pu p d a b) s = .next t ∧ WroteRounded s t pu 3 d (x a * x b) 31) ∧
    (∀ d a (sh : BitVec 6), 0 ≤ sh.toInt → ∃ t, exec (.ash pu p d a sh) s = .next t ∧
      WroteD s t pu 1 d (sat (x a * 2 ^ sh.toInt.toNat)) (outside32 (x a * 2 ^ sh.toInt.toNat))) ∧
    (∀ d a (sh : BitVec 6), sh.toInt < 0 → ∃ t, exec (.ash pu p d a sh) s = .next t ∧
      WroteRounded s t pu 1 d (x a) (-sh.toInt).toNat) ∧
    (∀ d a b, ∃ t lo hi, exec (.pack pu p d a b) s = .next t ∧ Nearest (x a) 16 lo ∧ Nearest (x b) 16 hi ∧
      WroteD s t pu 1 d (BitVec.ofInt 16 (max (-32768) (min hi 32767)) ++ BitVec.ofInt 16 (max (-32768) (min lo 32767)))
        (32767 < lo ∨ 32767 < hi))

/-- Comparisons and predicate logic: the predicate, one slot later; P0 reads 1 whatever is written (08 R183, R189). -/
def Obligations.ChurnPredicates : Prop :=
  ∀ (s : State) (pu : BitVec 3) (p : Pred), Ready s pu → Executes s pu p →
    let u := now s pu
    let cond (c : BitVec 3) (a b : Word) : Bool :=
      match c.toNat with
      | 0 => decide (a = b) | 1 => decide (a ≠ b) | 2 => decide (a.toInt < b.toInt) | 3 => decide (a.toInt ≤ b.toInt)
      | 4 => decide (b.toInt < a.toInt) | 5 => decide (b.toInt ≤ a.toInt) | 6 => decide (a.toNat < b.toNat) | _ => decide (b.toNat ≤ a.toNat)
    let logic (o : BitVec 2) (a b : Bool) : Bool :=
      match o.toNat with | 0 => a && b | 1 => a || b | 2 => a.xor b | _ => a && !b
    (∀ d a b c, ∃ t, exec (.cmp pu p d a b c) s = .next t ∧ WroteP s t pu d (cond c (u.dreg a) (u.dreg b))) ∧
    (∀ d a c imm, ∃ t, exec (.cmpi pu p d a c imm) s = .next t ∧ WroteP s t pu d (cond c (u.dreg a) imm)) ∧
    (∀ d (m n : BitVec 3) o, ∃ t, exec (.plog pu p d m n o) s = .next t ∧ WroteP s t pu d (logic o (u.preg m.toNat) (u.preg n.toNat)))

/-- Multiply-accumulate, loads and sums of accumulators, limited to 80 bits, each limit counting in SAT; the next accumulate sees the
value, and ACCST and the source of ACCADD see it from the third slot after it, and not before (08 R184, R187, R188, R195). -/
def Obligations.ChurnAccumulators : Prop :=
  (∀ (s : State) (pu : BitVec 3) (p : Pred), Ready s pu → Executes s pu p →
    let u := now s pu
    let x (r : BitVec 6) : Int := (u.dreg r).toInt
    (∀ c a b, ∃ t, exec (.mac pu p c a b) s = .next t ∧ WroteA s t pu c (accAt u c + x a * x b)) ∧
    (∀ c a b, ∃ t, exec (.msu pu p c a b) s = .next t ∧ WroteA s t pu c (accAt u c - x a * x b)) ∧
    (∀ c a b, ∃ t, exec (.mpy pu p c a b) s = .next t ∧ WroteA s t pu c (x a * x b)) ∧
    (∀ c a, ∃ t, exec (.accld pu p c a) s = .next t ∧ WroteA s t pu c (x a * 2 ^ 31)) ∧
    (∀ c a (k : BitVec 12), ∃ t, exec (.macc pu p c a k) s = .next t ∧ WroteA s t pu c (accAt u c + x a * (u.coefVal k.toNat).toInt)) ∧
    (∀ c a (k : BitVec 12), ∃ t, exec (.mpyc pu p c a k) s = .next t ∧ WroteA s t pu c (x a * (u.coefVal k.toNat).toInt)) ∧
    (∀ c src, ∃ t, exec (.accadd pu p c src) s = .next t ∧ WroteA s t pu c (accAt u c + u.accSeen src)) ∧
    (∀ d c (sh : BitVec 5), ∃ t, exec (.accst pu p d c false sh) s = .next t ∧
      WroteRounded s t pu 1 d (u.accSeen c) (31 - sh.toInt).toNat) ∧
    (∀ d c (sh : BitVec 5), ∃ t v, exec (.accst pu p d c true sh) s = .next t ∧ Nearest (u.accSeen c) (31 - sh.toInt).toNat v ∧
      dAt (t.pu pu.toNat) (u.slot + 1) d = sat v ∧ accAt (t.pu pu.toNat) c = 0 ∧ (∀ b, b ≠ c → (t.pu pu.toNat).accOf b = u.accOf b))) ∧
  (∀ (u : PuSt) (c : BitVec 2) (v : Int), -(2 ^ 79) ≤ v → v < 2 ^ 79 →
    (u.accOf c).recent.Pairwise (fun x y => x.1 ≤ y.1) →
    ({ u.accWrite c v with slot := u.slot + 3 } : PuSt).accSeen c = v ∧
    (∀ k, k < 3 → ({ u.accWrite c v with slot := u.slot + k } : PuSt).accSeen c = ({ u with slot := u.slot + k } : PuSt).accSeen c))

/-- The buses: INB takes the input bus frame of the tick, OUTB writes an output bus register, PBR reads the read bank and PBW writes the
write bank of the patch registers, LDC takes the glided coefficient, NOP does nothing (08 R195, R198, R199). -/
def Obligations.ChurnBuses : Prop :=
  ∀ (s : State) (pu : BitVec 3) (p : Pred), Ready s pu → Executes s pu p →
    let u := now s pu
    let next : PuSt := { u with slot := u.slot + 1 }
    (exec (.churnNop pu p) s = .next (s.putPu pu.toNat next)) ∧
    (∀ d (ch : BitVec 8), ∃ t, exec (.inb pu p d ch) s = .next t ∧ WroteD s t pu 1 d (tget 0 s.audio.inBus ch.toNat) False) ∧
    (∀ d (r : BitVec 10), ∃ t, exec (.pbr pu p d r) s = .next t ∧ WroteD s t pu 1 d (tget 0 s.churn.patchR r.toNat) False) ∧
    (∀ d (k : BitVec 12), ∃ t, exec (.ldc pu p d k) s = .next t ∧ WroteD s t pu 1 d (u.coefVal k.toNat) False) ∧
    (∀ a (ch : BitVec 8), ∃ t, exec (.outb pu p a ch) s = .next t ∧ t.pu pu.toNat = next ∧
      (∀ k, tget 0 t.churn.outBus k = if k = ch.toNat then u.dreg a else tget 0 s.churn.outBus k) ∧
      (∀ m, m ≠ pu.toNat → t.pu m = s.pu m) ∧
      t.setChurn s.churn = s ∧ t.churn.patchR = s.churn.patchR ∧ t.churn.patchW = s.churn.patchW) ∧
    (∀ a (r : BitVec 10), ∃ t, exec (.pbw pu p a r) s = .next t ∧ t.pu pu.toNat = next ∧
      (∀ k, tget none t.churn.patchW k = if k = r.toNat then some (u.dreg a) else tget none s.churn.patchW k) ∧
      (∀ m, m ≠ pu.toNat → t.pu m = s.pu m) ∧
      t.setChurn s.churn = s ∧ t.churn.patchR = s.churn.patchR ∧ t.churn.outBus = s.churn.outBus)

/-- An instruction whose predicate is not met writes no register, memory, bus or counter and makes no access: only its slot passes
(08 R186). -/
def Obligations.ChurnPredicateGates : Prop :=
  ∀ (s : State) (pu : BitVec 3) (p : Pred), Ready s pu → ¬ Executes s pu p →
    let skip := s.putPu pu.toNat { now s pu with slot := (now s pu).slot + 1 }
    (∀ d a b, exec (.add pu p d a b) s = .next skip ∧ exec (.mulr pu p d a b) s = .next skip ∧ exec (.pack pu p d a b) s = .next skip) ∧
    (∀ d imm, exec (.ldi pu p d imm) s = .next skip) ∧ (∀ d a b c, exec (.cmp pu p d a b c) s = .next skip) ∧
    (∀ c a b, exec (.mac pu p c a b) s = .next skip) ∧ (∀ d c z sh, exec (.accst pu p d c z sh) s = .next skip) ∧
    (∀ a ch, exec (.outb pu p a ch) s = .next skip) ∧ (∀ a r, exec (.pbw pu p a r) s = .next skip) ∧
    (∀ a l, exec (.dwr pu p a l) s = .next skip) ∧ (∀ d l k e, exec (.drd pu p d l k e) s = .next skip) ∧
    (∀ d b l o e, exec (.drdx pu p d b l o e) s = .next skip) ∧ (∀ d b l o e, exec (.vrd pu p d b l o e) s = .next skip) ∧
    (∀ d a l, exec (.lut pu p d a l) s = .next skip)

/-- Delay lines. DWR stores A at position WP of its line at once and no other byte changes (in a word that cannot be corrected the other half
becomes 0). A read at delay d takes position WP - d, visible four slots later: delay 0 is the sample that DWR has written this tick, or else the
oldest one; 0 where the age exceeds FILL, and where the word cannot be corrected. A delay of LEN or more that DRDX computes is clamped to LEN - 1
and counts in DCLAMP (08 R191, R192, R209). -/
def Obligations.DelayLines : Prop :=
  ∀ (s : State) (pu : BitVec 3) (p : Pred) (k : BitVec 6) (g : Geom), Ready s pu → Executes s pu p →
    (now s pu).line k.toNat = some g → g.bank * 65536 + g.offset + g.len ≤ 64 * 65536 →
    let u := now s pu
    let l := u.lineState k.toNat
    let at_ (q : Nat) : Nat := 0x40000000 + g.bank * 0x40000 + (g.offset + q) * 4
    let age (d : Nat) : Nat := if d = 0 ∧ l.wrote = false then g.len else d
    let pos (d : Nat) : Nat := at_ (if l.wp < d then l.wp + g.len - d else l.wp - d)
    (∀ a, l.wp < g.len → s.bankOn (vatBankOf (at_ l.wp)) = true → ∃ t, exec (.dwr pu p a k) s = .next t ∧
      (∀ i, i < 4 → t.vatByte (at_ l.wp + i) = BitVec.ofNat 8 ((u.dreg a).toNat / 256 ^ i % 256)) ∧
      SameBytes s t (at_ l.wp / 8 * 8) (at_ l.wp / 8 * 8 + 8) ∧
      (s.vatDecode (at_ l.wp / 8 * 8) ≠ .uncorrectable → SameBytes s t (at_ l.wp) (at_ l.wp + 4)) ∧
      ((t.pu pu.toNat).lineState k.toNat).wrote = true ∧ (t.pu pu.toNat).slot = u.slot + 1) ∧
    (∀ d (delay : BitVec 21) e, delay.toNat < g.len → l.fill < age delay.toNat →
      ∃ t, exec (.drd pu p d k delay e) s = .next t ∧ WroteD s t pu 4 d 0 False) ∧
    (∀ d (delay : BitVec 21) e, delay.toNat < g.len → age delay.toNat ≤ l.fill → l.wp < g.len →
      s.bankOn (vatBankOf (pos delay.toNat)) = true →
      ∃ t, exec (.drd pu p d k delay e) s = .next t ∧ ReadVat s t pu d (pos delay.toNat) (found s (pos delay.toNat) e)) ∧
    (∀ d b (off : BitVec 21) e, 0 < g.len →
      let x := (u.dreg b).toNat + off.toNat
      let m := min x (g.len - 1)
      let clamps (t : State) : Prop := t.count 0x20 pu.toNat 1 =
        (if g.len ≤ x then satAdd32 (s.count 0x20 pu.toNat 1) 1 else s.count 0x20 pu.toNat 1)
      (l.fill < age m → ∃ t, exec (.drdx pu p d b k off e) s = .next t ∧ clamps t ∧
        dAt (t.pu pu.toNat) (u.slot + 4) d = 0 ∧ (∀ n r, r ≠ d → dAt (t.pu pu.toNat) n r = dAt u n r) ∧ t.mem = s.mem) ∧
      (age m ≤ l.fill → l.wp < g.len → s.bankOn (vatBankOf (pos m)) = true →
        ∃ t, exec (.drdx pu p d b k off e) s = .next t ∧ clamps t ∧ ReadVat s t pu d (pos m) (found s (pos m) e)))

/-- Vat tables and lookup tables. VRD takes the entry at its index, a larger index clamped to LEN - 1 and counted in DCLAMP, four slots later. LUT
splits A, made unsigned by adding 2^31 for a signed table, into an index of LOG2N bits and a fraction of 16: with INTERP the value goes on
linearly to the next entry, rounded and saturated, without it the nearer entry is taken (08 R184, R192, R194, R197). -/
def Obligations.IndexedReads : Prop :=
  ∀ (s : State) (pu : BitVec 3) (p : Pred), Ready s pu → Executes s pu p →
    let u := now s pu
    (∀ d b (tab : BitVec 3) (off : BitVec 21) e g, u.vtabs[tab.toNat]? = some g → g.bank * 65536 + g.offset + g.len ≤ 64 * 65536 → 0 < g.len →
      let x := (u.dreg b).toNat + off.toNat
      let a := 0x40000000 + g.bank * 0x40000 + (g.offset + min x (g.len - 1)) * 4
      s.bankOn (vatBankOf a) = true → ∃ t, exec (.vrd pu p d b tab off e) s = .next t ∧ ReadVat s t pu d a (found s a e) ∧
        t.count 0x20 pu.toNat 1 = (if g.len ≤ x then satAdd32 (s.count 0x20 pu.toNat 1) 1 else s.count 0x20 pu.toNat 1)) ∧
    (∀ d a (tab : BitVec 4) lt, u.tables[tab.toNat]? = some lt → lt.log2n ≤ 12 →
      let w := if lt.signed then ((u.dreg a).toNat + 2 ^ 31) % 2 ^ 32 else (u.dreg a).toNat
      let i := w / 2 ^ (32 - lt.log2n)
      let f := w / 2 ^ (16 - lt.log2n) % 65536
      let v (k : Nat) : Word := tget 0 u.lut (lt.base + k)
      (lt.interp = false → ∃ t, exec (.lut pu p d a tab) s = .next t ∧ WroteD s t pu 3 d (if f < 32768 then v i else v (i + 1)) False) ∧
      (lt.interp = true → ∃ t r, exec (.lut pu p d a tab) s = .next t ∧ Nearest (((v (i + 1)).toInt - (v i).toInt) * f) 16 r ∧
        WroteD s t pu 3 d (sat ((v i).toInt + r)) (outside32 ((v i).toInt + r))))

/-! ### Vats -/

/-- A bank that powers up is On, or held in Retention; one that was off, or has lost its contents, then reads 0 with every word sound, and one
that has kept them reads as before. A corrected word that waits is written back whole: its 8 bytes and no other, the word sound again and no write-back
of it pending. The other banks keep their records (10 R254, R256). -/
def Obligations.VatPowerUpAndWriteBack : Prop :=
  (∀ (b : Nat) (s : State), b < 64 → (s.bank b).pwr = .poweringUp → ∃ t, exec (.bankPowerUpEnd b) s = .next t ∧
    (t.bank b).pwr = (if (s.bank b).toRet then .retention else .on) ∧ (∀ c, c ≠ b → t.bank c = s.bank c) ∧
    ((s.bank b).fromOff = true ∨ (s.bank b).undef = true →
      (∀ a, 0x40000000 + b * 0x40000 ≤ a → a < 0x40000000 + (b + 1) * 0x40000 → s.lockOf a = none → t.vatByte a = 0 ∧ t.vatDecode a = .ok) ∧
      (t.bank b).scrub = []) ∧
    ((s.bank b).fromOff = false → (s.bank b).undef = false → t.mem = s.mem ∧ t.vat.cells = s.vat.cells ∧ (t.bank b).scrub = (s.bank b).scrub) ∧
    SameBytes s t (0x40000000 + b * 0x40000) (0x40000000 + (b + 1) * 0x40000) ∧ (t.setMem s.mem).setVat s.vat = s) ∧
  (∀ (b w : Nat) (v : BitVec 64) (r : List (Nat × BitVec 64)) (s : State), b < 64 → w < 32768 → s.bankOn b = true → s.time.ckeOff = false →
    (s.bank b).scrub = (w, v) :: r →
    let a := 0x40000000 + b * 0x40000 + 8 * w
    ∃ t, exec (.scrubWriteBack b) s = .next t ∧ (t.bank b).scrub = r.filter (fun e => e.1 != w) ∧ (∀ c, c ≠ b → t.bank c = s.bank c) ∧
    (∀ i, i < 8 → t.vatByte (a + i) = BitVec.ofNat 8 (v.toNat / 256 ^ i % 256)) ∧ t.vatDecode a = .ok ∧ SameBytes s t a (a + 8) ∧
    (t.setMem s.mem).setVat s.vat = s)

/-- March H11. A TEST of a bank that is On and free starts its test; a second one is turned away IN_USE for the engine, one aimed at a bank that is
not On UNIT_DOWN, a destructive one of a bank that a commit claims or that holds the blob store IN_USE for the bank. A preserving test takes the words
upwards: the one before is released, the next is read with correction and locked, so that both ports read every byte as before; it fails where a read
of its operations saw a wrong cell or it could not be corrected. A destructive test takes one element after another across the bank, elements 4, 5
and 8 downwards, and then clears it. The end writes the result: outcome, number of failing words, the first address and the rows (10 R258 to R262). -/
def Obligations.VatMarchRuns : Prop :=
  let at_ (s : State) (w : Nat) : Nat := 0x40000000 + s.vat.march.bank * 0x40000 + 8 * w
  let wrong (res : MarchRes) (k : Nat) : Prop := ∃ v : Nat × BitVec 72, res.bad.find? (fun e => e.1 = k) = some v ∧ v.2 ≠ 0
  let underWay (s : State) : Prop := s.vat.march.busy = true ∧ s.vat.march.ended = false ∧ s.vat.march.bank < 64 ∧ s.time.ckeOff = false
  (∀ (ring : Nat) (s : State) (q : Req), (s.ring ring).oldestTest 1 = some q →
    let b := q.desc.unit
    let free := s.vat.march.busy = false
    let open_ := s.bankOn b = true ∧ s.time.ckeOff = false
    let held := q.desc.mode = 0 ∧ (s.bankClaimed b = true ∨ s.bankInStore b = true)
    (free → open_ → ¬ held → ∃ t, exec (.vatMarch ring) s = .next t ∧ t.mem = s.mem ∧
      t.vat.march = { busy := true, bank := b, pres := q.desc.mode == 1, ring := ring, id := q.id, addr := q.desc.addr } ∧ t.vat.banks = s.vat.banks ∧ t.host.posted = s.host.posted) ∧
    (¬ free → exec (.vatMarch ring) s = .next (s.finish ring q.id { status := 8, reason := 0x3040 })) ∧
    (free → ¬ open_ → exec (.vatMarch ring) s = .next (s.finish ring q.id { status := 0xB, reason := BitVec.ofNat 16 (0x3000 + b % 256) })) ∧
    (free → open_ → held → exec (.vatMarch ring) s = .next (s.finish ring q.id { status := 8, reason := BitVec.ofNat 16 (0x3000 + b % 256) }))) ∧
  (∀ (res : MarchRes) (s : State), underWay s → s.vat.march.pres = true → (s.vat.march.begun = true → s.vat.march.word < 32767) →
    (s.vat.march.lock = none ∨ (s.vat.march.begun = true ∧ ∃ v, s.vat.march.lock = some (s.vat.march.word, v))) →
    let m := s.vat.march
    let w := if m.begun then m.word + 1 else 0
    let x := found s (at_ s w) (if res.uncorr then .uncorrectable else .ok)
    let fails := x = .uncorrectable ∨ ∃ k ∈ [1, 3, 5, 7, 9, 10, 12, 13, 15, 17, 19, 20], wrong res k
    ∃ t, exec (.marchWord res) s = .next t ∧ t.vat.march.busy = true ∧ t.vat.march.begun = true ∧ t.vat.march.word = w ∧
      t.vat.march.ended = (w == 32767) ∧
      t.vat.march.lock = (if x = .uncorrectable then none else some (w, BitVec.ofNat 64 (leNat (s.vatBytes (at_ s w) 8)))) ∧
      (∀ k, k ∈ t.vat.march.fails ↔ k ∈ m.fails ∨ (k = w ∧ fails)) ∧ SameBytes s t 0 0) ∧
  (∀ (res : MarchRes) (s : State), underWay s → s.vat.march.pres = false → s.vat.march.word < 32768 → s.vat.march.elem < 11 →
    let m := s.vat.march
    let down (e : Nat) : Prop := e = 3 ∨ e = 4 ∨ e = 7
    let reads : List Nat := nth [] [[], [0], [0], [0], [0], [0], [0, 2], [0, 2], [], [0, 2], [0]] m.elem
    let last := if down m.elem then m.word = 0 else m.word = 32767
    ∃ t, exec (.marchWord res) s = .next t ∧ t.vat.march.busy = true ∧ t.vat.march.ended = false ∧
      t.vat.march.elem = (if last then m.elem + 1 else m.elem) ∧
      t.vat.march.word = (if last then (if down (m.elem + 1) then 32767 else 0) else if down m.elem then m.word - 1 else m.word + 1) ∧
      (∀ k, k ∈ t.vat.march.fails ↔ k ∈ m.fails ∨ (k = m.word ∧ ∃ k ∈ reads, wrong res k)) ∧
      SameBytes s t (at_ s m.word) (at_ s m.word + 8)) ∧
  (∀ (res : MarchRes) (s : State), underWay s → s.vat.march.pres = false → s.vat.march.word < 32768 → s.vat.march.elem = 11 →
    s.vat.march.lock = none →
    let m := s.vat.march
    ∃ t, exec (.marchWord res) s = .next t ∧ t.vat.march.ended = (m.word == 32767) ∧
      (m.word < 32767 → t.vat.march.word = m.word + 1) ∧ t.vat.march.fails = m.fails ∧
      (∀ i, i < 8 → t.vatByte (at_ s m.word + i) = 0) ∧ t.vatDecode (at_ s m.word) = .ok ∧
      SameBytes s t (at_ s m.word) (at_ s m.word + 8)) ∧
  (∀ (abort : Bool) (s : State), s.vat.march.busy = true → s.vat.march.bank < 64 → abort = true ∨ s.vat.march.ended = true →
    (s.vat.march.lock = none ∨ ∃ w v, w < 32768 ∧ s.vat.march.lock = some (w, v)) →
    let m := s.vat.march
    let rows := (m.fails.map (· / 64)).eraseDups
    let result : List Byte := leBytes 4 (if abort then 2 else if m.fails = [] then 0 else 1) ++ leBytes 4 m.fails.length
      ++ leBytes 8 (match m.fails with | [] => 0 | w :: _ => at_ s w) ++ leBytes 2 rows.length ++ leBytes 14 0
      ++ (List.range 16).flatMap fun i => leBytes 2 (nth 0xFFFF rows i)
    ∃ u, exec (.marchEnd abort) s = .next (u.finishWrite m.ring m.id m.addr.toNat result { status := 0, result := BitVec.ofNat 32 m.fails.length }) ∧
      u.vat.march = {} ∧ u.host = s.host ∧ (m.pres = true → SameBytes s u 0 0) ∧
      (m.pres = false → SameBytes s u (at_ s 0) (at_ s 32768) ∧ ∀ a, at_ s 0 ≤ a → a < at_ s 32768 → u.vatByte a = 0 ∧ u.vatDecode a = .ok))

/-! ### Clocks -/

/-- References: 16 good windows in a row within ±450 ppm qualify a source, which a lost one needs to be found again; a window beyond ±450 ppm starts
the count again; one beyond ±500 ppm refuses the source and posts CLK_REF_REFUSED where it was qualified and configured; a lost one posts CLK_REF_LOST
where it is configured. The APLL leaves LOCKED when its active source is refused or lost (03 R45, R59). -/
def Obligations.ReferenceQualification : Prop :=
  let active (s : State) (k : Nat) : Prop := s.clk.src = some k ∧ s.clk.state = .locked
  (∀ (k : Nat) (ppb : Int) (s : State), 2 ≤ k → k < 8 → s.clk.xoOk = true → s.domOn 19 = true → -500000 ≤ ppb → ppb ≤ 500000 →
    (k = 2 → s.clk.bootCfg.toNat % 4 ≠ 3) →
    ∃ t, exec (.refMeasure k ppb) s = .next t ∧ (t.src k).ppb = ppb ∧
      (t.src k).good = (if -450000 ≤ ppb ∧ ppb ≤ 450000 then min ((s.src k).good + 1) 16 else 0) ∧
      ((t.src k).qual = true ↔ (s.src k).qual = true ∨ (t.src k).good = 16) ∧
      ((t.src k).lost = true ↔ (s.src k).lost = true ∧ (t.src k).qual = false) ∧
      (∀ j, j ≠ k → t.src j = s.src j) ∧ Quiet s t ∧ t.clk.state = s.clk.state) ∧
  (∀ (k : Nat) (ppb : Int) (s : State), 2 ≤ k → k < 8 → s.clk.xoOk = true → s.domOn 19 = true → (ppb < -500000 ∨ 500000 < ppb) →
    let said := (s.src k).qual = true ∧ s.selected k = true
    ∃ t, exec (.refMeasure k ppb) s = .next t ∧ (t.src k).qual = false ∧ (t.src k).good = 0 ∧ (t.src k).lost = (s.src k).lost ∧
      (∀ j, j ≠ k → t.src j = s.src j) ∧ (said → Posts s t 0x22 (0x200 + k)) ∧ (¬ said → Quiet s t) ∧
      ((s.src k).qual = true → active s k → t.clk.state = .acquire) ∧ t.clk.offset48 = s.clk.offset48) ∧
  (∀ (k : Nat) (s : State), 2 ≤ k → k < 8 → (s.src k).lost = false →
    ∃ t, exec (.clkRefLost k) s = .next t ∧ (t.src k).lost = true ∧ (t.src k).qual = false ∧ (t.src k).good = 0 ∧
      (∀ j, j ≠ k → t.src j = s.src j) ∧ (s.selected k = true → Posts s t 0x21 (0x200 + k)) ∧ (s.selected k = false → Quiet s t) ∧
      (active s k → t.clk.state = .acquire) ∧ t.clk.offset48 = s.clk.offset48)

/-- The APLL: the build-out is captured within 0.5 ppm of the target, and phase is tracked about it; a reference is LOCKED once the lock test (0.5 ppm
and 200 ns) has held for 32 blocks, FREE and DISC when the target is reached; LOCKED posts CLK_LOCK and the first one starts the tick grid; a phase
error beyond 2 µs leaves LOCKED; with REVERT the primary is taken back once it has stayed qualified for 1,024 blocks; DISC is lost at its timeout (03
R46 to R51, 02 R24). -/
def Obligations.ApllLocking : Prop :=
  (∀ (ph : Int) (k : Nat) (s : State), s.clk.slewing = true → s.clk.src = some k → 2 ≤ k →
    -24000 ≤ s.apllTarget - s.clk.offset48 → s.apllTarget - s.clk.offset48 ≤ 24000 →
    exec (.buildOutCapture ph) s = .next (s.setClk { s.clk with slewing := false, buildOut := ph, phErr := 0, lockFor := 0 })) ∧
  (∀ (k : Nat) (s : State), s.domOn 19 = true → s.clk.src = some k →
    ((2 ≤ k ∧ s.clk.state = .acquire ∧ s.clk.slewing = false ∧ -24000 ≤ s.apllTarget - s.clk.offset48 ∧ s.apllTarget - s.clk.offset48 ≤ 24000 ∧
        -460800000 ≤ s.clk.phErr ∧ s.clk.phErr ≤ 460800000 ∧ s.clk.lockFor = 1536) ∨
      (s.clk.state = .free ∧ s.clk.offset48 = s.apllTarget)) →
    ∃ t, exec .clkLock s = .next t ∧ t.clk.state = .locked ∧ t.clk.src = some k ∧ t.time.started = true ∧ t.time.ckeOff = false ∧
      t.time.tick = s.time.tick ∧ Posts s t 0x20 (0x200 + k) ∧ t.clk.offset48 = s.clk.offset48) ∧
  (∀ (ph : Int) (k : Nat) (s : State), s.clk.state = .locked → s.clk.src = some k → 2 ≤ k → (ph < -2000 ∨ 2000 < ph) →
    exec (.apllLockLoss ph) s = .next (s.setClk { s.clk with state := .acquire, phErr := 2304000 * ph, lockFor := 0 })) ∧
  (∀ (s : State), s.clk.failedOver = true → s.cfg 2 0 2 = 1 → s.clk.src = some s.refSec → s.usable1 s.refPri = true →
    (2 ≤ s.refPri → 1024 ≤ (s.src s.refPri).qualFor) →
    ∃ t, exec .revertToPrimary s = .next t ∧ t.clk.src = some s.refPri ∧ t.clk.slewing = true ∧ t.clk.offset48 = s.clk.offset48 ∧
      t.clk.state = (if s.refPri ≤ 1 then .free else .acquire) ∧ Posts s t 0x23 (0x200 + s.refPri)) ∧
  (∀ (s : State), s.clk.src = some 1 → s.cfg 2 0 5 ≠ 0 → 48 * s.cfg 2 0 5 ≤ s.clk.discCount → s.clk.discLost = false →
    ∃ t, exec .discLost s = .next t ∧ t.clk.discLost = true ∧ (s.selected 1 = true → Posts s t 0x21 0x201) ∧
      (s.selected 1 = false → Quiet s t))

/-- XO: its failure puts a running APLL in HOLDOVER at the mean offset and the PLLs on CK_E / 40, posting XO_FAIL; the sources keep their
qualification. On recovery the PLLs return to XO, and cores that the CPLL clocks wait for its lock on the bypass (03 R49, R59, R62). The CPLL: a lock
ends the transition at its operating point, off the bypass, and then VDD_CPU comes down to what it needs; a failure ends it on the bypass, or at the
old operating point, and posts CPLL_FAIL (03 R55, R63). -/
def Obligations.OscillatorAndCoreClock : Prop :=
  (∀ (s : State), s.clk.xoOk = true → s.clk.state ≠ .stopped → s.clk.state ≠ .holdover → ∃ t, exec .xoFail s = .next t ∧ t.clk.xoOk = false ∧
    t.clk.pllOnCke = true ∧ t.clk.state = .holdover ∧ t.clk.src = none ∧ t.clk.held = s.clk.mean ∧ t.clk.offset48 = s.clk.offset48 ∧
    t.host.posted = s.host.posted ++ [ev 0x24 0x02FF, ev 0x25 0x02F0] ∧ t.clk.srcs = s.clk.srcs) ∧
  (∀ (s : State), s.clk.xoOk = true → s.clk.state = .stopped ∨ s.clk.state = .holdover → ∃ t, exec .xoFail s = .next t ∧ t.clk.xoOk = false ∧
    t.clk.pllOnCke = (s.clk.state != .stopped) ∧ t.clk.state = s.clk.state ∧ Posts s t 0x25 0x02F0 ∧ t.clk.srcs = s.clk.srcs) ∧
  (∀ (s : State), s.clk.xoOk = false → ∃ t, exec .xoRecover s = .next t ∧ t.clk.xoOk = true ∧ t.clk.pllOnCke = false ∧ Quiet s t ∧
    t.clk.offset48 = s.clk.offset48 ∧ t.clk.state = s.clk.state ∧
    (s.clk.pllOnCke = true → s.clk.cpllLock = true → t.clk.onBypass = true ∧ t.clk.cpllLock = false ∧ t.clk.oppTarget = some s.clk.opp) ∧
    (s.clk.pllOnCke = false ∨ s.clk.cpllLock = false →
      t.clk.onBypass = s.clk.onBypass ∧ t.clk.cpllLock = s.clk.cpllLock ∧ t.clk.oppTarget = s.clk.oppTarget)) ∧
  (∀ (o : Nat) (s : State), s.clk.oppTarget = some o → s.clk.oppNext = none → ∃ t, exec .cpllLock s = .next t ∧ t.clk.opp = o ∧
    t.clk.onBypass = false ∧ t.clk.cpllLock = true ∧ t.clk.oppTarget = none ∧ t.pwr.vddMv = min (s.oppMv o) s.pwr.vddMv ∧ Quiet s t) ∧
  (∀ (o : Nat) (s : State), s.clk.oppTarget = some o → s.clk.oppNext = none → ∃ t, exec .cpllFail s = .next t ∧ t.clk.oppTarget = none ∧
    t.clk.opp = (if s.clk.onBypass then 0 else s.clk.opp) ∧ t.pwr = s.pwr ∧ Posts s t 0x26 0x02F1)

/-! ### Audio ports and the fixed path -/

/-- A slave clock: CLK_HZ is measured over the last 256 periods. A period is good when its length and its high and low times are, and on PDM the
decimated rate over 256 of them lies between 8 and 96 kHz; one that is not starts the count again; a port in WAIT_CLK whose 256 are counted, and on
TDM 16 correctly framed frames, enters SETTLE with the ramp at 0 (06 R125, R131, R138). -/
def Obligations.PortClockQualification : Prop :=
  ∀ (port : PortId) (period high : Nat) (s : State), s.portOk port = true →
    s.portSlave (portCode port) port.idx = true → (s.port (portCode port) port.idx).st = .waitClk →
    let c := portCode port
    let r := s.port c port.idx
    let tdm := port.cls = .tdm
    let w := (period :: r.window).take 256
    let sum := sumOf id w
    let osr := nth 64 [32, 40, 64, 80, 128] (s.cfg c port.idx 3)
    let good := (if tdm then 39 ≤ period ∧ period ≤ 3900 ∧ 16 ≤ high ∧ high + 16 ≤ period
        else 152 ≤ period ∧ period ≤ 1966 ∧ 60 ≤ high ∧ high + 60 ≤ period) ∧
      (tdm ∨ w.length < 256 ∨ (10240 * 256 ≤ sum * osr ∧ sum * osr ≤ 122880 * 256))
    let met := 255 ≤ r.periods ∧ (tdm → 16 ≤ r.frames)
    ∃ t, exec (.settle port period high) s = .next t ∧ Quiet s t ∧ (t.port c port.idx).window = w ∧ (t.port c port.idx).clk = true ∧
      (w.length = 256 → 0 < sum → (t.port c port.idx).hz = BitVec.ofNat 32 (983040000 * 256 / sum)) ∧
      (¬ good → (t.port c port.idx).periods = 0 ∧ (t.port c port.idx).st = .waitClk ∧ (t.port c port.idx).periodBad = true) ∧
      (good → (t.port c port.idx).periods = min 256 (r.periods + 1) ∧ (t.port c port.idx).periodBad = false) ∧
      (good → ¬ met → (t.port c port.idx).st = .waitClk) ∧
      (good → met → (t.port c port.idx).st = .settle ∧ (t.port c port.idx).g = 0 ∧ (t.port c port.idx).since = s.time.tick)

/-- What a port does at a loss, its return and the ends of its ramps: PORT_CLK_LOST and RAMP_DOWN from RUN, PORT_CLK_OK and RAMP_UP when
SETTLE is over, RUN at g = 32, WAIT_CLK at g = 0, or SETTLE where the clock is back and its count met; a framing error counts and posts FRAME_ERR, the
fourth in a row is clock loss; a channel found stuck posts PDM_STUCK and counts (06 R132, R137, R139, R141, R145). -/
def Obligations.PortStates : Prop :=
  ∀ (port : PortId) (s : State), s.portOk port = true →
    let c := portCode port
    let p := port.idx
    let r := s.port c p
    let st (u : State) := (u.port c p).st
    (s.portSlave c p = true → st s = .run → ∃ t, exec (.portClkLost port) s = .next t ∧ st t = .rampDown ∧
      (t.port c p).clk = false ∧ t.count c p 0 = satAdd32 (s.count c p 0) 1 ∧ ev 0x30 (c * 256 + p % 256) ∈ t.host.posted ∧
      (∀ q, q ≠ c * 256 + p → tget {} t.ports q = tget {} s.ports q)) ∧
    (st s = .settle → r.since.toNat + s.startup c p ≤ s.time.tick.toNat →
      (∀ e ∈ s.liveEps c p, (s.conv e).st = .track ∨ (s.conv e).st = .sync) → (s.portSlave c p = true → r.clk = true ∧ r.periodBad = false) →
      ∃ t, exec (.portClkOk port) s = .next t ∧ st t = .rampUp ∧ Posts s t 0x31 (c * 256 + p % 256)) ∧
    (st s = .rampUp → r.g = 31 → ∃ t, exec (.rampUpEnd port) s = .next t ∧ st t = .run ∧ (t.port c p).g = 32 ∧ Quiet s t) ∧
    (st s = .rampDown → r.g = 1 →
      let back := s.portSlave c p = true ∧ 256 ≤ r.periods ∧ (port.cls = .tdm → 16 ≤ r.frames)
      ∃ t, exec (.rampDownEnd port) s = .next t ∧ (t.port c p).g = 0 ∧ Quiet s t ∧ (back → st t = .settle) ∧
        (¬ back → st t = .waitClk ∧ ∀ e ∈ epsOfPort c p, t.conv e = {})) ∧
    (port.cls = .tdm → s.portSlave c p = true → st s = .run → r.errRun < 3 →
      ∃ t, exec (.portFrameErr port) s = .next t ∧ st t = .run ∧ (t.port c p).errRun = r.errRun + 1 ∧ (t.port c p).periods = 0 ∧
        t.count c p 1 = satAdd32 (s.count c p 1) 1 ∧ Posts s t 0x32 (c * 256 + p % 256)) ∧
    (port.cls = .tdm → s.portSlave c p = true → st s = .run → 3 ≤ r.errRun →
      ∃ t, exec (.portFrameErr port) s = .next t ∧ st t = .rampDown ∧ t.count c p 0 = satAdd32 (s.count c p 0) 1 ∧
        t.count c p 1 = s.count c p 1 ∧ ev 0x30 (c * 256 + p % 256) ∈ t.host.posted) ∧
    (∀ line odd, port.cls = .pdmi → pdmChannel line odd ∈ r.stuckDue → let ch := pdmChannel line odd; ∃ t, exec (.pdmStuck port line odd) s = .next t ∧
      ch ∈ (t.port c p).stuck ∧ ch ∉ (t.port c p).stuckDue ∧ st t = st s ∧ t.count c p 1 = satAdd32 (s.count c p 1) 1 ∧
      Posts s t 0x33 (0x1000 + 16 * p + ch))

/-- A frame of a slave TDM port that runs. On receipt, every enabled slot's leading WORD_BITS bits from DIN, most significant first, left-aligned, and 0
for every other slot, reach its converter whole; in sending, the next frame of its converter goes to DOUT, rounded to WORD_BITS bits with ties away
from zero and saturated, and every other slot is idle (06 R128, R129, R134, R144). -/
def Obligations.PortFrameReceived : Prop :=
  ∀ (p e : Nat) (x : PinFrame) (s : State), s.portOk ⟨.tdm, p⟩ = true → s.portSlave 0x12 p = true → (s.port 0x12 p).st = .run →
    s.framed p x = true → s.liveEps 0x12 p = [e] → (s.conv e).st = .sync →
    let bits := nth 16 [16, 24, 32] (s.cfg 0x12 p 8)
    let slot := if s.cfg 0x12 p 7 = 1 then 32 else 16
    let first (k : Nat) : Nat := (if s.tdmFmt p = 0 ∨ s.tdmFmt p = 2 then 1 else 0) + k * slot
    let din := if s.cfg 0x12 p 0xC = 1 then nth 0 x.fall 0 else nth 0 x.rise 0
    (isInEp e = true → (s.port 0x12 p).rxFifo = [] →
      let word (k : Nat) : Word :=
        if k < s.cfg 0x12 p 6 ∧ bit (s.cfg 0x12 p 9) k = true then
          BitVec.ofNat 32 (sumOf (fun j => if bit din (first k + j) then 2 ^ (31 - j) else 0) (List.range bits)) else 0
      ∃ t, exec (.portFrame ⟨.tdm, p⟩ x) s = .next t ∧ (t.conv e).fifo = (s.conv e).fifo ++ [(List.range 16).map word] ∧
        (t.conv e).st = .sync ∧ (∀ f, f ≠ e → t.conv f = s.conv f) ∧ (t.port 0x12 p).st = .run ∧ (t.port 0x12 p).errRun = 0 ∧
        Quiet s t ∧ t.mem = s.mem) ∧
    (∀ f rest, isInEp e = false → (s.conv e).primed = true → (s.conv e).fifo = f :: rest → (s.port 0x12 p).txFifo = [] →
      let live (k : Nat) : Prop := k < s.cfg 0x12 p 6 ∧ bit (s.cfg 0x12 p 0xA) k = true
      ∃ t, exec (.portFrame ⟨.tdm, p⟩ x) s = .next t ∧ (t.conv e).fifo = rest ∧ (t.port 0x12 p).st = .run ∧
        (∀ k, k < 16 → (live k → ∃ v, Nearest (chan f k).toInt (32 - bits) v ∧
            nth none (t.port 0x12 p).pins k = some (BitVec.ofInt 32 (max (-(2 ^ (bits - 1))) (min v (2 ^ (bits - 1) - 1)) * 2 ^ (32 - bits)))) ∧
          (¬ live k → nth none (t.port 0x12 p).pins k = if s.cfg 0x12 p 0xB = 1 then none else some 0)) ∧
        Quiet s t ∧ t.mem = s.mem)

/-- Converters: lock after 144 T with a steady estimate, at the latest after 960 T with a valid input, posts ASRC_LOCK; a fill outside 2 T to 6 T
unlocks, counts and posts ASRC_UNLOCK; from the H5 in which a port becomes locked to CK_E, or is so no more, none of its converters is in the other
mode, the fill kept (03 R50, 07 R156, R157, R159). Gains: a pending step is taken at its crossing, or at its timeout with a count where there was none;
with LINK, once every pending channel of the endpoint has crossed. A peak hold ends (07 R163, R168). -/
def Obligations.ConvertersGainsMeters : Prop :=
  (∀ (e : Nat) (s : State), isConvEp e = true → (s.conv e).st = .acquire → (s.conv e).since.toNat + 144 ≤ s.time.tick.toNat →
    ((∃ a b c r, (s.conv e).marks = a :: b :: c :: r ∧ ((a : Int) - b).natAbs * 500000 < b ∧ ((b : Int) - c).natAbs * 500000 < c) ∨
      (s.conv e).since.toNat + 960 ≤ s.time.tick.toNat ∧ s.convValid e = true) → (0x20 ≤ e → s.convValid e = true) →
    ∃ t, exec (.asrcLock e) s = .next t ∧ t.conv e = { s.conv e with st := .track } ∧ Posts s t 0x34 (0x1300 + e % 256) ∧
      ∀ f, f ≠ e → t.conv f = s.conv f) ∧
  (∀ (e : Nat) (s : State), isConvEp e = true → e < 0x14 → (s.conv e).st = .track → (s.conv e).primed = true →
    s.fillU e < 2 * s.ratio e ∨ 6 * s.ratio e < s.fillU e →
    ∃ t, exec (.asrcUnlock e) s = .next t ∧ t.conv e = { s.conv e with st := .acquire } ∧ Posts s t 0x35 (0x1300 + e % 256) ∧
      t.count 0x13 e 2 = satAdd32 (s.count 0x13 e 2) 1 ∧ t.ports = s.ports ∧ ∀ f, f ≠ e → t.conv f = s.conv f) ∧
  (∀ (e : Nat) (s : State), isConvEp e = true → e < 0x14 → s.ticking = true → s.time.phase < 5 →
    let locked (u : State) : Bool := u.portLocked (portOfEp e).1 (portOfEp e).2
    (locked s = true ∧ ((s.conv e).st = .acquire ∨ (s.conv e).st = .track)) ∨ (locked s = false ∧ (s.conv e).st = .sync) →
    ∃ t, exec (.asrcModeSwitch e) s = .next t ∧ t.time.phase = 5 ∧ t.time.tick = s.time.tick ∧
      (locked t = true → (t.conv e).st ≠ .acquire ∧ (t.conv e).st ≠ .track) ∧ (locked t = false → (t.conv e).st ≠ .sync)) ∧
  (∀ (e : Nat) (s : State), ((s.convMode e).conv e).fifo = (s.conv e).fifo ∧ ((s.convMode e).conv e).pos = (s.conv e).pos ∧
    (∀ f, f ≠ e → (s.convMode e).conv f = s.conv f) ∧ (s.convMode e).host = s.host) ∧
  (∀ (e c : Nat) (s : State), unitOk 0x16 e = true → c < fixedCh e → (s.gainOf (64 * e + c)).zc = true →
    (s.gainOf (64 * e + c)).start.toNat ≤ s.time.tick.toNat →
    let late := (s.gainOf (64 * e + c)).start.toNat + s.cfg 0x16 e (c * 256 + 4) ≤ s.time.tick.toNat
    let steps (t : State) (k : Nat) : Prop := (t.gainOf (64 * e + k)).zc = false ∧ (t.gainOf (64 * e + k)).g0 = (s.gainOf (64 * e + k)).goal
    let others := ∀ k, k < fixedCh e → k ≠ c → (s.gainOf (64 * e + k)).zc = true → (s.gainOf (64 * e + k)).crossed = true
    (¬ late → s.cfg 0x16 e 0xFF01 = 0 → ∃ t, exec (.gainZcStep e c) s = .next t ∧ steps t c ∧ Quiet s t ∧ t.cnt = s.cnt) ∧
    (¬ late → s.cfg 0x16 e 0xFF01 ≠ 0 → others → ∃ t, exec (.gainZcStep e c) s = .next t ∧
      (∀ k, k < fixedCh e → (s.gainOf (64 * e + k)).zc = true → steps t k) ∧ Quiet s t ∧ t.cnt = s.cnt) ∧
    (¬ late → s.cfg 0x16 e 0xFF01 ≠ 0 → ¬ others → ∃ t, exec (.gainZcStep e c) s = .next t ∧
      t.gainOf (64 * e + c) = { s.gainOf (64 * e + c) with crossed := true } ∧ (∀ k, k ≠ 64 * e + c → t.gainOf k = s.gainOf k) ∧ t.cnt = s.cnt) ∧
    (late → s.cfg 0x16 e 0xFF01 = 0 → ∃ t, exec (.zcTimeout e c) s = .next t ∧ steps t c ∧ Quiet s t ∧
      t.count 0x16 e c = (if (s.gainOf (64 * e + c)).crossed then s.count 0x16 e c else satAdd32 (s.count 0x16 e c) 1)) ∧
    (late → s.cfg 0x16 e 0xFF01 = 1 → ∃ t, exec (.zcTimeout e c) s = .next t ∧ Quiet s t ∧
      ∀ k, k < fixedCh e → (s.gainOf (64 * e + k)).zc = true → steps t k)) ∧
  (∀ (k : Nat) (s : State), k < 512 → (s.meter k).hold = true → (s.meter k).holdEnd.toNat ≤ s.time.tick.toNat →
    ∃ t, exec (.peakHoldExpiry k) s = .next t ∧ t.meter k = { s.meter k with hold := false } ∧ (∀ j, j ≠ k → t.meter j = s.meter j) ∧ Quiet s t)

/-! ### Rings, completions, vectors -/

/-- The completion of a request: 16 bytes at the next slot of its completion ring (STATUS, OPCODE, TAG, REASON, SQ, PHASE, SQ_HEAD, two
zero bytes, RESULT), its slot reservation returned, the index moved on with PHASE inverted at the wrap, and the request gone. The record of a
sweep: a head or tail at or beyond the size stops its ring with RING_ERR, a head within what was written is taken, one beyond it stops the
ring; a tail never fetches more descriptors than free completion slots (04 R79, R80, R86, At the edges). -/
def Obligations.CompletionsAndIndexes : Prop :=
  (∀ (s : State) (g : Nat) (q : Req) (o : Outc), (s.ring g).reqs = [q] → q.ended = none →
    bit q.desc.flags.toNat 0 = false → s.standalone = false → s.pcieUp = true →
    let c := s.cqOf g
    let r := s.ring c
    c ≠ g → r.live = true → r.isCq = true → r.irqEn = false → s.inWindow (c / 8) (r.start + 16 * r.idx) 16 true = true →
    let t := s.finish g q.id o
    let entry : List Byte := [o.status, q.desc.opcode, q.desc.tag.setWidth 8, (q.desc.tag >>> 8).setWidth 8, o.reason.setWidth 8,
      (o.reason >>> 8).setWidth 8, BitVec.ofNat 8 g, if r.phase then 1 else 0, BitVec.ofNat 8 (s.ring g).idx,
      BitVec.ofNat 8 ((s.ring g).idx / 256), 0, 0, o.result.setWidth 8, (o.result >>> 8).setWidth 8, (o.result >>> 16).setWidth 8,
      (o.result >>> 24).setWidth 8]
    (∀ i, i < 16 → byteAt t.hostMem (r.start + 16 * r.idx + i) = nth 0 entry i) ∧
    (∀ a, a < r.start + 16 * r.idx ∨ r.start + 16 * r.idx + 16 ≤ a → byteAt t.hostMem a = byteAt s.hostMem a) ∧
    (t.ring g).reqs = [] ∧ (t.ring c).resv = r.resv - 1 ∧ (t.ring c).idx = (r.idx + 1) % r.size ∧
    (t.ring c).phase = (if (r.idx + 1) % r.size = 0 then !r.phase else r.phase) ∧ t.mem = s.mem ∧ t.host.posted = s.host.posted) ∧
  (∀ (s : State) (g v : Nat), (s.ring g).live = true → (s.ring g).size ≤ v → ((s.takeHead g v).ring g).err = true ∧
    (g / 8 = 0 → Posts s (s.takeHead g v) 0x10 g) ∧ (∀ j, j ≠ g → (s.takeHead g v).ring j = s.ring j)) ∧
  (∀ (s : State) (g v : Nat), (s.ring g).live = true → (s.ring g).isCq = true → v < (s.ring g).size →
    (v + (s.ring g).size - (s.ring g).head) % (s.ring g).size ≤ (s.ring g).used →
    (s.takeHead g v).ring g = { s.ring g with head := v } ∧ Quiet s (s.takeHead g v)) ∧
  (∀ (s : State) (g v : Nat), (s.ring g).live = true → (s.ring g).isCq = true → v < (s.ring g).size →
    (s.ring g).used < (v + (s.ring g).size - (s.ring g).head) % (s.ring g).size → ((s.takeHead g v).ring g).err = true) ∧
  (∀ (s : State) (g tail : Nat), s.fetchCount g tail ≤ (s.ring (s.cqOf g)).free ∧
    ((s.ring g).role = 0 → s.fetchCount g tail ≤ 64 - (s.ring g).reqs.length) ∧
    (s.fetchCount g tail ≠ 0 → (s.ring g).live = true ∧ (s.ring (s.cqOf g)).live = true ∧ (s.ring (s.cqOf g)).isCq = true))

/-- Sweeps. One served function with one submission ring and its completion ring: the record gives the head and the tail, the head is taken, and the
ring fetches what lies between its index and the tail, as far as its limit of 64 and the free completion slots let it; the index, the serial numbers
and the counter move on by that many. A run of slots that is read is appended in order, each slot copied whole. A sweep whose records cannot all be
read goes on with the next one: no request is fetched and no memory changes. A FENCE descriptor goes out when all before it have ended, with the epoch
of its unit, and not before (04 R74, R75, R77, R80, R86, R97, 17 R422). -/
def Obligations.SweepAndFences : Prop :=
  (∀ (f a b : Nat) (s : State), s.sweepDue = true → f < 16 → a < 8 → b < 8 → a ≠ b →
    (∀ g, (s.ring g).want = false) → (∀ k, k < 16 → ((s.fnOf k).enable = true ↔ k = f)) → s.fnExists f = true → (s.fnOf f).lost = 0 →
    let A := 8 * f + a
    let B := 8 * f + b
    let r := s.ring A
    let c := s.ring B
    let db := (s.fnOf f).db.toNat / 64 * 64
    let tail := leNat (sub (s.dmaBytes db 64) (4 * a) 2)
    let head := leNat (sub (s.dmaBytes db 64) (4 * b) 2)
    (∀ k, k < 8 → ((s.ring (8 * f + k)).live = true ↔ k = a ∨ k = b)) → r.isCq = false → c.isCq = true → r.cq = b → r.role = 0 →
    MayRead s f db 64 → tail < r.size → head < c.size → (head + c.size - c.head) % c.size ≤ c.used →
    let n := min (min ((tail + r.size - r.idx) % r.size) (64 - r.reqs.length)) (c.size - 1 - (c.idx + c.size - head) % c.size - c.resv)
    ∃ t, exec (.sweep {}) s = .next t ∧ (t.ring A).idx = (r.idx + n) % r.size ∧ (t.ring A).nextId = r.nextId + n ∧ (t.ring B).head = head ∧
      t.count 0x50 f (4 * a) = satAdd32 (s.count 0x50 f (4 * a)) n ∧ t.time.tick = s.time.tick) ∧
  (∀ (s : State) (g n : Nat), 0 < n → s.cqOf g ≠ g → MayRead s (g / 8) ((s.ring g).start + 32 * (s.ring g).idx) (32 * n) →
    ((s.fetchRun {} g n).ring g).reqs = (s.ring g).reqs ++ (List.range n).map fun i =>
      { id := (s.ring g).nextId + i, desc := descOf (sub (s.dmaBytes ((s.ring g).start + 32 * (s.ring g).idx) (32 * n)) (32 * i) 32) }) ∧
  (∀ (env : SweepEnv) (s : State), (∀ f, f < 16 → f ∈ env.unread) → ∃ t : State, exec (.sweep env) s = .next t ∧
    (∀ g, (t.ring g).reqs = (s.ring g).reqs) ∧ t.mem = s.mem ∧ t.hostMem = s.hostMem ∧ t.host.posted = s.host.posted) ∧
  (∀ (ring : Nat) (s : State) (q : Req) (u : Nat × Nat), (s.ring ring).reqs = [q] → q.live = false → q.ended = none →
    target (ring / 8) q.desc = some u → s.offline u.1 u.2 = false → q.desc.opcode ≠ 2 → q.desc.opcode ≠ 0x30 →
    exec (.fenceRelease ring) s = .next (s.putRing ring { s.ring ring with reqs := [{ q with live := true, epoch := (s.unitOf u.1 u.2).epoch }] })) ∧
  (∀ (ring : Nat) (s : State) (q : Req), (s.ring ring).reqs = [q] → q.live = false → q.ended = none → target (ring / 8) q.desc = none →
    exec (.fenceRelease ring) s = .next (s.putRing ring { s.ring ring with reqs := [{ q with live := true }] })) ∧
  (∀ (ring : Nat) (s : State) (p q : Req), (s.ring ring).reqs = [p, q] → p.live = true → p.ended = none → p.id ≠ q.id → q.live = false →
    q.desc.fence = true → q.ended = none → exec (.fenceRelease ring) s = .next s)

/-- A vector whose condition is met, or whose message is held and is masked no more: in host mode its message goes out when unmasked, little-endian,
and waits in the PBA when masked, by its own bit, by Function Mask or with MSI-X not enabled; in standalone mode the message source of the PLIC is
pending (04 R84, 11 R277). -/
def Obligations.VectorMessages : Prop :=
  ∀ (fn vec : Nat) (s : State), fn < 16 → vec < 16 → s.engineOn = true →
    let k := 16 * fn + vec
    let c := (tget 0 s.pcie.cfg (4096 * fn + 0x50)).toNat
    let masked := (s.vec k).ctl.toNat % 2 = 1 ∨ bit c 30 = true ∨ bit c 31 = false
    let ready := s.vecReady fn vec = true
    (ready → s.standalone = true → exec (.vectorMessage fn vec) s = .next ((s.putVec k { s.vec k with n := 0 }).plicSet (64 + k))) ∧
    (ready → s.standalone = false → masked →
      exec (.vectorMessage fn vec) s = .next (s.putVec k { s.vec k with n := 0, pba := true })) ∧
    (ready ∨ (s.vec k).pba = true → s.standalone = false → ¬ masked → s.pcieMem = true → ∃ t : State, exec (.vectorMessage fn vec) s = .next t ∧
      t.vec k = { s.vec k with n := 0, pba := false } ∧
      (∀ i, i < 4 → byteAt t.hostMem ((s.vec k).addr.toNat + i) = BitVec.ofNat 8 ((s.vec k).data.toNat / 256 ^ i % 256)) ∧
      (∀ a, a < (s.vec k).addr.toNat ∨ (s.vec k).addr.toNat + 4 ≤ a → byteAt t.hostMem a = byteAt s.hostMem a) ∧ t.mem = s.mem)

/-- Descriptors. NOP completes with TICK[31:0]; AUDIO_IN posts its buffer; AUDIO_OUT is copied into a free buffer of its staging bank, or ends ACCESS,
DMA; a captured block is read from its bank, what was not captured of it 0, written, and completes with its tick, UNDERRUN with the gap when blocks were
lost; STATS_SNAP writes the counters of a unit and, for function 0, clears them; METER_SNAP writes meters and completes with the tick of the block; a
read that times out completes ACCESS, DMA: a SEP_STEP's host step is left with nothing, a frame leaves its port, and a pending COMMIT ends so in its
turn (04 R78, R88, R89, R92, R95, 07 R169, 10 R248, 19 R458). -/
def Obligations.RingDescriptors : Prop :=
  (∀ (ring : Nat) (s : State) (q : Req), (s.ring ring).oldest 1 = some q →
    exec (.nop ring) s = .next (s.finish ring q.id { status := 0, reason := 0, result := s.time.tick.setWidth 32 })) ∧
  (∀ (ring : Nat) (s : State) (q : Req), (s.ring ring).oldest 0x10 = some q → ∃ t : State, exec (.audioIn ring) s = .next t ∧
    (t.haudio ring).posted = (s.haudio ring).posted ++ [q.id] ∧ t.mem = s.mem ∧ t.hostMem = s.hostMem) ∧
  (∀ (ring : Nat) (s : State) (q : Req), (s.ring ring).oldest 0x11 = some q → MayRead s (ring / 8) q.desc.addrN q.desc.argN →
    let buf := { s.freeBuf ring with id := q.id }
    0x40000000 ≤ buf.addr → buf.addr + q.desc.argN ≤ 0x41000000 → s.refusal 4 buf.addr true = none →
    ∃ t : State, exec (.audioOut ring true) s = .next t ∧ (t.haudio ring).staged = (s.haudio ring).staged ++ [buf] ∧
      (∀ i, i < q.desc.argN → t.vatByte (buf.addr + i) = nth 0 (s.dmaBytes q.desc.addrN q.desc.argN) i) ∧
      SameBytes s t (buf.addr / 8 * 8) ((buf.addr + q.desc.argN + 7) / 8 * 8) ∧ t.hostMem = s.hostMem) ∧
  (∀ (ring : Nat) (s : State) (q : Req), (s.ring ring).oldest 0x11 = some q →
    exec (.audioOut ring false) s = .next (s.finish ring q.id { status := 5, reason := 5 })) ∧
  (∀ (ring : Nat) (s : State) (q : Req) (b : AudioBuf) (r : List AudioBuf), (s.haudio ring).written = b :: r →
    (s.ring ring).reqs.find? (fun q => q.id = b.id && q.ended.isNone) = some q → s.refusal 4 b.addr false = none →
    (∀ w ∈ vatWords b.addr b.len, s.vatDecode w = .ok) →
    let gone := 4 * b.ch * (48 - b.n)
    exec (.captureBlockWritten ring true) s = .next ((s.putHaudio ring { s.haudio ring with written := r }).finishWrite ring b.id q.desc.addrN
      (List.replicate gone 0 ++ (s.vatBytes b.addr b.len).drop gone) (if b.gap = 0 then { status := 0, result := b.tick.setWidth 32 }
        else { status := 10, reason := BitVec.ofNat 16 (min b.gap 0xFFFF), result := b.tick.setWidth 32 }))) ∧
  (∀ (ring n : Nat) (s : State) (q : Req), (s.ring ring).oldest 0x41 = some q → statLen (q.desc.argN % 256) (fld q.desc.argN 8 8) = some n →
    let c := q.desc.argN % 256
    let i := fld q.desc.argN 8 8
    MayWrite s (ring / 8) q.desc.addrN (4 * (n / 4)) →
    let w := written s q.desc.addrN ((List.range (n / 4)).flatMap fun k => leBytes 4 (s.count c i k).toNat)
    ∃ u : State, exec (.statsSnap ring) s = .next (u.finish ring q.id { status := 0, result := BitVec.ofNat 32 n }) ∧
      (ring / 8 ≠ 0 → u = w) ∧ (ring / 8 = 0 → (∀ k, k < n / 4 → u.count c i k = 0) ∧ u.setCnt w.cnt = w)) ∧
  (∀ (ring : Nat) (s : State) (q : Req), (s.ring ring).oldest 0x40 = some q →
    let first := q.desc.argN % 65536
    let n := q.desc.argN / 65536
    MayWrite s (ring / 8) q.desc.addrN (8 * n) →
    let w := written s q.desc.addrN ((List.range n).flatMap fun k => let m := s.meter (first + k)
      leBytes 4 m.peak.toNat ++ leBytes 2 m.level.toNat ++ [(if m.clip then 1 else 0) + (if m.hold then 2 else 0), 0])
    ∃ u : State, exec (.meterSnap ring) s = .next (u.finish ring q.id { status := 0, result := s.audio.meterTick.setWidth 32 }) ∧
      u.setAudio w.audio = w ∧ (∀ k, u.meter k = s.meter k ∨ u.meter k = { s.meter k with clip := false }) ∧
      (ring / 8 = 0 → ∀ k, k < n → (u.meter (first + k)).clip = false)) ∧
  (∀ (ring : Nat) (s : State) (q : Req), (s.ring ring).reqs.find? (fun x => x.id = q.id && s.reading ring x) = some q → s.hostMode = true →
    bit (tget 0 s.pcie.cfg 0x88).toNat 4 = false →
    let t := exec (.dmaTimeout ring q.id) s
    (s.txPlace ring q.id = none → q.taken = false → q.desc.op ≠ 0x30 → t = .next (s.finish ring q.id { status := 5, reason := 5 })) ∧
    (s.txPlace ring q.id = none → q.taken = false → q.desc.op = 0x30 → ∃ u : State, t = .next (u.finish ring q.id { status := 5, reason := 5 }) ∧
      (∀ x ∈ (u.model q.desc.model).nxt, x.fed ≠ some (ring, q.id)) ∧ u.setSep s.sep = s) ∧
    (s.txPlace ring q.id = none → q.taken = true → ∃ u : State, t = .next u ∧ u.host = s.host ∧
      ∀ c ∈ u.cmt.queue, c.fn.isSome = true → c.ring = ring → c.id = q.id → c.fetching = false) ∧
    (∀ c p started, s.txPlace ring q.id = some (c, p, started) → ∃ u : State, t = .next (u.finish ring q.id { status := 5, reason := 5 }) ∧
      (started = true → (u.tx c p).cur = none) ∧ (started = false → ∀ k, ∀ e ∈ tget [] (u.tx c p).queues k, e.ring ≠ ring ∨ e.id ≠ q.id)))

/-! ### The phases of a tick -/

/-- The events inside a tick run it up to their phase and leave TICK as it is: the block flip in the last tick of a block, the staging flip
in the last tick of a hop, the snapshot of CHURN_PEEK, the swap of a commit due at the next tick; stopping CK_E completes the tick and
leaves domain 19 off (02 R21, R22, R26, R39, 17 R426; the phases are the model's, log 6). -/
def Obligations.TickPhases : Prop :=
  (∀ s : State, s.ticking = true → s.time.tick.toNat % 48 = 47 → s.time.phase < 2 → ∃ t : State, exec .blockFlip s = .next t ∧ t.time.phase = 2 ∧
    t.time.tick = s.time.tick) ∧
  (∀ s : State, s.ticking = true → s.time.phase < 5 → ((s.advance {} 5).time.tick.toNat + 1) % (s.advance {} 5).hop = 0 →
    ∃ t : State, exec .stagingFlip s = .next t ∧ t.time.phase = 6 ∧ t.time.tick = s.time.tick) ∧
  (∀ s : State, s.ticking = true → s.time.phase = 5 → (s.time.tick.toNat + 1) % s.hop = 0 →
    ∃ t : State, exec .stagingFlip s = .next t ∧ t.time.phase = 6 ∧ t.time.tick = s.time.tick) ∧
  (∀ (pu : BitVec 3) (s : State) (r : TestRun), s.ticking = true → s.time.phase = 0 → s.running 5 pu.toNat = some r →
    r.start.toNat < s.time.tick.toNat → ∃ t : State, exec (.churnPeekSnapshot pu) s = .next t ∧ t.time.phase = 1 ∧ t.time.tick = s.time.tick) ∧
  (∀ (c : Commit) (r : List Commit) (s : State), s.ticking = true → s.time.phase < 4 → s.cmt.queue = c :: r → c.checked.isSome = true →
    c.recheck = false → c.applyAt.toNat ≤ s.time.tick.toNat + 1 → ∃ t : State, exec .commitApply s = .next t ∧ t.time.phase = 5 ∧
      t.time.tick = s.time.tick) ∧
  (∀ s : State, s.ticking = true → s.entryDone = true → (s.advance {} 5).entryDone = true → ∃ t : State, exec .ckeStop s = .next t ∧
    t.domSt 19 = .off ∧ t.time.tick = s.time.tick + 1) ∧
  (∀ s : State, s.ticking = true → s.time.phase = 5 → s.pwr.entry = true → s.clk.offset48 = 0 → (∀ d, d < 6 → s.domOn d = false) →
    ∃ t : State, exec .ckeStop s = .next t ∧ t.domSt 19 = .off ∧ t.time.tick = s.time.tick + 1)

/-! ### Commits -/

/-- COMMIT. At its dispatch: with the commit unit off UNIT_DOWN, under a token already applied DUPLICATE with its tick, under a token pending it
waits, a fifth pending commit QUEUE, a bad length BLOCK; else it is queued last, to be fetched. Then its block is fetched, with its NOT_AFTER and
tuples, and its inline blobs into the lowest free pages of the blob store; a read that fails is kept for its check (04 R90, R92, 05 R103, R105,
R107, C1, C2). -/
def Obligations.CommitArrives : Prop :=
  (∀ (ring : Nat) (s : State) (q : Req), (s.ring ring).reqs = [q] → q.desc.opcode = 2 → q.live = false → q.ended = none → s.offline 1 0 = false →
    let f := ring / 8
    let s1 := s.putRing ring { s.ring ring with reqs := [{ q with live := true, epoch := (s.unitOf 1 0).epoch }] }
    let fresh := (s.fnOf f).tokens.find? (fun x => x.1 = q.desc.arg2) = none ∧
      (q.desc.arg2 = 0 ∨ s.cmt.queue.any (fun c => c.fn == some f && c.token == q.desc.arg2) = false)
    let four := 4 ≤ (s.cmt.queue.filter fun c => c.fn.isSome).length
    let lenOk := 32 ≤ q.desc.argN ∧ q.desc.argN ≤ 66336
    (s.domOn 19 = false → exec (.fenceRelease ring) s = .next (s1.finish ring q.id { status := 11, reason := 0x0100 })) ∧
    (∀ x, s.domOn 19 = true → (s.fnOf f).tokens.find? (fun x => x.1 = q.desc.arg2) = some x →
      exec (.fenceRelease ring) s = .next (s1.finish ring q.id { status := 1, result := BitVec.ofNat 32 x.2.toNat })) ∧
    (s.domOn 19 = true → (s.fnOf f).tokens.find? (fun x => x.1 = q.desc.arg2) = none → q.desc.arg2 ≠ 0 →
      s.cmt.queue.any (fun c => c.fn == some f && c.token == q.desc.arg2) = true → ∃ t : State, exec (.fenceRelease ring) s = .next t ∧
        t.cmt.queue = s.cmt.queue ∧ t.cmt.tokWait = s.cmt.tokWait ++ [{ fn := f, token := q.desc.arg2, ring := ring, id := q.id }]) ∧
    (s.domOn 19 = true → fresh → four → exec (.fenceRelease ring) s = .next (s1.finish ring q.id { status := 2, reason := 1, result := 0xFFFFFFFF })) ∧
    (s.domOn 19 = true → fresh → ¬ four → ¬ lenOk →
      exec (.fenceRelease ring) s = .next (s1.finish ring q.id { status := 2, reason := 2, result := 0xFFFFFFFF })) ∧
    (s.domOn 19 = true → fresh → ¬ four → lenOk → ∃ t c, exec (.fenceRelease ring) s = .next t ∧
      t.cmt.queue = s.cmt.queue ++ [c] ∧ c.fn = some f ∧ c.ring = ring ∧ c.id = q.id ∧ c.token = q.desc.arg2 ∧ c.target = q.desc.arg3 ∧
      c.len = q.desc.argN ∧ c.fetching = true ∧ c.checked = none ∧ c.loading = false ∧ t.cmt.cfg = s.cmt.cfg)) ∧
  (∀ (ring : Nat) (s : State) (q : Req) (c : Commit) (r : List Commit), s.domOn 19 = true → s.cmt.queue = c :: r → c.fn.isSome = true → c.ring = ring →
    c.fetching = true → (s.ring ring).reqs.find? (fun q => q.id = c.id) = some q → (∀ x ∈ r, x.isReq ring c.id = false) →
    let b := s.dmaBytes q.desc.addrN c.len
    let nBlobs := leNat (sub b 6 2)
    let nTuples := leNat (sub b 8 4)
    (∀ w : Bool, exec (.commit ring ⟨false, w⟩) s = .next (s.putQueue ({ c with fetching := false, fetchErr := some 5 } :: r))) ∧
    (MayRead s (ring / 8) q.desc.addrN c.len → leNat (sub b 0 4) = 0xC0A17160 → leNat (sub b 4 1) = 1 → nBlobs = 0 → nTuples ≤ 8192 →
      c.len = 32 + 8 * nTuples →
      ∀ w : Bool, exec (.commit ring ⟨true, w⟩) s = .next (s.putQueue ({ c with fetching := false, cells := w, raw := b, notAfter := BitVec.ofNat 64 (leNat (sub b 0x10 8)), tuples := (List.range nTuples).map (fun i => (leNat (sub b (32 + 8 * i) 4), BitVec.ofNat 32 (leNat (sub b (36 + 8 * i) 4)))), blobs := [], slots := [] } :: r))) ∧
    (∀ ps, s.standalone = false → MayRead s (ring / 8) q.desc.addrN c.len → leNat (sub b 0 4) = 0xC0A17160 → leNat (sub b 4 1) = 1 → nBlobs = 1 →
      nTuples ≤ 8192 → c.len = 56 + 8 * nTuples →
      let id := leNat (sub b 32 4)
      let n := leNat (sub b 36 4)
      let a := leNat (sub b 40 8)
      16 ≤ n → n ≤ 16777232 → s.allocPages (pagesOf n) = some ps → MayRead s (ring / 8) a n → (∀ k ∈ ps, PageOpen s true k) →
      ∀ w : Bool, ∃ t c1, exec (.commit ring ⟨true, w⟩) s = .next t ∧ c1.cells = w ∧ t.cmt.queue = c1 :: r ∧ c1.fetching = false ∧ c1.fetchErr = c.fetchErr ∧ c1.raw = b ∧
        c1.blobs = [(id, memBytes s.hostMem a n)] ∧ c1.slots = [some ps] ∧ c1.pages = c.pages ++ ps ∧ t.cmt.held = s.cmt.held))

/-- The commit unit. The check ends the oldest commit not yet checked: with what its fetch had failed with, or with the outcome of C3 to C8 that fails
first, or LATE, and out of the queue; one that passes has its apply tick, at least two ticks ahead and after every commit in front of it, a multiple
of its alignment, and the head starts to load. A repeated check does C5, C7 and C8 again. Loading starts the power-ups of the domains and banks that
are needed; contents of an LPDDR5 store are read back when they come and are in shadow from the next H4 on; a poisoned page, or retention cells that
cannot be read, end the commit LOAD_FAULT. A commit gone leaves the active copies as they are (02 R26, 05 R107 to R109, R111). -/
def Obligations.CommitChecks : Prop :=
  let on (s : State) : Prop := s.domOn 19 = true ∧ s.time.ckeOff = false
  let after (s : State) (k : Nat) (c : Commit) : Proj := (s.projAt k).after s.cowActive c
  let appliesAt (s : State) (k : Nat) (c : Commit) : Nat := s.applyTick (s.projAt k) (after s k c) (s.prevA k) s.time.tick.toNat k c
  let inTime (s : State) (k : Nat) (c : Commit) : Prop := c.notAfter = 0 ∨ appliesAt s k c ≤ c.notAfter.toNat
  let passed (s : State) (k : Nat) (c : Commit) : State := s.putQueue (s.cmt.queue.set k
    { c with checked := some s.time.tick, applyAt := BitVec.ofNat 64 (appliesAt s k c), recheck := false, devRecheck := false })
  let late (s : State) (k : Nat) (c : Commit) : Outc := { status := 2, reason := 0x41, result := BitVec.ofNat 32 (appliesAt s k c % 2 ^ 32) }
  (∀ (s : State) (p r : List Commit) (c : Commit), on s → s.cmt.queue = p ++ c :: r → (∀ x ∈ p, x.checked.isSome = true ∧ x.recheck = false) →
    c.checked = none → c.fetching = false →
    let k := p.length
    let t := exec .commitCheck s
    (∀ e, c.fetchErr = some e → t = .next (s.failCommit c { status := 5, reason := BitVec.ofNat 16 e })) ∧
    (c.fetchErr = none →
      (∀ e, blockFail c.raw c.len = some e → t = .next (s.failCommit c { status := 2, reason := BitVec.ofNat 16 e, result := 0xFFFFFFFF })) ∧
      (blockFail c.raw c.len = none → s.c4 c = false → t = .next (s.failCommit c { status := 2, reason := 5, result := 0xFFFFFFFF })) ∧
      (∀ i e, blockFail c.raw c.len = none → s.c4 c = true → s.c5 (s.projAt k).m (c.fn.getD 0) c.tuples = some (i, e) →
        t = .next (s.failCommit c { status := 2, reason := BitVec.ofNat 16 e, result := BitVec.ofNat 32 i })) ∧
      (blockFail c.raw c.len = none → s.c4 c = true → s.c5 (s.projAt k).m (c.fn.getD 0) c.tuples = none →
        (∀ o, s.c6 c = .error o → t = .next (s.failCommit c o)) ∧
        (∀ c1, s.c6 c = .ok c1 →
          (∀ o, s.c78 (s.projAt k) (after s k c1) c1 = some o → t = .next (s.failCommit c o)) ∧
          (s.c78 (s.projAt k) (after s k c1) c1 = none →
            (¬ inTime s k c1 → t = .next (s.failCommit c1 (late s k c1))) ∧
            (inTime s k c1 → 0 < k → t = .next (passed s k c1)) ∧
            (inTime s k c1 → k = 0 → t = .next (passed s k c1).startLoad)))))) ∧
  (∀ (s : State) (x0 x1 : Proj) (prev n k : Nat) (c : Commit), n + 2 ≤ s.applyTick x0 x1 prev n k c ∧ prev < s.applyTick x0 x1 prev n k c ∧
    c.target.toNat ≤ s.applyTick x0 x1 prev n k c ∧ (0 < s.alignAt k x0 x1 c → s.applyTick x0 x1 prev n k c % s.alignAt k x0 x1 c = 0)) ∧
  (∀ (s : State) (p r : List Commit) (c : Commit), on s → s.stopComing = false → s.cmt.queue = p ++ c :: r → (∀ x ∈ p, x.recheck = false) →
    (∀ x ∈ r, x.recheck = false) → c.recheck = true →
    let k := p.length
    let t := exec .commitRecheck s
    (∀ i e, s.c5 (s.projAt k).m (c.fn.getD 0) c.tuples = some (i, e) → t = .next ((s.failCommit c
      { status := 2, reason := BitVec.ofNat 16 e, result := BitVec.ofNat 32 i }).recheckAll (k + r.length))) ∧
    (s.c5 (s.projAt k).m (c.fn.getD 0) c.tuples = none → s.c78 (s.projAt k) (after s k c) c = none → inTime s k c →
      (0 < k → t = .next (passed s k c)) ∧ (k = 0 → t = .next ((passed s k c).startLoad.recheckAll r.length)))) ∧
  (∀ (s : State), s.cmt.queue = [] → exec .commitCheck s = .next s ∧ exec .commitLoad s = .next s ∧ exec .commitRecheck s = .next s) ∧
  (∀ (s : State) (c : Commit) (r : List Commit), on s → s.cmt.queue = c :: r → c.loading = false → c.checked.isSome = true → c.recheck = false →
    c.resolved ≠ [] → s.storeDdr = true → s.vat.march.busy = false → ∃ t : State, exec .commitLoad s = .next t ∧
      (∃ c1, t.cmt.queue = c1 :: r ∧ c1.loading = true ∧ c1.loadedAt = c.loadedAt ∧ c1.doms = s.neededDoms s.applied (s.applied.after s.cowActive c) c ∧
        ∀ b ∈ s.neededBanks (s.applied.after s.cowActive c), b ∈ c1.banks) ∧ t.cmt.cfg = s.cmt.cfg ∧ t.time = s.time) ∧
  (∀ (s : State) (c : Commit) (r : List Commit), on s → s.cmt.queue = c :: r → c.loading = true → c.loadedAt = none → c.cells = true →
    s.storeDdr = true → (∀ x ∈ c.resolved, ∀ k ∈ tget [] c.refs x.1, PageOpen s false k ∧ s.poisonedIn (s.pageAddr k) 4096 = false) →
    let c1 := { c with loadedAt := some (s.time.tick + 1), resolved := c.resolved.map fun x => (x.1, stored s x.2.length (tget [] c.refs x.1)) }
    exec .commitLoad s = .next ((s.putQueue (c1 :: r)).loadShadow c1).loadDue) ∧
  (∀ (s : State) (c : Commit) (r : List Commit) (id k : Nat) (b : List Byte), on s → s.cmt.queue = c :: r → c.loading = true → c.loadedAt = none →
    s.storeDdr = true → c.resolved = [(id, b)] → tget [] c.refs id = [k] → PageOpen s false k → s.poisonedIn (s.pageAddr k) (min 4096 b.length) = true →
    exec .commitLoad s = .next (s.failCommit c { status := 2, reason := 0x42, result := 0xFFFFFFFF })) ∧
  (∀ (s : State) (c : Commit) (r : List Commit), on s → s.cmt.queue = c :: r → c.loading = true → c.loadedAt = none → s.storeDdr = true →
    (∀ x ∈ c.resolved, ∀ k ∈ tget [] c.refs x.1, PageOpen s false k) → c.cells = false →
    exec .commitLoad s = .next (s.failCommit c { status := 2, reason := 0x42, result := 0xFFFFFFFF })) ∧
  (∀ (s : State) (c : Commit) (o : Outc), (∀ x ∈ (s.failCommit c o).cmt.queue, x.isReq c.ring c.id = false) ∧
    (s.failCommit c o).cmt.cfg = s.cmt.cfg ∧ (s.failCommit c o).cmt.gen = s.cmt.gen)

/-- Quiesce and disagreement: at tick A - 5 a commit's units refuse new requests; after more than 8 T of intent up and condition down DIVERGE
is posted once, after more than 8 T of agreement, or when the intent goes down, CONVERGE. From the fourth tick after step 1 every request outstanding at the
unit ends; the end of its quiesce advances the epoch and counts; a reply under another epoch changes nothing but EPOCH_DROP (05 R118, 17 R422,
R423, R424). -/
def Obligations.QuiesceAndDisagreement : Prop :=
  (∀ (s : State), s.domOn 19 = true → s.time.ckeOff = false → s.time.started = true → s.time.phase ≤ 3 →
    (∀ c ∈ s.cmt.queue, c.applyAt.toNat ≠ s.time.tick.toNat + 5) → exec .quiesceStart s = .next s) ∧
  (∀ (s : State) (c : Commit), s.domOn 19 = true → s.time.ckeOff = false → s.time.started = true → s.time.phase ≤ 3 →
    s.cmt.queue = [c] → c.checked.isSome = true → c.recheck = false → c.quiesce = none → c.applyAt.toNat = s.time.tick.toNat + 5 →
    let us := s.quiesceUnits (s.projAt 0) ((s.projAt 0).after s.cowActive c) c
    us ≠ [] → ∃ t : State, exec .quiesceStart s = .next t ∧ (∀ u ∈ us, t.offline u.1 u.2 = true) ∧
      t.cmt.queue = [{ c with quiesce := some s.time.tick }] ∧ t.host = s.host) ∧
  (∀ (c i : Nat) (s : State), unitOk c i = true → s.disagrees c i = true → 8 ≤ (s.unitOf c i).downT → (s.unitOf c i).div = false →
    ∃ t : State, exec (.diverge c i) s = .next t ∧ (t.unitOf c i).div = true ∧ Posts s t 2 (c * 256 + i % 256) ∧
      ∀ k, k ≠ c * 256 + i → tget {} t.units k = tget {} s.units k) ∧
  (∀ (c i : Nat) (s : State), (s.unitOf c i).div = true →
    ((s.intent c i = false ∧ (s.time.phase < 4 ∨ s.cmt.lastA.toNat ≤ s.time.tick.toNat)) ∨
      (s.intent c i = true ∧ s.cond c i = true ∧ 8 ≤ (s.unitOf c i).upT)) →
    ∃ t : State, exec (.converge c i) s = .next t ∧ (t.unitOf c i).div = false ∧ Posts s t 3 (c * 256 + i % 256)) ∧
  (∀ (c i : Nat) (s : State) (t : BitVec 64), (s.unitOf c i).offline = some t → t.toNat + 4 ≤ s.time.tick.toNat →
    exec (.quiesceAbort c i) s = .next (s.abortUnit c i)) ∧
  (∀ (c i : Nat) (s : State) (t : BitVec 64), (s.unitOf c i).offline = some t → s.time.tick.toNat < t.toNat + 4 →
    exec (.quiesceAbort c i) s = .next s) ∧
  (∀ (c i : Nat) (s : State), ((s.endQuiesce c i).unitOf c i).offline = none ∧
    ((s.endQuiesce c i).unitOf c i).epoch = (s.unitOf c i).epoch + 1 ∧
    (s.endQuiesce c i).count 1 0 2 = satAdd32 (s.count 1 0 2) 1) ∧
  (∀ (c i : Nat) (ep : BitVec 4) (s : State), unitOk c i = true → (s.unitOf c i).epoch ≠ ep → ∃ t : State, exec (.requestReply c i ep) s = .next t ∧
    t.count 1 0 1 = satAdd32 (s.count 1 0 1) 1 ∧ t.setCnt s.cnt = s) ∧
  (∀ (c i : Nat) (s : State), exec (.requestReply c i (s.unitOf c i).epoch) s = .next s)

/-- BLOB_LOAD. It begins: pinned by a pending commit IN USE, length 0 frees the held blob, no space or a 65th blob BLOB_SPACE, a length no blob has
BLOB_FORMAT, else the blob is fetched into the lowest free pages; it ends: BLOB_FORMAT and BLOB_CRC, and the blob is held under its BLOB_ID in place of
the one before. QUERY answers setting by setting, in place, and stops at the first that cannot be read; a read that fails ends it ACCESS, DMA (05
R105, R110, R115, 04 R78, R95). -/
def Obligations.BlobLoadAndQuery : Prop :=
  (∀ (ring : Nat) (ok : Bool) (s : State) (q : Req), s.cmt.loads.find? (fun l => l.ring = ring) = none → (s.ring ring).oldest 4 = some q →
    let f := ring / 8
    let id := q.desc.arg2N % 2 ^ 32
    let n := q.desc.argN
    let full := ((s.heldBlob f id).isNone = true ∧ 64 ≤ s.cmt.held.length + s.cmt.loads.length) ∨ s.allocPages (pagesOf n) = none
    let t := exec (.blobLoad ring ok) s
    (s.domOn 19 = false → t = .next (s.finish ring q.id { status := 11, reason := 0x0100 })) ∧
    (s.domOn 19 = true → id ≠ 0 → s.pinned f id = true → t = .next (s.finish ring q.id { status := 2, reason := 0x25, result := 0xFFFFFFFF })) ∧
    (s.domOn 19 = true → id ≠ 0 → s.pinned f id = false → n = 0 → ∃ u : State,
      t = .next (u.finish ring q.id { status := 0, result := BitVec.ofNat 32 id }) ∧
      u.heldBlob f id = none ∧ (∀ g k, (g, k) ≠ (f, id) → u.heldBlob g k = s.heldBlob g k)) ∧
    (s.domOn 19 = true → id ≠ 0 → s.pinned f id = false → n ≠ 0 → full →
      t = .next (s.finish ring q.id { status := 2, reason := 0x20, result := 0xFFFFFFFF })) ∧
    (s.domOn 19 = true → id ≠ 0 → s.pinned f id = false → n ≠ 0 → ¬ full → n < 16 ∨ 16777232 < n →
      t = .next (s.finish ring q.id { status := 2, reason := 0x21, result := 0xFFFFFFFF })) ∧
    (∀ ps, ok = true → s.domOn 19 = true → id ≠ 0 → s.pinned f id = false → ¬ full → 16 ≤ n → n ≤ 16777232 → s.allocPages (pagesOf n) = some ps →
      MayRead s f q.desc.addrN n → (∀ k ∈ ps, PageOpen s true k) → ∃ u : State, t = .next u ∧
        u.cmt.loads = s.cmt.loads ++ [{ ring := ring, id := q.id, fn := f, blob := id, len := n, bytes := s.dmaBytes q.desc.addrN n, pages := ps }] ∧
        u.cmt.held = s.cmt.held ∧ u.cmt.queue = s.cmt.queue)) ∧
  (∀ (ring : Nat) (ok : Bool) (s : State) (l : BlobLoad), s.cmt.loads.find? (fun l => l.ring = ring) = some l →
    (∀ e, blobCheck l.bytes l.len = some e → ∃ u : State, exec (.blobLoad ring ok) s =
        .next (u.finish l.ring l.id { status := 2, reason := BitVec.ofNat 16 e, result := 0xFFFFFFFF }) ∧ u.cmt.held = s.cmt.held ∧ l ∉ u.cmt.loads) ∧
    (blobCheck l.bytes l.len = none → ∃ u : State, exec (.blobLoad ring ok) s =
        .next (u.finish l.ring l.id { status := 0, result := BitVec.ofNat 32 l.blob }) ∧ l ∉ u.cmt.loads ∧
      u.heldBlob l.fn l.blob = some { fn := l.fn, id := l.blob, bytes := l.bytes, pages := l.pages } ∧
      (∀ g k, (g, k) ≠ (l.fn, l.blob) → u.heldBlob g k = s.heldBlob g k))) ∧
  (∀ (ring : Nat) (s : State) (q : Req), (s.ring ring).oldest 3 = some q →
    let f := ring / 8
    let b := s.dmaBytes q.desc.addrN (8 * q.desc.len16)
    let entry (i : Nat) : Option Word := s.queryValue f (leNat (sub b (8 * i) 4))
    (s.domOn 19 = false → exec (.query ⟨ring, true⟩) s = .next (s.finish ring q.id { status := 11, reason := 0x0100 })) ∧
    (s.domOn 19 = true → exec (.query ⟨ring, false⟩) s = .next (s.finish ring q.id { status := 5, reason := 5 })) ∧
    (∀ m, s.domOn 19 = true → MayRead s f q.desc.addrN (8 * q.desc.len16) → m ≤ q.desc.len16 → (∀ i, i < m → (entry i).isSome = true) →
      (m < q.desc.len16 → entry m = none) →
      (m = 0 → exec (.query ⟨ring, true⟩) s = .next (s.finish ring q.id { status := 0, result := 0 })) ∧
      (0 < m → exec (.query ⟨ring, true⟩) s = .next (s.finishWrite ring q.id q.desc.addrN
        ((List.range m).flatMap fun i => sub b (8 * i) 4 ++ leBytes 4 ((entry i).getD 0).toNat) { status := 0, result := BitVec.ofNat 32 m }))))

/-! ### Network MACs -/

/-- The queue `q` of a Net port. -/
def Sys2Proof.Said.netQ (s : State) (p q : Nat) : List TxEnt := tget [] (s.net0 p).queues q

/-- The link manager: the link comes up in the highest mode that both sides advertise, or in the forced one, with PAUSE as the two sides resolve it
at full duplex; an absent PHY is noted and an RGMII link then goes down; a link seen down is down at speed 0; SGMII status gives link and speed;
after LINK_TRIES failed attempts the highest speed leaves the advertisement and NET_DOWNSHIFT is posted; an MDIO transaction holds BUSY until it
ends, and then raises source 4 (12 R299 to R301, R323). -/
def Obligations.NetLink : Prop :=
  (∀ (a b m : Nat), commonMode a b = some m → 1 ≤ m ∧ m ≤ 5 ∧ bit a (m - 1) = true ∧ bit b (m - 1) = true ∧
    ∀ k, m ≤ k → k < 5 → (bit a k && bit b k) = false) ∧
  (∀ (p : Nat) (reg1 reg5 reg10 : BitVec 16) (m : Nat) (s : State), s.netManaged p = true → s.cfg 0x40 p 2 = 0 → reg1 ≠ 0xFFFF →
    (s.cfg 0x40 p 4 = 1 → bit reg1.toNat 5 = true) → bit reg1.toNat 2 = true → (s.net0 p).link = false →
    commonMode (s.net0 p).adv.toNat (if s.cfg 0x40 p 4 = 1 then partnerAdv reg5 reg10 else (s.net0 p).adv.toNat) = some m →
    exec (.linkPoll p reg1 reg5 reg10) s = .next (s.putNet p { s.net0 p with phyAbsent := false, link := true, speed := m, pauseRx := fullDuplex m && (s.pauseNow p reg5).1, pauseTx := fullDuplex m && (s.pauseNow p reg5).2, upAt := some (BitVec.ofNat 64 (blockOf s.time.tick)) })) ∧
  (∀ (p : Nat) (reg5 reg10 : BitVec 16) (s : State), s.netManaged p = true → s.cfg 0x40 p 2 = 0 →
    ∃ t : State, exec (.linkPoll p 0xFFFF reg5 reg10) s = .next t ∧ (t.net0 p).phyAbsent = true ∧ (t.net0 p).link = false) ∧
  (∀ (p : Nat) (reg1 reg5 reg10 : BitVec 16) (s : State), s.netManaged p = true → s.cfg 0x40 p 2 = 0 → reg1 ≠ 0xFFFF →
    bit reg1.toNat 2 = false → (s.net0 p).link = true → ∃ t : State, exec (.linkPoll p reg1 reg5 reg10) s = .next t ∧
      (t.net0 p).link = false ∧ (t.net0 p).speed = 0 ∧ (t.net0 p).pauseLeft = 0) ∧
  (∀ (p : Nat) (speed : BitVec 2) (full : Bool) (s : State), s.netManaged p = true → s.cfg 0x40 p 2 = 1 → speed ≠ 3 → (s.net0 p).link = false →
    ∃ t : State, exec (.sgmiiStatus p true speed full) s = .next t ∧ (t.net0 p).link = true ∧
      (t.net0 p).speed = (if speed = 2 then 5 else if speed = 1 then (if full then 4 else 3) else if full then 2 else 1) ∧ Quiet s t) ∧
  (∀ (p : Nat) (s : State), s.netManaged p = true → 1 ≤ s.cfg 0x40 p 6 → s.cfg 0x40 p 6 ≤ (s.net0 p).fails →
    lowerAdv (s.net0 p).adv.toNat ≠ 0 → ∃ t : State, exec (.netDownshift p) s = .next t ∧
      (t.net0 p).adv = BitVec.ofNat 5 (lowerAdv (s.net0 p).adv.toNat) ∧ (t.net0 p).fails = 0 ∧ (t.net0 p).link = false ∧
      t.count 0x40 p 19 = satAdd32 (s.count 0x40 p 19) 1 ∧ ev 0x50 (0x4000 + p) ∈ t.host.posted) ∧
  (∀ (cmd : BitVec 32) (s : State), s.domOn 63 = true → s.net.mdio.busy = false → mdioRuns cmd.toNat = true →
    ∃ t : State, exec (.mdioGo cmd) s = .next t ∧ t.net.mdio.busy = true ∧ t.net.mdio.cmd = cmd &&& 0x1FFF ∧ t.setNet s.net = s) ∧
  (∀ (ack : Bool) (rdata : BitVec 16) (s : State), s.net.mdio.busy = true → ∃ t : State, exec (.mdioDone ack rdata) s = .next t ∧
    t.net.mdio.busy = false ∧ tget false t.cc.plic.pend 4 = true ∧
    t.net.mdio.data = (if mdioReads s.net.mdio.cmd.toNat then (if ack then rdata else 0xFFFF) else s.net.mdio.data) ∧ t.net.ports = s.net.ports)

/-- PAUSE and reception: a PAUSE frame sets the timer to QUANTA × 512 bit times and is consumed, the timer expires to 0, XOFF is sent
again while the fill stays; a clean frame that passes a filter waits in the receive buffer where a buffer of its function is free for it, counts NOBUF
where none is, and FILTERED where no filter takes it; a waiting frame goes into the first buffer of its function and completes with its length, flags
and filter; buffers are posted in order (12 R303 to R306, R310, R312). -/
def Obligations.NetReception : Prop :=
  (∀ (p : Nat) (fr : List Byte) (frac : BitVec 32) (soon : Bool) (s : State), s.portUp 0x40 p = true → typeOf fr = 0x8808 →
    s.isPause p fr (s.judge 0x40 p fr true) = true → (s.net0 p).pauseRx = true → fullDuplex (s.net0 p).speed = true →
    exec (.netRxFrame p fr ⟨true, soon⟩ frac) s = .next ((s.bump 0x40 p 8).putNet p { s.net0 p with pauseLeft := 512 * beNat (sub fr 16 2) })) ∧
  (∀ (p : Nat) (s : State), p < 2 → exec (.pauseExpiry p) s = .next (s.putNet p { s.net0 p with pauseLeft := 0 })) ∧
  (∀ (p : Nat) (s : State), s.portUp 0x40 p = true → (s.net0 p).pauseTx = true → (s.net0 p).pauseOut = true →
    s.cfg 0x40 p 0x10 ≤ (s.net0 p).rxFill → s.cfg 0x40 p 0xE ≠ 0 → (s.net0 p).pauseWait = [] → ∃ t b, exec (.pauseRefresh p) s = .next t ∧
      ((s.net0 p).cur = none → (t.net0 p).wire = (b ++ fcsOf b) :: (s.net0 p).wire ∧ (t.net0 p).pauseWait = [] ∧
        t.count 0x40 p 12 = satAdd32 (s.count 0x40 p 12) 1) ∧
      ((s.net0 p).cur ≠ none → (t.net0 p).wire = (s.net0 p).wire ∧ (t.net0 p).pauseWait = [b ++ fcsOf b] ∧ t.cnt = s.cnt) ∧ b.length = 60 ∧ b.take 6 = [1, 0x80, 0xC2, 0, 0, 1] ∧
      sub b 12 6 = [0x88, 8, 0, 1, BitVec.ofNat 8 (s.cfg 0x40 p 0xE / 256), BitVec.ofNat 8 (s.cfg 0x40 p 0xE)] ∧ (t.net0 p).pauseOut = true) ∧
  (∀ (p : Nat) (fr : List Byte) (frac : BitVec 32) (f k : Nat) (s : State), s.portUp 0x40 p = true → typeOf fr ≠ 0x8808 →
    (s.judge 0x40 p fr true).clean = true → s.filterOf 0x40 p (destOf fr) = some (f, k) → s.cfg 0x40 p 0x14 = 0 →
    (s.net0 p).listening = false → (s.net0 p).pauseTx = false → (s.net0 p).rxFill + fr.length ≤ 65536 →
    let mine : List RxBuf := (s.net0 p).posted.filter fun b => b.fn = f
    let waiting : List RxHeld := (s.net0 p).rxHeld.filter fun h => h.fn = f
    (mine.length ≤ waiting.length → exec (.netRxFrame p fr ⟨true, false⟩ frac) s = .next (s.bump 0x40 p 6)) ∧
    (waiting.length < mine.length → s.refusal (macMaster 0x40 p) (s.macBase 0x40 p + 0x10000) true = none →
      ∃ (t : State) (h : RxHeld), exec (.netRxFrame p fr ⟨true, false⟩ frac) s = .next t ∧ (t.net0 p).rxHeld = (s.net0 p).rxHeld ++ [h] ∧
        h.fn = f ∧ h.at_ = (s.net0 p).rxAt ∧ h.len = fr.length ∧ h.filt = k ∧ h.flags = 0 ∧ (t.net0 p).posted = (s.net0 p).posted ∧
        (t.net0 p).rxAt = ((s.net0 p).rxAt + fr.length) % 65536 ∧ t.hostMem = s.hostMem)) ∧
  (∀ (p : Nat) (fr : List Byte) (frac : BitVec 32) (soon : Bool) (s : State), s.portUp 0x40 p = true → typeOf fr ≠ 0x8808 →
    (s.judge 0x40 p fr true).clean = true → s.filterOf 0x40 p (destOf fr) = none →
    exec (.netRxFrame p fr ⟨true, soon⟩ frac) s = .next (s.bump 0x40 p 5)) ∧
  (∀ (p : Nat) (h : RxHeld) (b : RxBuf) (rest : List RxBuf) (s : State), takeBuf h.fn (s.net0 p).posted = some (b, rest) →
    h.stamp = [] → h.at_ + h.len ≤ 65536 → s.cfg 0x40 p 0x13 < 64 → p < 2 →
    let a := s.macBase 0x40 p + 0x10000
    s.refusal (macMaster 0x40 p) a false = none → Sound s (a + h.at_) h.len → MayWrite s h.fn b.addr.toNat h.len →
    let u := s.putNet p { s.net0 p with posted := rest }
    let w := written u b.addr.toNat (s.vatBytes (a + h.at_) h.len)
    s.deliverHeld 0x40 p h = (if h.flags = 0 then w.bump 0x40 p 0 else w).finish b.ring b.id
      { status := 0, result := BitVec.ofNat 32 (h.len + h.flags + 0x1000000 * h.filt) }) ∧
  (∀ (ring : Nat) (s : State) (q : Req), (s.ring ring).oldest 0x21 = some q → ∃ t : State, exec (.netRxPost ring) s = .next t ∧
    (t.net0 q.desc.port).posted = (s.net0 q.desc.port).posted ++
      [{ fn := ring / 8, ring := ring, id := q.id, addr := q.desc.addr, len := q.desc.len16, ts := q.desc.arg2 }] ∧ t.mem = s.mem ∧
    t.hostMem = s.hostMem)

/-- Transmission: only the owner of a queue may send by it; the frame of the highest queue goes first, its bytes padded to 60 in the transmit buffer,
and completes with its length, on the wire with its FCS; a frame being tried again goes before them; an underrun puts it back under a threshold 64 bytes higher; a collision puts it back with a backoff below 2 to the attempt, at most
10, the sixteenth and a late one end it; NET_WAKE is posted when the ring engine runs (12 R302, R307 to R309, R317). -/
def Obligations.NetTransmission : Prop :=
  (∀ (ring : Nat) (s : State) (q : Req), (s.ring ring).oldest 0x20 = some q → s.cfg 0x40 q.desc.port (0x20 + q.desc.queue) ≠ ring / 8 →
    exec (.netTx ring) s = .next (s.finish ring q.id { status := 5, reason := 2 })) ∧
  (∀ (ring : Nat) (s : State) (q : Req), (s.ring ring).oldest 0x20 = some q → s.cfg 0x40 q.desc.port (0x20 + q.desc.queue) = ring / 8 →
    ∃ t : State, exec (.netTx ring) s = .next t ∧ netQ t q.desc.port q.desc.queue = netQ s q.desc.port q.desc.queue ++
      [{ fn := ring / 8, ring := ring, id := q.id, ts := if q.desc.ts then some q.desc.arg2 else none }] ∧
      (∀ k, k ≠ q.desc.queue → netQ t q.desc.port k = netQ s q.desc.port k)) ∧
  (∀ (p k : Nat) (e : TxEnt) (r : List TxEnt) (s : State), s.portUp 0x40 p = true → (s.net0 p).listening = false → (s.net0 p).cur = none →
    (s.net0 p).backoff = none → (s.net0 p).pauseLeft = 0 → k < 9 → netQ s p k = e :: r → (∀ j, k < j → j < 9 → netQ s p j = []) →
    (k = 8 → ∃ t : State, exec (.netTxStart p true) s = .next t ∧ (t.net0 p).cur = some (8, e) ∧ netQ t p 8 = r ∧ t.mem = s.mem ∧ t.host = s.host) ∧
    (k < 8 → ∃ t : State, exec (.netTxStart p false) s = .next (t.finish e.ring e.id { status := 5, reason := 5 }) ∧ netQ t p k = r ∧
      t.host = s.host) ∧
    (k < 8 → ∀ q, (s.ring e.ring).reqs.find? (fun q => q.id = e.id) = some q → MayRead s e.fn q.desc.addrN q.desc.len16 →
      s.cfg 0x40 p 0x13 < 64 → s.refusal (macMaster 0x40 p) (s.macBase 0x40 p) true = none →
      let b := s.dmaBytes q.desc.addrN q.desc.len16 ++ List.replicate (60 - q.desc.len16) 0
      ∃ t : State, exec (.netTxStart p true) s = .next t ∧ netQ t p k = r ∧ (t.net0 p).cur = some (k, { e with len := b.length, started := true }) ∧
        Lies t (s.macBase 0x40 p) b ∧ t.hostMem = s.hostMem)) ∧
  (∀ (p k : Nat) (e : TxEnt) (frac : BitVec 32) (s : State), p < 2 → (s.net0 p).cur = some (k, e) → e.ts = none → e.len ≤ 65536 →
    s.cfg 0x40 p 0x13 < 64 → s.refusal (macMaster 0x40 p) (s.macBase 0x40 p) false = none → Sound s (s.macBase 0x40 p) e.len →
    let b := s.vatBytes (s.macBase 0x40 p) e.len
    ∃ t : State, exec (.netTxDone p frac) s = .next (t.finish e.ring e.id { status := 0, result := BitVec.ofNat 32 (e.len + 4) }) ∧
      (t.net0 p).cur = none ∧ (t.net0 p).wire = (s.net0 p).pauseWait.reverse ++ (b ++ fcsOf b) :: (s.net0 p).wire ∧ (t.net0 p).pauseWait = [] ∧
      t.count 0x40 p 11 = satAdd32 (s.count 0x40 p 11) 1) ∧
  (∀ (p k : Nat) (e : TxEnt) (s : State), (s.net0 p).cur = some (k, e) → (s.net0 p).thresh ≠ 0 → ∃ t : State, exec (.txUnderrun p) s = .next t ∧
    (t.net0 p).cur = none ∧ netQ t p k = e :: netQ s p k ∧
    (t.net0 p).thresh = (if 9152 < (s.net0 p).thresh + 64 then 0 else (s.net0 p).thresh + 64) ∧
    t.count 0x40 p 13 = satAdd32 (s.count 0x40 p 13) 1 ∧ t.host = s.host) ∧
  (∀ (p k : Nat) (e : TxEnt) (s : State), p < 2 → s.halfDuplex 0x40 p = true → (s.net0 p).cur = some (k, e) → (s.net0 p).colls < 15 →
    ∃ t n, exec (.collision p false) s = .next t ∧ (t.net0 p).cur = none ∧ netQ t p 8 = e :: netQ s p 8 ∧
      (t.net0 p).backoff = some n ∧ n < 2 ^ min ((s.net0 p).colls + 1) 10 ∧ (t.net0 p).colls = (s.net0 p).colls + 1 ∧ t.host = s.host) ∧
  (∀ (p k : Nat) (e : TxEnt) (s : State), p < 2 → s.halfDuplex 0x40 p = true → (s.net0 p).cur = some (k, e) → (s.net0 p).colls = 15 →
    e.own = false → e.rc = none → e.ts = none → ∃ t : State, exec (.collision p false) s = .next (t.finish e.ring e.id { status := 0, result := 0 }) ∧
      (t.net0 p).cur = none ∧ t.count 0x40 p 15 = satAdd32 (s.count 0x40 p 15) 1) ∧
  (∀ (p k : Nat) (e : TxEnt) (s : State), p < 2 → s.halfDuplex 0x40 p = true → (s.net0 p).cur = some (k, e) →
    e.own = false → e.rc = none → e.ts = none → ∃ t : State, exec (.collision p true) s = .next (t.finish e.ring e.id { status := 0, result := 0 }) ∧
      (t.net0 p).cur = none ∧ t.count 0x40 p 16 = satAdd32 (s.count 0x40 p 16) 1) ∧
  (∀ (p : Nat) (s : State), p < 2 → exec (.backoffExpiry p) s = .next (s.putNet p { s.net0 p with backoff := none })) ∧
  (∀ (p n : Nat) (s : State), (s.net0 p).wake = some n → s.engineOn = true → ∃ t : State, exec (.netWake p) s = .next t ∧ (t.net0 p).wake = none ∧
    Posts s t 0x51 (0x4000 + 16 * n + p))

/-! ### Herdline -/

/-- A service frame of a kind that a port takes: heard, judged good, addressed to it, and the port is not in wake listening. -/
def Sys2Proof.Said.Serves (s : State) (p : Nat) (fr : List Byte) (kind : Nat) : Prop :=
  p < 2 ∧ s.hears p = true ∧ s.herdAccepts p fr true = true ∧ isService fr 0x88B6 kind = true ∧ (s.herd0 p).listening = false

/-- PLCA and the best common mode: a HELLO falls due by its period or a change of FLAGS, a peer is entered from its HELLO with its fields
and expires after three periods, a change of the resolution takes effect and posts HERD_MODE, a follower that loses the PLCA beacon falls back
and counts, and comes back with it (13 R328, R330). -/
def Obligations.HerdModes : Prop :=
  (∀ (p : Nat) (s : State), s.portUp 0x41 p = true → (s.herd0 p).started.isSome = true →
    ((s.herd0 p).helloAt.toNat + 48 * s.hd p 0xE ≤ s.time.tick.toNat ∨ (s.herd0 p).lastFlags.toNat ≠ s.helloFlags p) →
    exec (.helloSend p) s = .next (s.putHerd p { s.herd0 p with helloDue := true })) ∧
  (∀ (p : Nat) (fr : List Byte) (s : State), Serves s p fr 3 → let src := beNat (srcOf fr)
    let pay := payOf fr
    ((tget {} (s.herd0 p).peers src).live = true ∨ (s.livePeers p).length < 31) → ∃ t : State, exec (.hello p fr) s = .next t ∧
    tget {} (t.herd0 p).peers src = { node := BitVec.ofNat 8 (leAt pay 2 1), ver := BitVec.ofNat 8 (leAt pay 1 1), coord := bit (leAt pay 3 1) 0, awake := bit (leAt pay 3 1) 1, caps := BitVec.ofNat 32 (leAt pay 4 4), window := leAt pay 8 1, heard := s.time.tick, live := true } ∧
    (∀ k, k ≠ src → tget {} (t.herd0 p).peers k = tget {} (s.herd0 p).peers k) ∧
    (leAt pay 2 1 < 32 → leAt pay 2 1 = s.hd p 3 → Posts s t 0x59 (0x4100 + p) ∧ t.count 0x41 p 17 = satAdd32 (s.count 0x41 p 17) 1)) ∧
  (∀ (p src : Nat) (s : State), (tget {} (s.herd0 p).peers src).live = true → ((s.cow p).active = false ∨
      bit (tget {} (s.herd0 p).peers src).caps.toNat 1 = false ∨ (tget {} (s.herd0 p).peers src).awake = true) →
    (tget {} (s.herd0 p).peers src).heard.toNat + 144 * s.hd p 0xE ≤ s.time.tick.toNat → ∃ t : State, exec (.peerExpire p src) s = .next t ∧
      (tget {} (t.herd0 p).peers src).live = false ∧ (tget {} (t.herd0 p).rcRx src).known = false ∧ (∀ k, k ≠ src → tget {} (t.herd0 p).peers k = tget {} (s.herd0 p).peers k) ∧ Quiet s t) ∧
  (∀ (p : Nat) (s : State), s.portUp 0x41 p = true → s.settled p = true → s.time.tick.toNat % 48 = 0 → s.resolve p ≠ (s.herd0 p).modes →
    ∃ t : State, exec (.herdMode p) s = .next t ∧ (t.herd0 p).modes = s.resolve p ∧ (t.herd0 p).medium = s.resolveMedium p ∧
      Posts s t 0x58 (0x4100 + p)) ∧
  (∀ (p : Nat) (s : State), s.portUp 0x41 p = true → (s.herd0 p).medium = 1 → (s.herd0 p).plcaOk = true → ∃ t : State, exec (.plcaLoss p) s = .next t ∧
    (t.herd0 p).plcaOk = false ∧ t.count 0x41 p 15 = satAdd32 (s.count 0x41 p 15) 1 ∧ (t.setHerd s.herd).setCnt s.cnt = s) ∧
  (∀ (p : Nat) (s : State), s.portUp 0x41 p = true → (s.herd0 p).medium = 1 →
    exec (.plcaBeacon p) s = .next (s.putHerd p { s.herd0 p with plcaOk := true }))

/-- Cowbell: a beacon puts a follower in SYNC with its schedule and opens its window, posting COWBELL_SYNC after a search or a loss; the
receiver is back before a window; each window without one is a miss and the third is LOST, posting COWBELL_LOST; at the end of the awake
window the receiver is off; a coordinator's beacon moves the schedule by INTERVAL and opens a window; HERD_WAKE is posted when the ring engine
runs (13 R331 to R334). -/
def Obligations.Cowbell : Prop :=
  (∀ (p : Nat) (fr : List Byte) (s : State), p < 2 → s.hears p = true → s.herdAccepts p fr true = true → isService fr 0x88B5 1 = true →
    (s.herd0 p).listening = false → s.cowFollower p = true → 2 ≤ (s.cow p).st →
    let pay := payOf fr
    let at_ := s.time.tick - BitVec.ofNat 64 (leAt pay 0xC 4 / 20480)
    ∃ t : State, exec (.beacon p fr) s = .next t ∧ (t.cow p).st = 3 ∧ (t.cow p).k = 0 ∧ (t.cow p).interval = leAt pay 4 4 ∧
      (t.cow p).next = at_ + BitVec.ofNat 64 (leAt pay 4 4) ∧ (t.cow p).awakeEnd = at_ + BitVec.ofNat 64 (leAt pay 8 2) ∧
      (t.cow p).awake = true ∧ t.count 0x42 p 0 = satAdd32 (s.count 0x42 p 0) 1 ∧
      ((s.cow p).st = 2 ∨ (s.cow p).st = 6 → Posts s t 0x5C (0x4200 + p)) ∧ ((s.cow p).st ≠ 2 → (s.cow p).st ≠ 6 → Quiet s t)) ∧
  (∀ (p : Nat) (s : State), s.cowSleeps p = true → (s.cow p).rxOn = false → (s.cow p).next.toNat ≤ s.time.tick.toNat + (s.cow p).half + 1 →
    exec (.listenWindowOpen p) s = .next (s.putCow p { s.cow p with rxOn := true })) ∧
  (∀ (p : Nat) (s : State), s.cowFollower p = true → 3 ≤ (s.cow p).st → (s.cow p).st ≤ 5 →
    (s.cow p).next.toNat + (s.cow p).half + 6 ≤ s.time.tick.toNat →
    ((s.cow p).k < 2 → ∃ t : State, exec (.listenWindowClose p) s = .next t ∧ (t.cow p).k = (s.cow p).k + 1 ∧ (t.cow p).st = 4 + (s.cow p).k ∧
      (t.cow p).next = (s.cow p).next + BitVec.ofNat 64 (s.cow p).interval ∧ t.count 0x42 p 1 = satAdd32 (s.count 0x42 p 1) 1 ∧ Quiet s t) ∧
    ((s.cow p).k = 2 → (s.herd0 p).listening = false → ∃ t : State, exec (.listenWindowClose p) s = .next t ∧ (t.cow p).st = 6 ∧ (t.cow p).rxOn = true ∧
      t.count 0x42 p 2 = satAdd32 (s.count 0x42 p 2) 1 ∧ Posts s t 0x5B (0x4200 + p))) ∧
  (∀ (p : Nat) (s : State), (s.cow p).awake = true → (s.cow p).awakeEnd.toNat ≤ s.time.tick.toNat → s.cowSleeps p = true →
    exec (.awakeWindowEnd p) s = .next (s.putCow p { s.cow p with awake := false, rxOn := false })) ∧
  (∀ (p : Nat) (off : BitVec 32) (s : State), s.herdFree p = true → s.cowCoord p = true → (s.cow p).st = 7 →
    (s.cow p).next.toNat ≤ s.time.tick.toNat → ∃ t fr, exec (.beaconSend p off) s = .next t ∧ (t.cow p).n = (s.cow p).n + 1 ∧
      (t.cow p).next = (s.cow p).next + BitVec.ofNat 64 (s.cfg 0x42 p 3) ∧ (t.cow p).awake = true ∧
      (t.herd0 p).wire = (fr ++ fcsOf fr) :: (s.herd0 p).wire ∧ fr.take 6 = List.replicate 6 0xFF ∧ typeOf fr = 0x88B5 ∧
      t.count 0x42 p 0 = satAdd32 (s.count 0x42 p 0) 1 ∧ (∀ h ∈ (t.herd0 p).held, h.group = true → h.rel = true)) ∧
  (∀ (p : Nat) (n : BitVec 4) (s : State), (s.herd0 p).wake = some n → s.engineOn = true → ∃ t : State, exec (.herdWake p) s = .next t ∧
    (t.herd0 p).wake = none ∧ Posts s t 0x5A (0x4100 + 16 * n.toNat + p))

/-- The reliable channel: a message again inside the map is a duplicate, counted and acknowledged and not delivered; a newer one moves the map;
an ACK completes the message it covers; a timer past RC_RTO sends again, and after RC_RETRY attempts the message ends with RESULT 0 (13 R338,
R339). -/
def Obligations.ReliableChannel : Prop :=
  (∀ (p : Nat) (fr : List Byte) (s : State), Serves s p fr 1 → let src := beNat (srcOf fr)
    let pay := payOf fr
    let r := tget {} (s.herd0 p).rcRx src
    let seq := leAt pay 2 2
    r.known = true → r.session = BitVec.ofNat 16 (leAt pay 6 2) → seq ≠ 0 → s.cowCoord p = false →
    (32767 < seqDist seq r.last.toNat ∨ seqDist seq r.last.toNat = 0) → seqDist r.last.toNat seq ≤ 63 →
    bit r.map.toNat (seqDist r.last.toNat seq) = true → ∃ t : State, exec (.data p fr) s = .next t ∧
      tget {} (t.herd0 p).rcRx src = { r with ackDue := true } ∧ t.count 0x41 p 19 = satAdd32 (s.count 0x41 p 19) 1 ∧
      (t.herd0 p).rcBufs = (s.herd0 p).rcBufs ∧ t.hostMem = s.hostMem ∧ t.mem = s.mem ∧ t.host = s.host) ∧
  (∀ (p : Nat) (fr : List Byte) (b : RxBuf) (rest : List RxBuf) (s : State), Serves s p fr 1 → let src := beNat (srcOf fr)
    let pay := payOf fr
    let r := tget {} (s.herd0 p).rcRx src
    let seq := leAt pay 2 2
    let d := seqDist seq r.last.toNat
    r.known = true → r.session = BitVec.ofNat 16 (leAt pay 6 2) → seq ≠ 0 → s.cowCoord p = false → 1 ≤ d → d ≤ 32767 →
    takeBuf (s.hd p 0xF) (s.herd0 p).rcBufs = some (b, rest) → ∃ t : State, exec (.data p fr) s = .next t ∧ (t.herd0 p).rcBufs = rest ∧
      tget {} (t.herd0 p).rcRx src = { r with last := BitVec.ofNat 16 seq, map := (if d < 64 then r.map <<< d else 0) ||| 1, ackDue := true }) ∧
  (∀ (p : Nat) (fr : List Byte) (m : RcMsg) (s : State), Serves s p fr 2 → s.cowCoord p = false → (s.herd0 p).rcTx = [m] →
    m.dst = beNat (srcOf fr) → m.sent = true → m.seq ≠ 0 → ackedBy (leAt (payOf fr) 2 2) (leAt (payOf fr) 8 8) m.seq.toNat = true →
    ∃ t : State, exec (.ack p fr) s = .next t ∧ (t.herd0 p).rcTx = [] ∧ t.count 0x41 p 10 = satAdd32 (s.count 0x41 p 10) 1) ∧
  (∀ (p dst : Nat) (seq : BitVec 16) (m : RcMsg) (s : State), (s.herd0 p).rcTx = [m] → m.dst = dst → m.seq = seq → m.sent = true →
    m.due = false → seq ≠ 0 → s.cowAsleep p = false → m.last.toNat + s.hd p 0x11 ≤ s.time.tick.toNat →
    (m.tries < s.hd p 0x12 → ∃ t : State, exec (.rcRetransmit p dst seq) s = .next t ∧
      (t.herd0 p).rcTx = [{ m with due := true, tries := m.tries + 1 }] ∧ t.count 0x41 p 21 = satAdd32 (s.count 0x41 p 21) 1 ∧ t.host = s.host) ∧
    (s.hd p 0x12 ≤ m.tries → ∃ t : State, exec (.rcRetransmit p dst seq) s =
        .next ((t.finish m.ring m.id { status := 0, result := 0 }).bump 0x41 p 22) ∧ (t.herd0 p).rcTx = [])) ∧
  (∀ (a b : Nat), a < 65535 → b < 65535 → seqDist a b < 65535 ∧ (b + seqDist a b) % 65535 = a)

/-- Frames and streams on Herdline: a packet binds its stream, counts, and waits as a part of its block; one whose channel count differs counts
FORMAT_ERR and is dropped; silence of 16 blocks ends the playing; a frame not accepted counts BAD_KIND, an accepted one goes to its service, and a
raw frame that passes a filter waits in the receive buffer; buffers are posted by KIND, KIND 1 for RC_FUNC alone. Only the owner of a queue sends; a
raw frame waits in its queue and a reliable message among the messages, with the next SEQ towards its destination; the first frame in the order goes
on the line, a due HELLO before a raw frame; the frame on the line, as it lies in the transmit buffer, goes onto the wire with its FCS (13 R325, R326,
R327, R330, R337, R342). -/
def Obligations.HerdFrames : Prop :=
  (∀ (p e : Nat) (fr : List Byte) (s : State), Serves s p fr 0x10 → s.cowCoord p = false →
    ((s.portStreams p).filter fun e => e < 0x30 && s.cfg 0x43 e 4 == leAt (payOf fr) 2 1) = [e] →
    let pay := payOf fr
    let fmt := leAt pay 3 1
    let b : Blk := { seq := BitVec.ofNat 16 (leAt pay 6 2), origin := BitVec.ofNat 64 (leAt pay 8 8), fmt := BitVec.ofNat 8 (fmt % 32), ch := s.streamCh e }
    let i := fld fmt 5 2
    let src := beNat (srcOf fr)
    (leAt pay 4 1 ≠ s.streamCh e → exec (.streamPacket p fr) s = .next (s.bump 0x43 e 8)) ∧
    (leAt pay 4 1 = s.streamCh e → b.code ≤ 3 → fld fmt 3 2 ≠ 3 → i < b.packets →
      (s.streamAddr e = src ∨ (s.streamAddr e = 0 ∧ ((s.stream e).bound = none ∨ (s.stream e).bound = some src))) →
      ∃ t : State, exec (.streamPacket p fr) s = .next t ∧ (t.stream e).bound = some src ∧
        (t.stream e).lastPkt = some (BitVec.ofNat 64 (blockOf s.time.tick)) ∧ t.count 0x43 e 0 = satAdd32 (s.count 0x43 e 0) 1 ∧ Quiet s t ∧
        ((s.stream e).playing = false → (s.stream e).blocks = [] → 1 < b.packets →
          (t.stream e).blocks = [{ b with parts := [(i, sub pay 16 (fmtFrames b.code / b.packets * s.streamCh e * fmtBytes b.code))] }]))) ∧
  (∀ (ep : Nat) (b : BitVec 64) (s : State), 0x20 ≤ ep → ep < 0x30 → (s.stream ep).lastPkt = some b → b.toNat + 16 ≤ blockOf s.time.tick →
    exec (.streamSilence ep) s = .next ((s.putStream ep { base := (s.stream ep).base, fmt := (s.stream ep).fmt }).putConv ep {})) ∧
  (∀ (p : Nat) (fr : List Byte) (ok soon : Bool) (s : State), p < 2 → s.hears p = true → (typeOf fr = 0x88B5 ∨ typeOf fr = 0x88B6) →
    (s.herdAccepts p fr ok = false → exec (.herdRxFrame p fr ⟨ok, soon⟩) s = .next (s.bump 0x41 p 18)) ∧
    (s.herdAccepts p fr ok = true → exec (.herdRxFrame p fr ⟨ok, soon⟩) s = .next (s.service p fr))) ∧
  (∀ (p : Nat) (fr : List Byte) (f k : Nat) (s : State), p < 2 → s.hears p = true → s.cowCoord p = false → typeOf fr ≠ 0x88B5 → typeOf fr ≠ 0x88B6 →
    typeOf fr ≠ 0x8808 → (s.judge 0x41 p fr true).clean = true → s.filterOf 0x41 p (destOf fr) = some (f, k) → s.cfg 0x41 p 0x14 = 0 →
    (s.herd0 p).listening = false → rxFillOf (s.herd0 p).rxHeld + fr.length ≤ 65536 →
    ((s.herd0 p).rxHeld.filter fun h => h.fn = f).length < ((s.herd0 p).raw.filter fun b => b.fn = f).length →
    s.refusal (macMaster 0x41 p) (s.macBase 0x41 p + 0x10000) true = none →
    ∃ (t : State) (h : RxHeld), exec (.herdRxFrame p fr ⟨true, false⟩) s = .next t ∧ (t.herd0 p).rxHeld = (s.herd0 p).rxHeld ++ [h] ∧
      h.fn = f ∧ h.at_ = (s.herd0 p).rxAt ∧ h.len = fr.length ∧ h.filt = k ∧ h.flags = 0 ∧ (t.herd0 p).raw = (s.herd0 p).raw) ∧
  (∀ (ring : Nat) (s : State) (q : Req), (s.ring ring).oldest 0x29 = some q →
    let b : RxBuf := { fn := ring / 8, ring := ring, id := q.id, addr := q.desc.addr, len := q.desc.len16 }
    (q.desc.reliable = true → s.hd q.desc.port 0xF ≠ ring / 8 → exec (.herdRxPost ring) s = .next (s.finish ring q.id { status := 5, reason := 2 })) ∧
    (q.desc.reliable = true → s.hd q.desc.port 0xF = ring / 8 → ∃ t : State, exec (.herdRxPost ring) s = .next t ∧
      (t.herd0 q.desc.port).rcBufs = (s.herd0 q.desc.port).rcBufs ++ [b] ∧ (t.herd0 q.desc.port).raw = (s.herd0 q.desc.port).raw) ∧
    (q.desc.reliable = false → ∃ t : State, exec (.herdRxPost ring) s = .next t ∧ (t.herd0 q.desc.port).raw = (s.herd0 q.desc.port).raw ++ [b] ∧
      (t.herd0 q.desc.port).rcBufs = (s.herd0 q.desc.port).rcBufs)) ∧
  (∀ (ring : Nat) (s : State) (q : Req), (s.ring ring).oldest 0x28 = some q →
    let p := q.desc.port
    let k := q.desc.queue
    (s.hd p (0x20 + k) ≠ ring / 8 → exec (.herdTx ring) s = .next (s.finish ring q.id { status := 5, reason := 2 })) ∧
    (s.hd p (0x20 + k) = ring / 8 → q.desc.reliable = false → s.sleepers p = [] → ∃ t : State, exec (.herdTx ring) s = .next t ∧
      tget [] (t.herd0 p).queues k = tget [] (s.herd0 p).queues k ++ [{ fn := ring / 8, ring := ring, id := q.id }] ∧
      (∀ j, j ≠ k → tget [] (t.herd0 p).queues j = tget [] (s.herd0 p).queues j)) ∧
    (s.hd p (0x20 + k) = ring / 8 → q.desc.reliable = true → s.hd p 0xF = ring / 8 → s.sleepers p = [] →
      MayRead s (ring / 8) q.desc.addrN q.desc.len16 →
      let b := s.dmaBytes q.desc.addrN q.desc.len16
      let dst := beNat (b.take 6)
      let seq := nextSeqOf (tget 0 (s.herd0 p).nextSeq dst)
      isGroup (b.take 6) = false → ∃ t : State, exec (.herdTx ring) s = .next t ∧ tget 0 (t.herd0 p).nextSeq dst = seq ∧
        (t.herd0 p).rcTx = (s.herd0 p).rcTx ++ [{ ring := ring, id := q.id, dst := dst, seq := seq, bytes := b.drop 8, queue := k, due := true }])) ∧
  (∀ (p : Nat) (s : State), s.herdFree p = true → s.cfg 0x41 p 0xD < 64 → s.refusal (macMaster 0x41 p) (s.macBase 0x41 p) true = none →
    (tget [] (s.herd0 p).queues 8 = [] → (s.herd0 p).helloDue = true → s.quiet p 64 = false →
      ∃ t : State, exec (.herdTxStart p true) s = .next t ∧ (t.herd0 p).helloDue = false ∧ (t.herd0 p).helloAt = s.time.tick ∧
        (t.herd0 p).cur = some (8, { own := true, len := 60, started := true }) ∧ (s.helloFrame p).length = 60 ∧
        Lies t (s.macBase 0x41 p) (s.helloFrame p) ∧ t.hostMem = s.hostMem) ∧
    (∀ (k : Nat) (e : TxEnt) (r : List TxEnt) (q : Req), s.candidate p = some (.raw k e) → tget [] (s.herd0 p).queues k = e :: r →
      s.quiet p (s.candLen p (.raw k e)) = false → (s.ring e.ring).reqs.find? (fun q => q.id = e.id) = some q →
      MayRead s e.fn q.desc.addrN q.desc.len16 →
      let b := s.dmaBytes q.desc.addrN q.desc.len16 ++ List.replicate (60 - q.desc.len16) 0
      ∃ t : State, exec (.herdTxStart p true) s = .next t ∧ tget [] (t.herd0 p).queues k = r ∧
        (t.herd0 p).cur = some (8, { e with len := b.length, started := true }) ∧ Lies t (s.macBase 0x41 p) b ∧ t.hostMem = s.hostMem)) ∧
  (∀ (p k : Nat) (e : TxEnt) (frac : BitVec 32) (s : State), p < 2 → (s.herd0 p).cur = some (k, e) → e.len ≤ 65536 → s.cfg 0x41 p 0xD < 64 →
    s.refusal (macMaster 0x41 p) (s.macBase 0x41 p) false = none → Sound s (s.macBase 0x41 p) e.len →
    let b := s.vatBytes (s.macBase 0x41 p) e.len
    (e.own = true → exec (.netTxDone (p + 2) frac) s =
      .next (s.putHerd p { s.herd0 p with cur := none, colls := 0, wire := (b ++ fcsOf b) :: (s.herd0 p).wire })) ∧
    (e.own = false → e.rc = none → ∃ t : State, exec (.netTxDone (p + 2) frac) s =
      .next (t.finish e.ring e.id { status := 0, result := BitVec.ofNat 32 (e.len + 4) }) ∧ (t.herd0 p).cur = none ∧
      (t.herd0 p).wire = (b ++ fcsOf b) :: (s.herd0 p).wire ∧ t.count 0x41 p 10 = satAdd32 (s.count 0x41 p 10) 1))


/-! ### The control complex -/

/-- A core requests a line whose region and address admit the kind: its set in the caches has room, no loser waits for the line, and its own
data cache does not hold it. -/
def Sys2Proof.Said.Asks (s : State) (c line : Nat) : Prop :=
  s.coreReq c = true ∧ s.cacheable (64 * line) = true ∧ (s.line line).losers = [] ∧ (s.dLines c line).length < 8 ∧
    ((s.line line).inL2 = true ∨ (s.l2Lines line).length < 16)

/-- Coherence: a read takes a line in E when no data cache has it and in S otherwise, every other copy then being S; a load-reserved reserves
it; a write takes it in M with its bytes stored, every other copy and reservation gone; an upgrade of a shared line does the same, and a store to a
line in E or M needs no request; a requester that loses waits in the replay queue and comes first there; an evicted clean line leaves, a writeback
entry goes to L2 or, absorbed, only counts (11 R272, R273, R283 to R286). -/
def Obligations.Coherence : Prop :=
  (∀ (c line off : Nat) (kind : ReadKind) (e : Ecc) (s : State), Asks s c line → kind = .load ∨ kind = .lr → (s.line line).at c = .i → off < 64 →
    s.readBar (64 * line + off) kind = false → s.cacheable (64 * line + off) = true → s.refusal c (64 * line + off) false = none →
    ∃ t : State, exec (.readShared c ⟨line, off⟩ kind e none) s = .next t ∧
      (t.line line).at c = (if (s.line line).l1.isEmpty then .e else .s) ∧
      (∀ k, k < 4 → k ≠ c → (t.line line).at k = (if (s.line line).at k = .m ∨ (s.line line).at k = .e then .s else (s.line line).at k)) ∧
      (kind = .lr → (t.core c).resv = some line) ∧ (t.line line).inL2 = true ∧ (∀ l, l ≠ line → t.line l = s.line l) ∧ t.mem = s.mem) ∧
  (∀ (c line off : Nat) (bytes : List Byte) (kind : StoreKind) (s : State), Asks s c line → (s.line line).at c = .i → off + bytes.length ≤ 64 →
    s.ownBar (64 * line) kind = false → s.scFails c line kind = false → s.refusal c (64 * line) true = none →
    ∃ t : State, exec (.readUnique c ⟨line, off⟩ bytes kind .ok none []) s = .next t ∧ (t.line line).l1 = [(c, .m)] ∧
      (kind = .store → tget 0 (t.line line).l1d c = putLine (s.lineData line) off bytes) ∧
      (∀ k, k < 4 → k ≠ c → (t.core k).resv = (if (s.core k).resv = some line then none else (s.core k).resv)) ∧
      (∀ l, l ≠ line → t.line l = s.line l) ∧ t.mem = s.mem) ∧
  (∀ (c line off : Nat) (bytes : List Byte) (kind : StoreKind) (s : State), Asks s c line → (s.line line).at c = .s → off + bytes.length ≤ 64 →
    s.ownBar (64 * line) kind = false → s.scFails c line kind = false → s.refusal c (64 * line) true = none →
    ∃ t : State, exec (.upgrade c ⟨line, off⟩ bytes kind .ok []) s = .next t ∧ (t.line line).l1 = [(c, .m)] ∧
      (kind = .store → tget 0 (t.line line).l1d c = putLine (s.lineData line) off bytes) ∧
      (∀ l, l ≠ line → t.line l = s.line l) ∧ t.mem = s.mem) ∧
  (∀ (c line off : Nat) (bytes : List Byte) (s : State), s.coreReq c = true → s.cacheable (64 * line) = true → off + bytes.length ≤ 64 →
    (s.line line).at c = .e ∨ (s.line line).at c = .m → ∃ t : State, exec (.upgrade c ⟨line, off⟩ bytes .store .ok []) s = .next t ∧
      (t.line line).at c = .m ∧ (∀ k, k ≠ c → (t.line line).at k = (s.line line).at k) ∧
      tget 0 (t.line line).l1d c = putLine (if (s.line line).at c = .e then (s.line line).l2d else tget 0 (s.line line).l1d c) off bytes ∧
      (∀ l, l ≠ line → t.line l = s.line l) ∧ t.cc.cores = s.cc.cores ∧ t.mem = s.mem) ∧
  (∀ (c line off : Nat) (bytes : List Byte) (q : Rival) (s : State), Asks s c line → (s.line line).at c = .s → s.rivalsOk c off bytes [q] = true →
    s.refusal c (64 * line) true = none → tget 0 s.cc.top (line % 2) = c →
    ∃ t : State, exec (.upgrade c ⟨line, off⟩ bytes .store .ok [q]) s = .next t ∧ (t.line line).l1 = [(c, .m)] ∧ (t.line line).losers = [q] ∧
      tget 0 t.cc.top (line % 2) = min q.master.toNat 4) ∧
  (∀ (line : Nat) (w : Rival) (rest : List Rival) (s : State), (s.line line).losers = w :: rest → w.master.toNat < 4 →
    ((s.line line).inL2 = true ∨ (s.l2Lines line).length < 16) → ∃ t : State, exec (.replay line) s = .next t ∧
      (t.line line).l1 = [(w.master.toNat, .m)] ∧ (t.line line).losers = rest ∧ (∀ l, l ≠ line → t.line l = s.line l) ∧ t.mem = s.mem) ∧
  (∀ (c line : Nat) (s : State), c < 4 → ((s.line line).at c = .e ∨ (s.line line).at c = .s) → ∃ t : State,
    exec (.cleanEvict c line) s = .next t ∧ (t.line line).at c = .i ∧ (∀ k, k ≠ c → (t.line line).at k = (s.line line).at k) ∧
      (∀ l, l ≠ line → t.line l = s.line l) ∧ t.mem = s.mem) ∧
  (∀ (c k : Nat) (e : WbEnt) (s : State), c < 4 → s.domOn c = true → (s.core c).wb.find? (fun x => x.1 = k) = some (k, e) →
    (e.absorbed = false → ∃ t : State, exec (.writeBack c k) s = .next t ∧
      t.line e.line = { s.line e.line with inL2 := true, l2d := e.data, dirty := true } ∧ (t.core c).wb = tdel (s.core c).wb k ∧ t.mem = s.mem) ∧
    (e.absorbed = true → ∃ t : State, exec (.writeBack c k) s = .next t ∧ t.cc.lines = s.cc.lines ∧ (t.core c).wb = tdel (s.core c).wb k ∧
      t.cc.wbAbsorbed = s.cc.wbAbsorbed + 1))

/-- No step of the coherence requests leaves two owners of a line: each line is either owned by one core, every other data cache having no copy,
or owned by none; a read, a write, an upgrade, a replay and an eviction keep it so for their line (11 R272). -/
def Obligations.OneOwner : Prop :=
  let one (l : LineC) : Prop := ∀ j k, j < 4 → k < 4 → j ≠ k → (l.at j = .m ∨ l.at j = .e) → l.at k = .i
  (∀ (c line off : Nat) (kind : ReadKind) (e : Ecc) (v : Option Nat) (s t : State), one (s.line line) →
    exec (.readShared c ⟨line, off⟩ kind e v) s = .next t → one (t.line line)) ∧
  (∀ (c line off : Nat) (b : List Byte) (kind : StoreKind) (e : Ecc) (v : Option Nat) (rs : List Rival) (s t : State), one (s.line line) →
    exec (.readUnique c ⟨line, off⟩ b kind e v rs) s = .next t → one (t.line line)) ∧
  (∀ (c line off : Nat) (b : List Byte) (kind : StoreKind) (e : Ecc) (rs : List Rival) (s t : State), one (s.line line) →
    exec (.upgrade c ⟨line, off⟩ b kind e rs) s = .next t → one (t.line line)) ∧
  (∀ (line : Nat) (s t : State), one (s.line line) → exec (.replay line) s = .next t → one (t.line line)) ∧
  (∀ (c line : Nat) (s t : State), one (s.line line) → exec (.cleanEvict c line) s = .next t → one (t.line line))

/-- The IO-coherent port reads a line as its owner has it and leaves no trace in the caches, and a write lands in the coherent line; the patrol
scrub moves on by a line and poisons one with an uncorrectable error; MR4 is stored (11 R274, R280, R282, R288). -/
def Obligations.PortAndMemory : Prop :=
  (∀ (m func line : Nat) (s : State), s.masterUp m func = true → s.cacheable (64 * line) = true → 4 ≤ m → s.refusal m (64 * line) false = none →
    (s.line line).losers = [] → s.wbHit line = none → ∃ t : State, exec (.ioRead ⟨m, func⟩ line .ok) s = .next t ∧ t.cc.ioData = s.lineData line ∧
      t.cc.ioErr = (s.line line).poison ∧ (∀ l, t.line l = s.line l) ∧ t.mem = s.mem) ∧
  (∀ (m func line off : Nat) (bytes : List Byte) (s : State), s.masterUp m func = true → s.cacheable (64 * line) = true → 4 ≤ m →
    off + bytes.length ≤ 64 → s.refusal m (64 * line) true = none → (s.line line).losers = [] →
    exec (.ioWrite ⟨m, func⟩ line off bytes) s = .next (s.busWrite (64 * line + off) bytes)) ∧
  (∀ (s : State), s.ddrUp = true → bit s.cc.memCfg.toNat 0 = true → fld s.cc.memCfg.toNat 3 2 ≠ 0 →
    let x := s.line (0x2000000 + s.cc.scrubPtr)
    let bad := x.poison = true ∧ x.inL2 = false
    (¬ bad → exec (.patrolScrub .ok) s = .next (s.setCc { s.cc with scrubPtr := (s.cc.scrubPtr + 1) % (s.usable / 64) })) ∧
    (∀ e, e = .uncorrectable ∨ bad → ∃ t : State, exec (.patrolScrub e) s = .next t ∧ t.cc.errValid = true ∧
      t.line (0x2000000 + s.cc.scrubPtr) = { x with poison := x.poison || !x.inL2 } ∧
      t.cc.uncorr = BitVec.ofNat 8 (min 255 (s.cc.uncorr.toNat + 1)) ∧ (∀ l, l ≠ 0x2000000 + s.cc.scrubPtr → t.line l = s.line l)) ∧
    (¬ bad → ∃ t : State, exec (.patrolScrub .corrected) s = .next t ∧ t.cc.corr = BitVec.ofNat 16 (min 0xFFFF (s.cc.corr.toNat + 1)) ∧
      t.cc.lines = s.cc.lines)) ∧
  (∀ (code : BitVec 4) (s : State), s.ddrUp = true → exec (.mr4Poll code) s = .next (s.setCc { s.cc with temp := code }))

/-- Timer, PLIC, cache maintenance, ktick, parking: mtip follows mtime against mtimecmp; a claim takes the pending enabled source of highest
priority, the lowest number among equals, and completion frees it; cleaning a data cache leaves no line in it and drains its buffer;
invalidating leaves no instruction line; ktick latches TICK in an allowed mode and traps as an illegal instruction in another; a parked, clean
core whose intent is down goes off in H5; a commit that turns the slices off first writes every dirty line to memory, and at the entry of a profile the
slices go off in H5, dirty lines written (11 R275, R276, R279, R291, R292). -/
def Obligations.ControlComplex : Prop :=
  (∀ (c slot : Nat) (s : State), c < 4 → slot < 20480 → s.domOn 6 = true → ∃ t : State, exec (.machineTimer c slot) s = .next t ∧
    tget false t.cc.mtip c = decide ((tget (BitVec.allOnes 64) s.cc.mtimecmp c).toNat ≤
      512 * s.time.tick.toNat + min 511 (let k := max slot s.time.slotSeen; if s.time.ckeOff then k else k / 40)) ∧ (∀ k, k ≠ c → tget false t.cc.mtip k = tget false s.cc.mtip k)) ∧
  (∀ (ctx : Nat) (s : State), ctx < 8 → s.domOn 6 = true → s.plicBest ctx ≠ 0 → ∃ t : State, exec (.plicClaim ctx) s = .next t ∧
    t.cc.plic.reply = BitVec.ofNat 32 (s.plicBest ctx) ∧ tget false t.cc.plic.pend (s.plicBest ctx) = false ∧
    tget false t.cc.plic.claimed (s.plicBest ctx) = true) ∧
  (∀ (ctx k : Nat) (s : State), k < 320 → k ≠ 0 → s.plicPending k = true → tget false s.cc.plic.en (ctx * 1024 + k) = true →
    0 < (tget 0 s.cc.plic.prio k).toNat → (tget 0 s.cc.plic.prio k).toNat ≤ (tget 0 s.cc.plic.prio (s.plicBest ctx)).toNat) ∧
  (∀ (ctx src : Nat) (s : State), ctx < 8 → s.domOn 6 = true → tget false s.cc.plic.en (ctx * 1024 + src) = true →
    ∃ t : State, exec (.plicComplete ctx src) s = .next t ∧ tget false t.cc.plic.claimed src = false ∧
      (∀ k, k ∉ [1, 2, 3, 5] → tget false t.cc.plic.pend k = tget false s.cc.plic.pend k)) ∧
  (∀ (c : Nat) (s : State), c < 4 → s.domOn c = true → s.domOn 4 = true → ∃ t : State, exec (.dcacheClean c) s = .next t ∧
    (∀ l, (t.line l).at c = .i) ∧ (t.core c).resv = none ∧ (∀ l k, k ≠ c → (t.line l).at k = (s.line l).at k) ∧ t.mem = s.mem) ∧
  (∀ (c : Nat) (s : State), c < 4 → s.domOn c = true → ∃ t : State, exec (.icacheInvalidate c) s = .next t ∧
    (∀ l, bit (t.line l).ic.toNat c = false) ∧ (∀ l k, (t.line l).at k = (s.line l).at k) ∧ t.mem = s.mem) ∧
  (∀ (c slot : Nat) (mode : BitVec 2) (s : State), c < 4 → s.domOn c = true → slot < 20480 →
    ((s.core c).tickOk mode = true → ∃ t : State, exec (.ktickRead c mode slot) s = .next t ∧ (t.core c).ktick = s.time.tick ∧
      (t.core c).kslot = (if s.time.ckeOff then 0x8000000000000000 else BitVec.ofNat 64 (max slot s.time.slotSeen)) ∧ (∀ k, k ≠ c → t.core k = s.core k)) ∧
    ((s.core c).tickOk mode = false → exec (.ktickRead c mode slot) s = .next (s.putCore c { s.core c with trap := some 2 }))) ∧
  (∀ (c : Nat) (s : State), c < 4 → s.domOn c = true → s.effOn c = false → (s.core c).park = true → s.coreEmpty c = true →
    (s.pwr.entry = false ∨ (s.clk.oppTarget = none ∧ s.pwr.vWait = none)) → (s.ticking = false ∨ s.time.phase = 5) →
    ∃ t : State, exec (.coreParkOff c) s = .next t ∧ t.domOn c = false ∧ t.core c = {} ∧ (∀ d, d ≠ c → t.domSt d = s.domSt d) ∧ t.mem = s.mem) ∧
  (∀ (c : Nat) (s : State), s.ticking = true → s.time.phase < 5 → s.parkable c = true → (s.advance {} 5).parkable c = true →
    ∃ t : State, exec (.coreParkOff c) s = .next t ∧ t.domOn c = false ∧ t.core c = {}) ∧
  (∀ (s : State), s.domOn 4 = true → s.pwr.entry = true → [0, 1, 2, 3].all (fun c => !s.domOn c) = true → (s.ticking = false ∨ s.time.phase = 5) →
    ∃ t : State, exec .l2Flush s = .next t ∧ t.domOn 4 = false ∧ t.domOn 5 = false ∧ ∀ l, (t.line l).inL2 = false ∧ (t.line l).l1 = []) ∧
  (∀ (s : State) (e : Nat × LineC), s.domOn 4 = true → s.pwr.entry = false → s.slicesLeaving = true → s.cc.lines = [e] → e.2.dirty = true →
    exec .l2Flush s = .next ((s.setMem (memPut s.mem (64 * e.1) (leBytes 64 e.2.l2d.toNat))).setCc { s.cc with lines := [(e.1, { e.2 with dirty := false })] }))

/-! ### The NV store -/

/-- NV: a record outside a function's range is refused, data beyond 65,536 bytes are too long, a descriptor waits behind a write; an idle controller
fetches the data of a write and lays down its operations, or ends it DMA where the fetch fails; a read of a record answers its data or too short; the
gate holds an operation while the hold-up estimate does not cover it and passes it otherwise; an erase or a program that ends well is in the flash; a
program that does not read back, a failed operation and a flash busy too long post NV_FLASH_ERR; an operation held for NV_WAIT ends the write HOLDUP_LOW
(16 R400 to R406, R410). -/
def Obligations.NvStore : Prop :=
  (∀ (ring : Nat) (ok : Bool) (s : State) (q : Req), (s.ring ring).oldest 0x50 = some q → s.nv.state ≠ 4 →
    let k := q.desc.arg2N % 2 ^ 32
    let n := q.desc.argN
    let r : NvReq := { ring := ring, id := q.id, fn := ring / 8, record := k, addr := q.desc.addr, len := n, bad := !ok }
    (recordOk (ring / 8) k = false → exec (.nvWrite ring ok) s = .next (s.finish ring q.id { status := 5, reason := 2 })) ∧
    (recordOk (ring / 8) k = true → 65536 < n → exec (.nvWrite ring ok) s = .next (s.finish ring q.id { status := 6 })) ∧
    (recordOk (ring / 8) k = true → n ≤ 65536 → k ≠ 0xFF000001 → s.nv.writing.isSome = true → exec (.nvWrite ring ok) s =
      .next ((s.take ring q.id).setNv { s.nv with queue := s.nv.queue ++ [r] })) ∧
    (recordOk (ring / 8) k = true → n ≤ 65536 → k ≠ 0xFF000001 → s.nv.writing = none → s.nv.queue = [] →
      (payloadOf (putRecord s.nv.recs k (List.replicate n 0))).length ≤ 2096640 →
      (ok = false → exec (.nvWrite ring ok) s = .next ((s.take ring q.id).finish ring q.id { status := 5, reason := 5 })) ∧
      (ok = true → (n = 0 ∨ MayRead s (ring / 8) q.desc.addrN n) →
        let recs := putRecord s.nv.recs k (if n = 0 then [] else s.dmaBytes q.desc.addrN n)
        exec (.nvWrite ring ok) s = .next ((s.take ring q.id).setNv
          { s.nv with writing := some r, plan := s.nv.planOf (payloadOf recs) recs.length, state := if s.nv.busy.isSome then s.nv.state else 2 })))) ∧
  (∀ (ring : Nat) (s : State) (q : Req), (s.ring ring).oldest 0x51 = some q → s.nv.state ≠ 4 →
    let k := q.desc.arg2N % 2 ^ 32
    let d := tget [] s.nv.recs k
    (recordOk (ring / 8) k = false → exec (.nvRead ring) s = .next (s.finish ring q.id { status := 5, reason := 2 })) ∧
    (recordOk (ring / 8) k = true → s.nv.writing.isSome = true → ∃ t : State, exec (.nvRead ring) s = .next t ∧ t.nv.queue =
      s.nv.queue ++ [{ ring := ring, id := q.id, fn := ring / 8, record := k, rd := true, addr := q.desc.addr, len := q.desc.argN }]) ∧
    (recordOk (ring / 8) k = true → s.nv.writing = none → s.nv.queue = [] →
      (2 ≤ s.nv.active ∨ (readSlot s.nv.flash (slotBase s.nv.mib s.nv.active)).isSome = true) →
      (d.length ≤ q.desc.argN → exec (.nvRead ring) s =
        .next ((s.take ring q.id).finishWrite ring q.id q.desc.addrN d { status := 0, result := BitVec.ofNat 32 d.length })) ∧
      (q.desc.argN < d.length → exec (.nvRead ring) s = .next ((s.take ring q.id).finish ring q.id { status := 7 })))) ∧
  (∀ (s : State) (o : FlashOp) (r : List FlashOp), s.domOn 61 = true → s.nv.ok = true → s.nv.busy = none → s.nv.plan = o :: r → o.step ≠ 1 →
    (s.gateOpen o.erase = true → ∃ t : State, exec .flashOpStart s = .next t ∧ t.nv.busy = some o ∧ t.nv.plan = r ∧
      t.nv.state = (if o.erase then 3 else 2) ∧ t.nv.gateSince = none ∧ t.nv.flash = s.nv.flash) ∧
    (s.gateOpen o.erase = false → s.nv.gateSince = none → ∃ t : State, exec .flashOpStart s = .next t ∧ t.nv.busy = none ∧
      t.nv.plan = o :: r ∧ t.nv.state = 1 ∧ t.nv.gateSince = some s.time.tick ∧ t.count 0x60 0 1 = satAdd32 (s.count 0x60 0 1) 1)) ∧
  (∀ (s : State) (o : FlashOp), s.nv.busy = some o → o.erase = true → o.step ≠ 4 → ∃ t : State, exec (.flashOpDone true) s = .next t ∧
    t.nv.busy = none ∧ t.nv.flash = flashErase s.nv.flash o.addr ∧ t.count 0x60 0 3 = satAdd32 (s.count 0x60 0 3) 1) ∧
  (∀ (s : State) (o : FlashOp), s.nv.busy = some o → o.erase = false → o.step ≠ 4 →
    flashBytes (flashProgram s.nv.flash o.addr o.data) o.addr o.data.length = o.data → ∃ t : State, exec (.flashOpDone true) s = .next t ∧
    t.nv.busy = none ∧ t.nv.flash = flashProgram s.nv.flash o.addr o.data ∧ t.cnt = s.cnt) ∧
  (∀ (s : State) (o : FlashOp), s.nv.busy = some o → s.nv.writing = none →
    (∃ t : State, exec (.flashOpDone false) s = .next t ∧ t.nv.busy = none ∧ t.count 0x60 0 4 = satAdd32 (s.count 0x60 0 4) 1 ∧ Posts s t 0x70 0x6000) ∧
    (s.flashLate o = true → ∃ t : State, exec .flashBusyTimeout s = .next t ∧ t.nv.busy = none ∧ t.count 0x60 0 4 = satAdd32 (s.count 0x60 0 4) 1 ∧ Posts s t 0x70 0x6000)) ∧
  (∀ (s : State) (t0 : BitVec 64) (o : FlashOp) (r : List FlashOp) (w : NvReq), s.nv.gateSince = some t0 → s.nv.plan = o :: r →
    s.nv.writing = some w → o.step ≤ 4 → t0.toNat + s.cfg 0x60 0 3 ≤ s.time.tick.toNat → s.nv.queue = [] →
    ∃ t : State, exec .holdupLow s = .next (t.finish w.ring w.id { status := 9 }) ∧ t.nv.writing = none ∧ t.nv.plan = [] ∧
      t.nv.flash = s.nv.flash ∧ t.count 0x60 0 2 = satAdd32 (s.count 0x60 0 2) 1) ∧
  (∀ (fl : Map Byte) (a : Nat) (l : List Byte) (i : Nat), tget 0xFF (flashProgram fl a l) i =
    if a ≤ i ∧ i < a + l.length then tget 0xFF fl i &&& nth 0 l (i - a) else tget 0xFF fl i) ∧
  (∀ (fl : Map Byte) (a i : Nat), tget 0xFF (flashErase fl a) i = if a ≤ i ∧ i < a + 4096 then 0xFF else tget 0xFF fl i)

/-! ### Power -/

/-- Domains and channels: a power-up that ends well leaves the domain on, one that fails leaves it failed; a channel without power good in
time, or one that drops, leaves its domains off and posts PWR_FAULT; PMBus readings are stored, a transaction that fails counts and posts
POL_ALERT; an alert reads STATUS_WORD and raises source 5 (14 R354, R362, R365). -/
def Obligations.PowerDomains : Prop :=
  (∀ (d : Nat) (s : State), d < 64 → s.domSt d = .poweringUp → s.pwr.upQ = [] →
    (∃ t : State, exec (.domainPowerUpEnd d true) s = .next t ∧ t.domSt d = .on ∧ (∀ x, x ≠ d → t.domSt x = s.domSt x)) ∧
    (∃ t : State, exec (.domainPowerUpEnd d false) s = .next t ∧ t.domSt d = .failed ∧ (∀ x, x ≠ d → t.domSt x = s.domSt x))) ∧
  (∀ (k : Nat) (s : State), k < 8 → bit s.pwr.polEn.toNat k = true → bit s.pwr.polPg.toNat k = false → s.pgLate k = true → ∃ t : State,
    exec (.pgTimeout k) s = .next t ∧ Posts s t 0x61 (0x380 + k) ∧ t.count 3 0x40 1 = satAdd32 (s.count 3 0x40 1) 1 ∧
    (∀ d, d < 64 → bit (s.polMask k) d = true → s.domSt d = .poweringUp → t.domSt d = .failed) ∧
    (∀ d, bit (s.polMask k) d = false → t.domSt d = s.domSt d) ∧ t.mem = s.mem) ∧
  (∀ (k d : Nat) (s : State), k < 8 → d < 64 → bit s.pwr.polEn.toNat k = true → bit (s.polMask k) d = true → s.domOn d = true →
    ∃ t : State, exec (.polPgDrop k) s = .next t ∧ ev 0x61 (0x380 + k) ∈ t.host.posted ∧
      ((∀ x, x < 64 → bit (s.polMask k) x = true → x = d) → t.domSt d = .failed)) ∧
  (∀ (status : List (BitVec 16)) (s : State), s.domOn 63 = true → (∀ w ∈ status, w = 0) → ∃ t : State, exec (.polAlert status) s = .next t ∧
    (s.domOn 6 = true → tget false s.cc.plic.claimed 5 = false → tget false t.cc.plic.pend 5 = true) ∧
    (∀ k, s.addressed k = true → (k, 0x79, 0) ∈ t.pwr.busSent) ∧ Quiet s t) ∧
  (∀ (status : List (BitVec 16)) (k : Nat) (s : State), s.domOn 63 = true → s.addressed k = true → (nth 0 status k).toNat &&& faultBits ≠ 0 →
    ∃ t : State, exec (.polAlert status) s = .next t ∧ ev 0x62 (0x380 + k) ∈ t.host.posted ∧
      (k, 3, 0) ∈ t.pwr.busSent) ∧
  (∀ (k : Nat) (v i : BitVec 32) (s : State), s.addressed k = true →
    (∃ t : State, exec (.pmbusPoll k v i true) s = .next t ∧ tget 0 t.pwr.vout k = v ∧ tget 0 t.pwr.iout k = i ∧ Quiet s t) ∧
    (∃ t : State, exec (.pmbusPoll k v i false) s = .next t ∧ t.pwr.vout = s.pwr.vout ∧ t.count 3 0x40 2 = satAdd32 (s.count 3 0x40 2) 1 ∧
      Posts s t 0x62 (0x380 + k)))

/-- Wake causes and voltage: a selected pin at its level and WAKE_TICK record their cause in a profile that stops CK_E and raise the leaving
commit, the lowest cause of a tick standing; CK_E restarts once domain 19 is on; a READ_VOUT within 10 mV below the target lets the
frequency follow, one that comes too late abandons the change with CPLL_FAIL (14 R357, R361, R363). -/
def Obligations.WakeAndVoltage : Prop :=
  (∀ (pin : Nat) (level : Bool) (s : State), pin < 4 → bit (s.cfg 3 0x40 3) pin = true → bit (s.cfg 3 0x40 3) (4 + pin) = level →
    2 ≤ s.pwr.profile → s.pwr.phase ≠ 2 → s.mainsProfile (s.cfg 3 0x40 2) ≠ s.pwr.profile → s.pwr.wakeCause = 0 → devCount s.cmt.queue < 4 →
    ∃ t : State, exec (.wakeIn pin level) s = .next t ∧ t.pwr.wakeCause = 1 ∧ t.pwr.phase = 2 ∧ t.pwr.entry = false ∧
      bit t.pwr.wakeLvl.toNat pin = level ∧ t.pwr.profile = s.pwr.profile ∧ t.time = s.time ∧
      (∃ c ∈ t.cmt.queue, c.fn = none ∧ c.profile = some (s.mainsProfile (s.cfg 3 0x40 2), 0x10)) ∧
      (s.time.ckeOff = true → t.domSt 19 = .poweringUp)) ∧
  (∀ (s : State), s.cfg 3 0x40 4 + 2 ^ 32 * s.cfg 3 0x40 5 ≠ 0 → s.time.tick.toNat = s.cfg 3 0x40 4 + 2 ^ 32 * s.cfg 3 0x40 5 →
    2 ≤ s.pwr.profile → (s.pwr.wakeCause = 0 ∨ s.pwr.wakeAt ≠ s.time.tick) → ∃ t : State, exec .wakeTick s = .next t ∧ t.pwr.wakeCause = 2 ∧
      t.pwr.wakeAt = s.time.tick) ∧
  (∀ (s : State), s.time.ckeOff = true → s.time.started = true → s.pwr.phase = 2 → 2 ≤ s.pwr.profile → s.domOn 19 = true → ∃ t : State,
    exec .ckeRestart s = .next t ∧ t.time.ckeOff = false ∧ t.time.tick = s.time.tick ∧ t.time.phase = 0) ∧
  (∀ (trim : Int) (s : State), s.vddPol = true → s.cfg 3 0x40 0x10 = 1 → -50 ≤ trim → trim ≤ 25 → (trim - s.pwr.trim = 5 ∨ trim - s.pwr.trim = -5) →
    s.pwr.trimAt ≠ some (BitVec.ofNat 64 (blockOf s.time.tick)) → ∃ t : State, exec (.avsTrim trim) s = .next t ∧ t.pwr.trim = trim ∧ Quiet s t) ∧
  (∀ (mv o : Nat) (target : Int) (s : State), s.pwr.vWait = some (o, target) → (mv : Int) < target - 10 → ∃ t : State,
    exec (.voutPoll mv) s = .next t ∧ t.pwr.vWait = some (o, target) ∧ t.clk = s.clk ∧ Quiet s t) ∧
  (∀ (mv o : Nat) (target : Int) (s : State), s.pwr.vWait = some (o, target) → target - 10 ≤ (mv : Int) → o ≠ 0 → ∃ t : State,
    exec (.voutPoll mv) s = .next t ∧ t.pwr.vWait = none ∧ t.clk.oppTarget = some o ∧ t.clk.onBypass = true ∧ Quiet s t) ∧
  (∀ (o : Nat) (target : Int) (s : State), s.pwr.vWait = some (o, target) → s.pwr.vAt.toNat + 48 ≤ s.time.tick.toNat → s.clk.oppNext = none → ∃ t : State,
    exec .oppVoltageTimeout s = .next t ∧ t.pwr.vWait = none ∧ t.clk.opp = s.clk.opp ∧ Posts s t 0x26 0x02F1)

/-! ### Separator and self-test -/

namespace Sys2Proof.Said

/-- First byte and byte after the last of a model's staging buffers. -/
def stageFrom (d : ModelDesc) : Nat := 0x40000000 + d.bank * 0x40000 + d.page * 4096
def stageTo (d : ModelDesc) : Nat := stageFrom d + 256 * d.steps * (d.inW + d.outW)

/-- The staging buffers lie in the Vats, in banks that are On. -/
def Staged (s : State) (d : ModelDesc) : Prop :=
  stageTo d ≤ 0x41000000 ∧ ∀ a, stageFrom d ≤ a → a < stageTo d → s.bankOn ((a - 0x40000000) / 0x40000) = true

/-- Every word of the staging buffers reads without error. -/
def StageSound (s : State) (d : ModelDesc) : Prop := ∀ w, stageFrom d ≤ w → w < stageTo d → s.vatDecode (w / 8 * 8) = .ok

/-- The 16-bit number at an address of a Vat. -/
def elemAt (s : State) (a : Nat) : Int := leIntAt (s.vatBytes a 2) 0 2

end Sys2Proof.Said

/-- SEP_STEP and SEP_RESULT: a model that is absent, or takes no host steps, ends UNIT_DOWN, another function's RIGHTS; at its dispatch a step takes
the lowest free host step of the hop being staged, or waits where none is free; its copy puts its rows there and limits its masks to HOST_ROWS; a
failed copy ends DMA. A result buffer is posted; the end of its write completes it. Header and elements of a result lie where the layout says, and
an inactive row gives HOLD_VALUE (09 R221, R230 to R232, R239). -/
def Obligations.SeparatorRequests : Prop :=
  (∀ (ring : Nat) (s : State) (q : Req), (s.ring ring).reqs = [q] → q.desc.opcode = 0x30 → q.live = false → q.ended = none →
    let m := q.desc.model
    s.offline 0x28 m = false →
    let s1 := s.putRing ring { s.ring ring with reqs := [{ q with live := true, epoch := (s.unitOf 0x28 m).epoch }] }
    let down : Outc := { status := 0xB, reason := BitVec.ofNat 16 (0x2800 + m % 256) }
    ((s.model m).desc = none → exec (.fenceRelease ring) s = .next (s1.finish ring q.id down)) ∧
    ∀ d : ModelDesc, (s.model m).desc = some d →
      (d.hostFn ≠ ring / 8 → exec (.fenceRelease ring) s = .next (s1.finish ring q.id { status := 5, reason := 2 })) ∧
      (d.hostFn = ring / 8 → d.hostSteps = 0 → exec (.fenceRelease ring) s = .next (s1.finish ring q.id down)) ∧
      (d.hostFn = ring / 8 → d.hostSteps ≠ 0 → (∀ k, d.churnSteps ≤ k → k < d.steps → (nth {} (s.model m).nxt k).used = true) →
        exec (.fenceRelease ring) s = .next (s1.putModel m { s.model m with queued := (s.model m).queued ++ [(ring, q.id)] })) ∧
      (∀ k, d.hostFn = ring / 8 → d.hostSteps ≠ 0 → d.churnSteps ≤ k → k < d.steps → (nth {} (s.model m).nxt k).used = false →
        (∀ j, d.churnSteps ≤ j → j < k → (nth {} (s.model m).nxt j).used = true) → exec (.fenceRelease ring) s =
          .next (s1.putModel m { s.model m with nxt := (s.model m).nxt.set k { nth {} (s.model m).nxt k with used := true, fed := some (ring, q.id) } }))) ∧
  (∀ (ring k : Nat) (s : State) (q : Req) (d : ModelDesc), (s.ring ring).reqs = [q] → q.desc.opcode = 0x30 → q.live = true → q.ended = none →
    let m := q.desc.model
    let x := (s.model m).nxt
    (s.model m).desc = some d → k < x.length → (nth {} x k).fed = some (ring, q.id) → (nth {} x k).copied = false →
    (∀ j, j < k → (nth {} x j).fed ≠ some (ring, q.id) ∨ (nth {} x j).copied = true) →
    exec (.sepStep ring false) s =
      .next ((s.putModel m { s.model m with nxt := x.set k { used := true } }).finish ring q.id { status := 5, reason := 5 }) ∧
    (MayRead s (ring / 8) q.desc.addrN (d.hostP * d.inW * 2) → Staged s d → k < d.steps →
      let b := s.dmaBytes q.desc.addrN (d.hostP * d.inW * 2)
      ∃ t : State, exec (.sepStep ring true) s = .next t ∧
        nth {} (t.model m).nxt k = { reset := q.desc.arg2 &&& d.rows, active := q.desc.arg3 &&& d.rows, used := true, fed := some (ring, q.id), copied := true, tag := q.desc.tag, cov := d.hostRows.map fun r => (r, 0, d.inW) } ∧
        (∀ j, j ≠ k → nth {} (t.model m).nxt j = nth {} x j) ∧
        (∀ i r j, i < d.hostP → d.hostRows[i]? = some r → j < 2 * d.inW →
          t.vatByte (d.inAddr s.sep.buf k r 0 + j) = nth 0 b (i * d.inW * 2 + j)))) ∧
  (∀ (ring : Nat) (s : State) (q : Req) (d : ModelDesc), (s.ring ring).oldest 0x31 = some q → (s.model q.desc.model).desc = some d →
    (d.hostFn ≠ ring / 8 → exec (.sepResult ring) s = .next (s.finish ring q.id { status := 5, reason := 2 })) ∧
    (d.hostFn = ring / 8 → ∃ t : State, exec (.sepResult ring) s = .next t ∧
      (t.model q.desc.model).posted = (s.model q.desc.model).posted ++ [(ring, q.id, q.desc.addr)] ∧
      (∀ j, j ≠ q.desc.model → t.model j = s.model j) ∧ t.mem = s.mem ∧ t.hostMem = s.hostMem)) ∧
  (∀ (m : Nat) (ok : Bool) (s : State), (s.model m).filling = [] → exec (.sepResultWritten m ok) s = .next s) ∧
  (∀ (m : Nat) (s : State) (x : ResFill) (rest : List ResFill), (s.model m).filling = x :: rest →
    (∃ u : State, exec (.sepResultWritten m false) s = .next (u.finish x.ring x.id { status := 5, reason := 5 }) ∧
      (u.model m).filling = rest ∧ u.host = s.host ∧ u.hostMem = s.hostMem ∧ u.mem = s.mem) ∧
    (∃ u : State, exec (.sepResultWritten m true) s =
        .next (u.finishWrite x.ring x.id x.addr.toNat x.data { status := 0, result := BitVec.ofNat 32 x.tick.toNat }) ∧
      (u.model m).filling = rest ∧ u.host = s.host ∧ u.hostMem = s.hostMem ∧ u.mem = s.mem)) ∧
  (∀ (s : State) (m : Nat) (d : ModelDesc) (cur : List StepRec) (h : Nat), h < 2 ^ 64 → d.hostSteps ≤ 8 →
    let b := (s.resultBytes m d cur h).2
    let st (k : Nat) : StepRec := nth {} cur (d.churnSteps + k)
    leAt b 0 8 = h ∧ leAt b 8 1 = d.hostSteps ∧ (∀ k, k < d.hostSteps → bit (leAt b 9 1) k = (st k).fed.isSome) ∧
    (∀ k, k < d.hostSteps → leAt b (0x10 + 2 * k) 2 = if (st k).fed.isSome then (st k).tag.toNat else 0) ∧
    (Staged s d → StageSound s d → ∀ k n e r, k < d.hostSteps → d.hostRows[n]? = some r → e < d.outW →
      leIntAt b (32 + ((k * d.hostRows.length + n) * d.outW + e) * 2) 2 =
        if bit (st k).active.toNat r then elemAt s (d.outAddr s.sep.buf (d.churnSteps + k) r e) else d.hold.toInt))

/-- Beats and rows: no beat is made where none is due; a due beat of a tile group goes to the model in whose span of the hop it lies, and to no other,
and one that this model cannot make is lost to it for the hop; the active rows of a step take their inputs from staging, 0 where nothing was staged; a
row is paused, ended, started or
updated as RESET and ACTIVE say (09 R219, R223). -/
def Obligations.SeparatorBeats : Prop :=
  (∀ (tile : Nat) (err : SepErr) (s : State), s.beatDue tile = false → exec (.sepBeat tile err) s = .next s) ∧
  (∀ (tile : Nat) (err : SepErr) (s : State) (m f : Nat) (d : ModelDesc), s.beatDue tile = true → (m, d, f) ∈ s.spans tile →
    f ≤ s.groupBeats tile → s.groupBeats tile < f + d.span → ∃ t : State, exec (.sepBeat tile err) s = .next t ∧
    (∀ j, j ≠ m → t.model j = s.model j) ∧ (t.tile (s.leadTile tile)).beats = s.groupBeats tile + 1 ∧
    t.churn = s.churn ∧ t.audio = s.audio ∧ t.sep.buf = s.sep.buf ∧ t.hostMem = s.hostMem ∧
    ((s.beatsRun m d = false ∨ (s.model m).miss = true) → t.model m = { s.model m with miss := true } ∧ t.mem = s.mem) ∧
    (s.beatsRun m d = true → (s.model m).miss = false → (t.model m).beat = (s.model m).beat + 1 ∧
      ∀ r e, (s.model m).beat < (s.model m).cur.length → (s.model m).beat < d.steps → err.staging = [] → Staged s d → StageSound s d → r < 64 → e < d.inW →
        let st := nth {} (s.model m).cur (s.model m).beat
        bit st.active.toNat r = true → nth 0 (tget [] (t.model m).pipe r) e =
          if st.cov.any (fun c => c.1 = r ∧ c.2.1 ≤ e ∧ e < c.2.1 + c.2.2) then elemAt s (d.inAddr (!s.sep.buf) (s.model m).beat r e) else 0)) ∧
  (∀ (m k r : Nat) (l : Layer) (err : SepErr) (st : StepRec) (s : State), bit st.active.toNat r = false →
    (bit st.reset.toNat r = false → s.layerRow m k l err st r = s) ∧
    (bit st.reset.toNat r = true → r < 64 → l.stFirst + l.stW ≤ 512 → let t := s.layerRow m k l err st r
      t.accRow l r = List.replicate l.stW 0 ∧ (∀ i, i < r * 512 + l.stFirst ∨ r * 512 + l.stFirst + l.stW ≤ i →
        tget 0 (t.tile l.tile).acc i = tget 0 (s.tile l.tile).acc i) ∧ (∀ j, t.model j = s.model j) ∧ t.mem = s.mem)) ∧
  (∀ (m k r : Nat) (l : Layer) (err : SepErr) (st : StepRec) (s : State), bit st.active.toNat r = true → r < 64 → l.stFirst + l.stW ≤ 512 →
    let h := if bit st.reset.toNat r then List.replicate l.stW 0 else s.accRow l r
    let y := (s.layerEnv m k l err).row (tget [] (s.model m).pipe (k * 64 + r)) h
    let t := s.layerRow m k l err st r
    t.accRow l r = y.1 ∧ tget [] (t.model m).pipe ((k + 1) * 64 + r) = y.2.1 ∧
    (∀ i, i ≠ (k + 1) * 64 + r → tget [] (t.model m).pipe i = tget [] (s.model m).pipe i) ∧ (∀ j, j ≠ m → t.model j = s.model j) ∧ t.mem = s.mem)

/-- The arithmetic of a row: exact dot products, rounded to nearest with ties away from zero, saturated to 16 bits and the state to 48; the
lookup interpolates between the entry's value and its slope and clamps to 16 unsigned bits; a saturation counts once for each value it changed,
a lookup that clamps does not count (09 R217, R218). -/
def Obligations.SeparatorArithmetic : Prop :=
  (∀ (entry : Nat → Nat) (z : Int), -32768 ≤ z → z ≤ 32767 →
    let u := (z + 32768).toNat
    let w := entry (u / 64)
    ∃ r, Nearest ((BitVec.ofNat 16 (w / 65536)).toInt * ((u % 64 : Nat) : Int)) 6 r ∧
      lutAt entry z = max 0 (min (((w % 65536 : Nat) : Int) + r) 65535)) ∧
  (∀ (n : LayerEnv) (o e : Nat) (x : List Int),
    n.dot o e x = ((List.range x.length).map fun i => n.weight (o + i * e) e * nth 0 x i).sum) ∧
  (∀ (n : LayerEnv) (x : List Int) (j : Nat) (h : Int),
    let l := n.l
    let sat16 (v : Int) : Int := max (-32768) (min v 32767)
    let o2 := l.stW * l.inW * l.eIn
    let o3 := o2 + l.stW * l.inW * l.eD
    let p := n.bias j + n.dot (j * l.inW * l.eIn) l.eIn x
    ∃ zd zg dh v, Nearest (n.bias (l.stW + j) + n.dot (o2 + j * l.inW * l.eD) l.eD x) l.shD zd ∧
      Nearest (n.bias (2 * l.stW + j) + n.dot (o3 + j * l.inW * l.eG) l.eG x) l.shG zg ∧
      (let a := lutAt n.lutA (sat16 zd)
       let g := lutAt n.lutG (sat16 zg)
       let h1 := max (-(2 ^ 47)) (min (p + dh) (2 ^ 47 - 1))
       Nearest ((h - p) * a) 16 dh ∧ Nearest (h1 * g) (16 + l.shH) v ∧
       n.channel x j h = (h1, sat16 v, (if sat16 zd = zd then 0 else 1) + (if sat16 zg = zg then 0 else 1)
         + (if h1 = p + dh then 0 else 1) + (if sat16 v = v then 0 else 1)))) ∧
  (∀ (n : LayerEnv) (x v : List Int) (k : Nat),
    let l := n.l
    let o4 := l.stW * l.inW * (l.eIn + l.eD + l.eG)
    ∃ r, Nearest (n.bias (3 * l.stW + k) + n.dot (o4 + k * l.stW * l.eOut) l.eOut v) l.shO r ∧
      (n.output x v k).1 = max (-32768) (min (if l.resid then r + nth 0 x k else r) 32767))

/-- Self-tests: SEP_TILE needs a tile that is on and unused, loses its words and quiesces the tile; its end writes the numbers of failures
and advances the epoch; APLL_CAL ends IN_USE; the others run once on a unit at a time; a calibration sets code and tick on an occasion that is
due; the peek of a tile gives its 512 accumulators of a row as 48-bit values (13 R329, 17 R425, R426). -/
def Obligations.SelfTests : Prop :=
  (∀ (ring : Nat) (s : State) (q : Req), (s.ring ring).oldestTest 2 = some q → q.desc.unit < 8 →
    let i := q.desc.unit
    ((s.domOn (40 + i) = false ∨ s.tileUsed i = true ∨ (s.running 2 i).isSome = true) →
      exec (.sepTile ring) s = .next (s.finish ring q.id { status := 8, reason := BitVec.ofNat 16 (0x2880 + i) })) ∧
    (s.domOn (40 + i) = true → s.tileUsed i = false → s.running 2 i = none → ∃ t : State, exec (.sepTile ring) s = .next t ∧
      t.tests = s.tests ++ [{ kind := 2, inst := i, ring := ring, id := q.id, addr := q.desc.addr, arg2 := q.desc.arg2, start := s.time.tick }] ∧
      t.offline 0x28 (0x80 + i) = true ∧ (t.tile i).acc = [] ∧ (t.tile i).bias = [] ∧
      (∀ a, 0x50000000 + i * 0x200000 ≤ a → a < 0x50000000 + (i + 1) * 0x200000 → byteAt t.mem a = 0) ∧
      (∀ a, 0x51000000 + i * 0x2000 ≤ a → a < 0x51000000 + (i + 1) * 0x2000 → byteAt t.mem a = 0) ∧
      (∀ a, (a < 0x50000000 + i * 0x200000 ∨ 0x50000000 + (i + 1) * 0x200000 ≤ a) →
        (a < 0x51000000 + i * 0x2000 ∨ 0x51000000 + (i + 1) * 0x2000 ≤ a) → byteAt t.mem a = byteAt s.mem a))) ∧
  (∀ (tile : Nat) (w a : BitVec 32) (pass : Bool) (s : State) (r : TestRun), s.running 2 tile = some r → ∃ u : State, exec (.sepTileEnd tile ⟨w, a⟩ pass) s =
      .next (u.finishWrite r.ring r.id r.addr.toNat (leBytes 4 (if pass = true ∧ w = 0 ∧ a = 0 then 0 else 1) ++ leBytes 4 w.toNat ++ leBytes 4 a.toNat
        ++ [0, 0, 0, 0]) { status := 0 }) ∧
    u.tests = s.tests.filter (fun x => x != r) ∧ (u.unitOf 0x28 (0x80 + tile)).epoch = (s.unitOf 0x28 (0x80 + tile)).epoch + 1 ∧
    u.offline 0x28 (0x80 + tile) = false ∧ u.mem = s.mem) ∧
  (∀ (ring : Nat) (s : State) (q : Req), (s.ring ring).oldestTest 3 = some q →
    exec (.apllCal ring) s = .next (s.finish ring q.id { status := 8, reason := 0x0200 })) ∧
  (∀ (ring : Nat) (s : State) (q : Req) (k c : Nat) (i : Instr), (k = 4 ∧ c = 0x4100 ∧ i = .herdCal ring) ∨ (k = 5 ∧ c = 0x2000 ∧ i = .churnPeek ring) ∨
      (k = 6 ∧ c = 0x2880 ∧ i = .sepPeek ring) → (s.ring ring).oldestTest k = some q → q.desc.unit < 8 →
    ((s.running k q.desc.unit).isSome = true →
      exec i s = .next (s.finish ring q.id { status := 8, reason := BitVec.ofNat 16 (c + q.desc.unit) })) ∧
    (s.running k q.desc.unit = none → ∃ t : State, exec i s = .next t ∧ t.tests = s.tests ++
      [{ kind := k, inst := q.desc.unit, ring := ring, id := q.id, addr := q.desc.addr, arg2 := q.desc.arg2, start := s.time.tick }] ∧
      t.mem = s.mem ∧ t.hostMem = s.hostMem ∧ t.units = s.units)) ∧
  (∀ (port : Nat) (rx tx : BitVec 7) (limit : Bool) (s : State), port < 2 → s.herdFree port = true → s.candidate port = none →
    let since := max (s.herd0 port).calAt.toNat ((s.herd0 port).started.getD 0).toNat
    (s.running 4 port = none → s.time.tick.toNat < since + 48000 → exec (.phyCalibration port rx tx limit) s = .next s) ∧
    (s.running 4 port = none → since + 48000 ≤ s.time.tick.toNat → ∃ t : State, exec (.phyCalibration port rx tx limit) s = .next t ∧
      t.herd0 port = { s.herd0 port with calCode := BitVec.ofNat 32 (rx.toNat + 256 * tx.toNat), calAt := s.time.tick } ∧ t.host = s.host) ∧
    (∀ r, s.running 4 port = some r → ∃ u : State, exec (.phyCalibration port rx tx limit) s =
        .next (u.finishWrite r.ring r.id r.addr.toNat (leBytes 4 (if limit then 1 else 0) ++ leBytes 4 (rx.toNat + 256 * tx.toNat)
          ++ leBytes 8 s.time.tick.toNat) { status := 0 }) ∧
      u.tests = s.tests.filter (fun x => x != r) ∧ (u.herd0 port).calCode = BitVec.ofNat 32 (rx.toNat + 256 * tx.toNat) ∧
      (u.herd0 port).calAt = s.time.tick)) ∧
  (∀ (tile : Nat) (s : State) (r : TestRun), s.time.ckeOff = false → s.running 6 tile = some r →
    (s.sep.hopStart.toNat ≤ r.start.toNat → exec (.sepPeekSnapshot tile) s = .next s) ∧
    (r.start.toNat < s.sep.hopStart.toNat → s.spansEnded tile = true → ∃ b : List Byte, b.length = 3072 ∧
      (∀ j, j < 512 → leAt b (6 * j) 6 = (tget 0 (s.tile tile).acc (r.arg2.toNat % 64 * 512 + j)).toNat) ∧
      exec (.sepPeekSnapshot tile) s =
        .next ((s.setTests (s.tests.filter fun x => x != r)).finishWrite r.ring r.id r.addr.toNat b { status := 0 })))

/-! ### Resets, boot, the PCIe link -/

namespace Sys2Proof.Said

/-- What a chip reset leaves of a state: TICK, the barrier link and the KF-7110, the AON SRAM, the causes and the settings of the barrier link
stay; every other setting is at its default, the profile is Full, the queue of commits empty, and no domain but Debug on. -/
def ChipReset (s t : State) (cause : Nat) : Prop :=
  t.time.tick = s.time.tick ∧ t.time.started = s.time.started ∧ t.pwr.profile = 0 ∧ t.psu = s.psu ∧ t.kf = s.kf ∧ t.cmt.queue = [] ∧
  t.cmt.held = [] ∧ t.boot.cause = s.boot.cause ||| BitVec.ofNat 4 (2 ^ cause) ∧ t.boot.inReset = true ∧ t.hostMem = s.hostMem ∧
  (∀ a, byteAt t.mem a = if 0x01000000 ≤ a ∧ a < 0x01040000 then byteAt s.mem a else 0) ∧
  (∀ k, cfgOf t.cmt.cfg k = if sid 3 0x40 0x20 ≤ k ∧ k ≤ sid 3 0x40 0x32 then cfgOf s.cmt.cfg k else cfgOf [] k) ∧
  (∀ d, d ≠ 60 → t.domOn d = false) ∧ t.domOn 60 = (decide (cause = 3) && s.domOn 60) ∧ t.core 0 = {} ∧ (∀ g, (t.ring g).on = false)

/-- Commands that reset the chip, with their cause. -/
def ResetBy (s : State) (i : Instr) (cause : Nat) : Prop :=
  (i = .chipReset ∧ cause = 1 ∧ s.boot.aonOn = true) ∨
  (∃ p v, i = .sysResetCtlChip p v ∧ cause = 2 ∧ s.pathUp p = true ∧ (∀ f, p ≠ .vf f) ∧ v.toNat % 2 ^ 16 = 0x5EED ∧ v.toNat.testBit 16 = true) ∨
  (i = .ndmreset ∧ cause = 3 ∧ s.domOn 60 = true ∧ s.boot.debugClosed = false)

end Sys2Proof.Said

/-- Resets: every chip reset leaves what R415 and R416 say, the one by ndmreset the Debug domain too; a wrong key or a virtual function resets
nothing. A lost supply loses everything but flash, fuses and what lies outside, a flash operation that had ended standing. RESET_OUT_N goes
high after a release. The start-up samples the straps, takes DEBUG_DIS and SECURE_EN from the fuses and waits, fails or goes on as the boot
mode says (15 R395, 16 R407, 17 R415 to R417, R430, R433). -/
def Obligations.ChipAndSupplyResets : Prop :=
  (∀ (i : Instr) (cause : Nat) (s : State), ResetBy s i cause → ∃ t : State, exec i s = .next t ∧ ChipReset s t cause ∧
    (cause = 3 → t.dbg = s.dbg)) ∧
  (∀ (p : Path) (v : BitVec 32) (s : State), (v.toNat % 2 ^ 16 ≠ 0x5EED ∨ v.toNat.testBit 16 = false ∨ ∃ f, p = .vf f) →
    exec (.sysResetCtlChip p v) s = .next s) ∧
  (∀ (i : Instr) (s : State), i = .aonPowerLoss ∨ i = .supplyCollapse true ∨ i = .supplyCollapse false → s.boot.aonOn = true →
    ∃ t : State, exec i s = .next t ∧ t.boot.aonOn = false ∧ t.time.tick = 0 ∧ t.mem = [] ∧ t.cmt.cfg = [] ∧ t.psu = State.reset.psu ∧
      t.kf = s.kf ∧ t.hostMem = s.hostMem ∧ t.boot.fuses = s.boot.fuses ∧ (s.nv.busy = none → t.nv.flash = s.nv.flash) ∧
      (∀ o, i = .supplyCollapse true → s.nv.busy = some o → t.nv.flash = o.apply s.nv.flash)) ∧
  (∀ (s : State), s.boot.aonOn = true → s.boot.inReset = false → exec .resetOutRelease s = .next (s.setBoot { s.boot with resetOut := true })) ∧
  (∀ (env : BootEnv) (s : State), s.boot.aonOn = true → s.boot.inReset = true → ∃ t : State, exec (.chipResetRelease env) s = .next t ∧
    t.boot.mode = env.mode ∧ t.boot.inReset = false ∧ t.boot.secure = s.boot.fuses.secureEn ∧ t.boot.debugClosed = s.boot.fuses.debugDis ∧
    t.time.tick = s.time.tick ∧ t.domOn 19 = true ∧ t.psu = s.psu ∧ t.kf = s.kf ∧
    (env.apllOk = true → t.clk.state = .locked ∧ t.time.started = true ∧
      (env.mode = 1 → t.boot.phase = 1) ∧ (env.mode = 7 → t.boot.phase = 2) ∧
      (3 ≤ env.mode.toNat → env.mode ≠ 7 → t.boot.phase = 4 ∧ t.boot.err = 1 ∧ ∀ c, c < 4 → t.domOn c = false) ∧
      ((env.mode = 0 ∨ env.mode = 2) → flashFits env.flashMib = false → t.boot.phase = 4 ∧ t.boot.err = 4 ∧ ∀ c, c < 4 → t.domOn c = false))) ∧
  (∀ (env : BootEnv) (s : State), s.boot.inReset = false → exec (.chipResetRelease env) s = .next s)

/-- Boot from the window, core release, PERST_N, link up and down, FLR and configuration requests: a good image starts core 0 at ENTRY, a bad
one clears the window and waits again with ERR; a core whose RUN bit rises starts at SYS_CORE_ENTRY in M mode; standalone mode ignores PERST_N,
a host mode resets every function; a link that comes up has a speed of 1 to 3 and a width of 1, 2 or 4 lanes, one that goes down resets every function and trains
again; an FLR resets its function's rings, enable, vectors, configuration space and commits and no other's, what its rings had fetched ending without
completion; a read gives the identifiers, a function that does not exist none, and NumVFs takes a value while VF Enable is 0 (04 R67, R95, R96, 17 R416, R420, R421, R431, R434,
R435, R436, 19 R452). -/
def Obligations.BootAndLink : Prop :=
  (∀ (v : BitVec 32) (env : BootEnv) (s : State), (v.toNat.testBit 0 = false ∨ s.boot.phase ≠ 1 ∨ s.boot.mode ≠ 1) →
    exec (.sysBootGo v env) s = .next s) ∧
  (∀ (v : BitVec 32) (env : BootEnv) (s : State), v.toNat.testBit 0 = true → s.domOn 59 = true → s.boot.phase = 1 → s.boot.mode = 1 →
    let h := s.busBytes 0x01000000 256
    let p := s.busBytes 0x01000100 (leAt h 8 4)
    ((headerOk h = false ∨ 245504 < leAt h 8 4 ∨ s.boot.fuses.accepts h = false) → ∃ t : State, exec (.sysBootGo v env) s = .next t ∧
      t.boot.phase = 1 ∧ t.boot.err = 2 ∧ (∀ c, t.core c = s.core c) ∧
      (∀ a, byteAt t.mem a = if 0x01000000 ≤ a ∧ a < 0x01040000 then 0 else byteAt s.mem a)) ∧
    (headerOk h = true → leAt h 8 4 ≤ 245504 → s.boot.fuses.accepts h = true → leAt h 0x10 8 < 0x80000000 → ∃ t : State,
      exec (.sysBootGo v env) s = .next t ∧
      (Config.ecdsaOk (sub h 0x40 64) (sub h 0x80 64) (h.take 0x80 ++ p) = true → t.boot.phase = 3 ∧ t.boot.err = 0 ∧
        t.boot.svn = BitVec.ofNat 6 (leAt h 0xC 4) ∧ (t.core 0).run = .running ∧ (t.core 0).pc = BitVec.ofNat 64 (leAt h 0x18 8)) ∧
      (Config.ecdsaOk (sub h 0x40 64) (sub h 0x80 64) (h.take 0x80 ++ p) = false → t.boot.phase = 1 ∧ t.boot.err = 2 ∧
        ∀ c, c < 4 → (t.core c).run = (s.core c).run))) ∧
  (∀ (f : Nat) (v : BitVec 32) (s : State), exec (.sysCoreRun (.vf f) v) s = .next s) ∧
  (∀ (p : Path) (v : BitVec 32) (s : State), s.pathUp p = true → (∀ f, p ≠ .vf f) → s.domOn 6 = true → ∃ t : State,
    exec (.sysCoreRun p v) s = .next t ∧ t.cc.coreRun = BitVec.ofNat 4 (v.toNat % 16 / 2 * 2) ∧ t.core 0 = s.core 0 ∧
    ∀ c, 1 ≤ c → c < 4 →
      (v.toNat.testBit c = true → s.cc.coreRun.toNat.testBit c = false → s.domOn c = true → (s.core c).run = .inReset →
        t.core c = { run := .running, pc := s.cc.entry.setWidth 64 } ∧ (t.core c).mode = 3) ∧
      ((v.toNat.testBit c = false ∨ s.cc.coreRun.toNat.testBit c = true) → t.core c = s.core c)) ∧
  (∀ (s : State), s.hostMode = false → exec .perstN s = .next (s.setPcie { s.pcie with perst := true }) ∧
    exec .perstNRelease s = .next (s.setPcie { s.pcie with perst := false })) ∧
  (∀ (s : State), s.hostMode = true → s.boot.inReset = false →
    (∃ t : State, exec .perstN s = .next t ∧ t.pcie = { perst := true } ∧ (∀ g, g < 128 → (t.ring g).on = false ∧ ∀ q ∈ (t.ring g).reqs, q.drop = true) ∧
      (∀ f, f < 16 → (t.fnOf f).enable = false) ∧ (∀ k, t.vec k = {}) ∧ t.host.wins = [] ∧ t.time.tick = s.time.tick ∧
      (s.boot.mode = 1 → s.boot.phase = 1 → t.boot.phase = 0 ∧ ∀ a, 0x01000000 ≤ a → a < 0x01040000 → byteAt t.mem a = 0)) ∧
    (s.domOn 9 = true → ∃ t : State, exec .perstNRelease s = .next t ∧ t.pcie.training = true ∧ t.pcie.perst = false ∧ t.mem = s.mem ∧
      t.host = s.host)) ∧
  (∀ (s : State), s.hostMode = true → s.domOn 9 = true → s.pcie.perst = false →
    (s.pcie.training = true → ∃ v w, 1 ≤ v ∧ v ≤ 3 ∧ w ∈ [1, 2, 4] ∧
      exec .dlUp s = .next (s.draw.1.setPcie { s.pcie with linkUp := true, training := false, speed := v, width := w })) ∧
    (s.pcie.linkUp = true → ∃ t : State, exec .dlDown s = .next t ∧ t.pcie.linkUp = false ∧ t.pcie.training = true ∧
      (∀ g, g < 128 → (t.ring g).on = false ∧ ∀ q ∈ (t.ring g).reqs, q.drop = true) ∧ (∀ f, f < 16 → (t.fnOf f).enable = false) ∧ t.host.wins = [])) ∧
  (∀ (f : Nat) (s : State), s.hostMode = true → s.pcieUp = true → s.fnExists f = true → 0 < f → f < 16 → ∃ t : State, exec (.flr f) s = .next t ∧
    (∀ g, g / 8 = f → (t.ring g).on = false ∧ ∀ q ∈ (t.ring g).reqs, q.drop = true) ∧ (∀ g, g / 8 ≠ f → t.ring g = s.ring g) ∧ (t.fnOf f).enable = false ∧
    (∀ k, k ≠ f → t.fnOf k = s.fnOf k) ∧ (∀ c ∈ t.cmt.queue, c.fn ≠ some f) ∧ (∀ v, v < 16 → t.vec (16 * f + v) = {}) ∧
    (∀ a, tget 0 t.pcie.cfg a = if a / 4096 = f then 0 else tget 0 s.pcie.cfg a) ∧ t.pcie.vfEnable = s.pcie.vfEnable ∧
    t.host.wins = s.host.wins) ∧
  (∀ (f off : Nat) (w : Bool) (v : BitVec 32) (s : State), s.fnExists f = false → exec (.configurationRequest f off w v) s = .next s) ∧
  (∀ (s : State), s.hostMode = true → s.pcieUp = true →
    (tget 0 s.pcie.cfg 0 = 0 → exec (.configurationRequest 0 0 false 0) s = .next (s.setPcie { s.pcie with reply := 0x71601D2A })) ∧
    (∀ f, 0 < f → s.fnExists f = true → exec (.configurationRequest f 0 false 0) s = .next (s.setPcie { s.pcie with reply := 0xFFFFFFFF }) ∧
      (tget 0 s.pcie.cfg (f * 4096 + 0x2C) = 0 →
        exec (.configurationRequest f 0x2C false 0) s = .next (s.setPcie { s.pcie with reply := 0x71681D2A }))) ∧
    (∀ (v : BitVec 32), ∃ t : State, exec (.configurationRequest 0 0 true v) s = .next t ∧ t.confRead 0 0 = 0x71601D2A ∧ t.host = s.host ∧
      t.mem = s.mem) ∧
    (∀ (v : BitVec 32), s.pcie.vfEnable = false → ∃ t : State, exec (.configurationRequest 0 0x170 true v) s = .next t ∧
      t.pcie.numVfs = v.setWidth 16 ∧ t.host = s.host))

/-! ### The barrier link -/

/-- The CRC of the barrier link: polynomial 0x07, initial value 0, bits from the most significant of each byte, no reflection and no final XOR:
the message, eight zeros appended, differs from a multiple of x^8 + x^2 + x + 1 over GF(2) by the CRC; of the nine bytes "123456789" it is
0xF4; a frame is good when its SYNC is its lane's and its last byte is the CRC of bytes 0 to 6 (15 R372, R373). -/
def Obligations.LinkCrc : Prop :=
  let times (a b : Nat) (n : Nat) : Nat := (List.range n).foldl (fun r k => if a.testBit k then r ^^^ (b * 2 ^ k) else r) 0
  let value (l : List Byte) : Nat := l.foldl (fun n v => 256 * n + v.toNat) 0
  (∀ l : List Byte, crc8 l < 256 ∧ ∃ q n, value l * 256 ^^^ crc8 l = times q 0x107 n) ∧
  crc8 [0x31, 0x32, 0x33, 0x34, 0x35, 0x36, 0x37, 0x38, 0x39] = 0xF4 ∧
  (∀ (sync : Nat) (w : BitVec 64), frameGood sync w = true ↔
    (w.toNat % 16 = sync ∧ w.toNat / 2 ^ 56 = crc8 ((List.range 7).map fun k => BitVec.ofNat 8 (w.toNat / 256 ^ k))))

/-- The device's side: a bad slot is counted, the fourth in a row takes the link down; the sixteenth good frame brings it up, LINKED and SAFE
follow what a good frame reports; MAINS_LOST follows MAINS_OK and a link that goes down, and falls on the return; the hand-over presets the
compensator; the compensator takes one clamped step in LINKED, holds PERIOD_NOW elsewhere and freezes in a burst; the frame carries what was
computed and is good; overvoltage stops switching; hold-up follows its formula; the reserve follows the comparator (15 R374, R379, R382, R383,
R386, R387, R389). -/
def Obligations.BarrierLink : Prop :=
  (∀ (i : Instr) (s : State), s.boot.aonOn = true → ((∃ w, i = .uplinkFrame w ∧ frameGood 0xA w = false) ∨ i = .badSlot true) →
    ∃ t : State, exec i s = .next t ∧ t.psu.linkBad = satAdd32 s.psu.linkBad 1 ∧ t.psu.goodRun = 0 ∧ t.kf = s.kf ∧ t.psu.up = s.psu.up ∧
      (s.psu.badRun < 3 → t.psu.link = s.psu.link ∧ Quiet s t) ∧
      (3 ≤ s.psu.badRun → t.psu.link = 0 ∧ (s.psu.link ≠ 0 → ev 0x6B 0x340 ∈ t.host.posted ∧ t.psu.mainsLost = true ∧ t.psu.holdup = 0))) ∧
  (∀ (w : BitVec 64) (s : State), s.boot.aonOn = true → frameGood 0xA w = true → ∃ t : State, exec (.uplinkFrame w) s = .next t ∧
    let st := fld w.toNat 8 3
    t.psu.up = w ∧ t.psu.badRun = 0 ∧ t.kf = s.kf ∧
    (st = 2 → t.psu.link = 2 ∧ (s.psu.link ≠ 2 → t.psu.ctrl = true ∧ ev 0x6A 0x340 ∈ t.host.posted)) ∧
    (st = 3 → t.psu.link = 3) ∧
    (st ≠ 2 → st ≠ 3 → s.psu.link = 0 → t.psu.link = if 15 ≤ s.psu.goodRun then 1 else 0) ∧
    (w.toNat.testBit 11 = false → t.psu.mainsLost = true ∧ (s.psu.mainsLost = false → ev 0x68 0x340 ∈ t.host.posted)) ∧
    (w.toNat.testBit 11 = true → t.psu.mainsLost = s.psu.mainsLost) ∧
    (s.psu.link = 3 → st = 3 → s.psu.ctrl = false → 63 ≤ s.psu.goodRun → 11400 ≤ s.psu.vbus → s.psu.vbus ≤ 12600 →
      t.psu.ctrl = true ∧ t.psu.y1 = t.periodNow ∧ t.psu.y2 = t.periodNow ∧ t.psu.e1 = 0 ∧ t.psu.e2 = 0) ∧
    (s.psu.link = 3 → st = 3 → s.psu.ctrl = false → s.psu.goodRun < 63 → t.psu.ctrl = false)) ∧
  (∀ (s : State), s.boot.aonOn = true → s.psu.mainsLost = true → s.psu.link = 2 → bit s.psu.up.toNat 11 = true → s.mainsHeld = true → ∃ t : State,
    exec .mainsReturn s = .next t ∧ t.psu.mainsLost = false ∧ ev 0x69 0x340 ∈ t.host.posted ∧ t.psu.link = 2) ∧
  (∀ (v : Nat) (good : Bool) (s : State), s.boot.aonOn = true → s.psu.pidx < 6 → ∃ t : State, exec (.downlinkFrame v good) s = .next t ∧
    let lo : Rat := ((s.psuCfg 0x2B : Nat) : Int)
    let hi : Rat := ((s.psuCfg 0x2C : Nat) : Int)
    let e : Int := s.nextVref - (v : Int)
    let raw : Rat := s.coefOf 0x21 * (e : Rat) + s.coefOf 0x22 * (s.psu.e1 : Rat) + s.coefOf 0x23 * (s.psu.e2 : Rat)
      - s.coefOf 0x24 * s.psu.y1 - s.coefOf 0x25 * s.psu.y2
    let y : Rat := if raw < lo then lo else if hi < raw then hi else raw
    t.psu.vbus = v ∧ t.psu.link = s.psu.link ∧ t.psu.ctrl = s.psu.ctrl ∧ t.psu.seq = s.psu.seq + 1 ∧ t.psu.pidx = (s.psu.pidx + 1) % 6 ∧
    (s.psu.link = 2 → t.psu.vref = s.nextVref ∧ (s.psu.burst = false ∨ 0 ≤ e → t.psu.y1 = y ∧ t.psu.y2 = s.psu.y1 ∧ t.psu.e1 = e ∧
        t.psu.e2 = s.psu.e1 ∧ t.psu.burst = decide (y = lo ∧ e < -((s.psuCfg 0x26 : Nat) : Int))) ∧
      (s.psu.burst = true → e < 0 → t.psu.y1 = s.psu.y1 ∧ t.psu.y2 = s.psu.y2 ∧ t.psu.e1 = s.psu.e1 ∧ t.psu.e2 = s.psu.e2 ∧
        t.psu.burst = true)) ∧
    (s.psu.link ≠ 2 → t.psu.y1 = s.periodNow ∧ t.psu.y2 = s.periodNow ∧ t.psu.e1 = 0 ∧ t.psu.e2 = 0) ∧
    (13800 < v → t.psu.run = false) ∧ (t.psu.burst = true → t.psu.run = false) ∧
    (v < s.psuCfg 0x20 → v ≤ 13800 → t.psu.burst = false → t.psu.run = true) ∧
    frameGood 5 t.psu.last = true ∧ fld t.psu.last.toNat 4 4 = s.psu.seq.toNat ∧ t.psu.last.toNat.testBit 8 = t.psu.run ∧
    t.psu.last.toNat.testBit 9 = s.psu.ctrl ∧ fld t.psu.last.toNat 12 16 = (t.psu.y1 + 1 / 2).floor.toNat % 65536 ∧
    fld t.psu.last.toNat 28 4 = s.psu.pidx) ∧
  (∀ (p i v : Nat) (s : State), s.boot.aonOn = true → ∃ t : State, exec (.holdupEstimate p i v) s = .next t ∧ t.psu.iout = i ∧
    let vb := fld s.psu.up.toNat 16 10
    let x := s.psuCfg 0x2E * s.psuCfg 0x2D * (vb * vb - s.psuCfg 0x29 * s.psuCfg 0x29)
    let extra := if s.psuCfg 0x2F = 1 ∧ s.psu.rsvEn = true ∧ s.psuCfg 0x30 ≤ v then 1000 * s.psuCfg 0x31 else 0
    (s.psu.link = 0 ∨ s.psuCfg 0x2D = 0 ∨ vb ≤ s.psuCfg 0x29 → t.psu.holdup.toNat = min extra 0xFFFFFFFF) ∧
    (s.psu.link ≠ 0 → s.psuCfg 0x2D ≠ 0 → s.psuCfg 0x29 < vb → ∃ k, t.psu.holdup.toNat = min (k + extra) 0xFFFFFFFF ∧
      k * (8 * max p 1000) ≤ x ∧ x < (k + 1) * (8 * max p 1000))) ∧
  (∀ (v : Nat) (s : State), s.boot.aonOn = true → v < 11000 → s.psuCfg 0x2F = 1 → s.psu.rsvEn = false → ∃ t : State,
    exec (.rsvComparator v) s = .next t ∧ t.psu.rsvEn = true ∧ Posts s t 0x6D 0x340) ∧
  (∀ (v : Nat) (s : State), s.boot.aonOn = true → s.psuCfg 0x2F = 0 → s.psu.rsvEn = false → ∃ t : State,
    exec (.rsvComparator v) s = .next t ∧ t.psu.rsvEn = false ∧ Quiet s t) ∧
  (∀ (v : Nat) (s : State), 11000 ≤ v → exec (.rsvComparator v) s = .next s)

/-- MAINS_OK of the KF-7110: a candidate is a crossing whose half-cycle peaked above 100 V; it is valid 7.5 to 11.0 ms after the candidate
before it, whether or not that one was valid; the first after START and one after more than 11.0 ms are not valid but start a sequence; the
fourth valid crossing in a row brings MAINS_OK back, so a steady line brings it back at its fifth candidate; 12 ms without a valid crossing
take it away and stop the PFC (15 R385). -/
def Obligations.MainsOk : Prop :=
  (∀ (dt peak : Nat) (s : State), peak ≤ 100 → exec (.zeroCrossing dt peak) s = .next s) ∧
  (∀ (dt peak : Nat) (s : State), s.kf.on = true → 100 < peak → ∃ k : KfSt, exec (.zeroCrossing dt peak) s = .next (s.setKf k) ∧
    k.anyCand = true ∧ k.st = s.kf.st ∧ k.period = s.kf.period ∧ k.run = s.kf.run ∧
    k.valid = (if s.kf.anyCand = true ∧ 7500 ≤ dt ∧ dt ≤ 11000 then s.kf.valid + 1 else 0) ∧
    (k.valid = 4 → k.mainsOk = true) ∧ (k.valid < 4 → k.mainsOk = s.kf.mainsOk)) ∧
  (∀ (s : State), ((s.kf.start).anyCand = false) ∧ (s.kf.start).valid = 0 ∧ (s.kf.start).st = 0) ∧
  (∀ (s : State), s.kf.on = true → ∃ k : KfSt, exec .mainsOkTimeout s = .next (s.setKf k) ∧ k.mainsOk = false ∧ k.valid = 0 ∧ k.pfcOn = false ∧
    k.st = s.kf.st ∧ k.anyCand = s.kf.anyCand) ∧
  (∀ (d0 d1 d2 d3 d4 p : Nat) (s t1 t2 t3 t4 t5 : State), s.kf.on = true → s.kf.mainsOk = false → s.kf.st ≠ 4 → 11000 < d0 → 100 < p →
    (∀ d ∈ [d1, d2, d3, d4], 7500 ≤ d ∧ d ≤ 11000) → exec (.zeroCrossing d0 p) s = .next t1 → exec (.zeroCrossing d1 p) t1 = .next t2 →
    exec (.zeroCrossing d2 p) t2 = .next t3 → exec (.zeroCrossing d3 p) t3 = .next t4 → exec (.zeroCrossing d4 p) t4 = .next t5 →
    t4.kf.mainsOk = false ∧ t5.kf.mainsOk = true ∧ t5.kf.pfcOn = true)

/-- The KF-7110's other events: it starts at 16.0 V with default parameters, soft-starts at 360 V, goes to AUX, from SAFE_BURST to HOLDOFF
without frames and to START when the hold-off ends (and a hot die has cooled); the 64th limited cycle, the 256th correction, a die above
150 °C and a bulk above 450 V lead to HOLDOFF with their FAULT; a bulk that is too low leads to START; VCC below 9.5 V turns it off with
FAULT 4; four bad slots in LINKED lead to SAFE_BURST; a frame on its own timer is good and counts a bad slot (15 R370, R372, R376 to R378, R380,
R381). -/
def Obligations.PrimaryCompanion : Prop :=
  (∀ (mv : Nat) (s : State), (s.kf.on = true ∨ mv < 16000) → exec (.vccStart mv) s = .next s) ∧
  (∀ (mv : Nat) (s : State), s.kf.on = false → 16000 ≤ mv → ∃ k : KfSt, exec (.vccStart mv) s = .next (s.setKf k) ∧ k.on = true ∧ k.st = 0 ∧
    k.run = false ∧ k.mainsOk = false ∧ k.fault = s.kf.fault ∧ k.par 0 = 200 ∧ k.par 1 = 780 ∧ k.par 2 = 400 ∧ k.par 3 = 2500 ∧
    k.par 4 = 16000 ∧ k.par 5 = 600) ∧
  (∀ (v : Nat) (s : State), s.kf.on = true → s.kf.st = 0 → s.kf.soft = false → s.kf.mainsOk = true →
    (720 ≤ v → ∃ k : KfSt, exec (.llcSoftStart v) s = .next (s.setKf k) ∧ k.soft = true ∧ k.run = true ∧ k.st = 0 ∧ k.period.toNat = s.kf.par 3) ∧
    (v < 720 → exec (.llcSoftStart v) s = .next s)) ∧
  (∀ (s : State), s.kf.on = true → s.kf.st = 0 → s.kf.soft = true → ∃ k : KfSt, exec .softStartEnd s = .next (s.setKf k) ∧ k.st = 1 ∧
    k.soft = false ∧ k.fault = s.kf.fault ∧ k.run = s.kf.run) ∧
  (∀ (s : State), s.kf.on = true → s.kf.st = 3 → ∃ k : KfSt, exec .holdoff s = .next (s.setKf k) ∧ k.st = 4 ∧ k.fault = 3 ∧ k.run = false ∧
    k.pfcOn = false) ∧
  (∀ (temp : Int) (s : State), s.kf.on = true → s.kf.st = 4 →
    ((s.kf.hot = false ∨ temp < 250) → ∃ k : KfSt, exec (.holdoffEnd temp) s = .next (s.setKf k) ∧ k.st = 0 ∧ k.hot = false ∧
      k.fault = s.kf.fault ∧ k.run = false) ∧
    (s.kf.hot = true → 250 ≤ temp → exec (.holdoffEnd temp) s = .next s)) ∧
  (∀ (inRow : Bool) (s : State), s.kf.switching = false → exec (.ocpLimit inRow) s = .next s ∧ exec (.capacitiveMode inRow) s = .next s) ∧
  (∀ (inRow : Bool) (s : State), s.kf.switching = true →
    (∃ k : KfSt, exec (.ocpLimit inRow) s = .next (s.setKf k) ∧
      (if 64 ≤ (if inRow then s.kf.limRun + 1 else 1) then k.st = 4 ∧ k.fault = 1 ∧ k.run = false
       else k = { s.kf with limRun := if inRow then s.kf.limRun + 1 else 1, perNow := none })) ∧
    (∃ k : KfSt, exec (.capacitiveMode inRow) s = .next (s.setKf k) ∧
      (if 256 ≤ (if inRow then s.kf.capRun + 1 else 1) then k.st = 4 ∧ k.fault = 5 ∧ k.run = false
       else k.capRun = (if inRow then s.kf.capRun + 1 else 1) ∧ k.st = s.kf.st ∧ k.period = s.kf.period ∧ k.run = s.kf.run ∧
         (s.kf.st = 2 → k.perNow = some (BitVec.ofNat 16 (s.kf.period.toNat * 9 / 10)))))) ∧
  (∀ (temp : Int) (s : State), s.kf.on = true → (300 < temp → ∃ k : KfSt, exec (.overTemperature temp) s = .next (s.setKf k) ∧ k.st = 4 ∧
      k.fault = 2 ∧ k.hot = true ∧ k.run = false) ∧ (temp ≤ 300 → exec (.overTemperature temp) s = .next s)) ∧
  (∀ (mv : Nat) (s : State), s.kf.on = true → (mv < 9500 → ∃ k : KfSt, exec (.vccUvlo mv) s = .next (s.setKf k) ∧ k.on = false ∧ k.fault = 4 ∧
      k.run = false ∧ k.mainsOk = false) ∧ (9500 ≤ mv → exec (.vccUvlo mv) s = .next s)) ∧
  (∀ (v : Nat) (s : State), s.kf.on = true →
    (900 < v → ∃ k : KfSt, exec (.bulkOvp v) s = .next (s.setKf k) ∧ k.st = 4 ∧ k.fault = 6 ∧ k.run = false ∧ k.pfcOn = false) ∧
    (850 < v → v ≤ 900 → exec (.bulkOvp v) s = .next (s.setKf { s.kf with pfcHold := true })) ∧ (v ≤ 850 → exec (.bulkOvp v) s = .next s) ∧
    (v < 820 → exec (.bulkOvpRelease v) s = .next (s.setKf { s.kf with pfcHold := false })) ∧
    (820 ≤ v → exec (.bulkOvpRelease v) s = .next s)) ∧
  (∀ (v : Nat) (s : State), s.kf.switching = true → (v < s.kf.par 5 → ∃ k : KfSt, exec (.bulkUv v) s = .next (s.setKf k) ∧ k.st = 0 ∧
      k.run = false ∧ k.soft = false ∧ k.mainsOk = s.kf.mainsOk) ∧ (s.kf.par 5 ≤ v → exec (.bulkUv v) s = .next s)) ∧
  (∀ (s : State), s.kf.on = true → s.kf.st = 2 → ∃ k : KfSt, exec (.badSlot false) s = .next (s.setKf k) ∧
    (s.kf.bad < 3 → k = { s.kf with bad := s.kf.bad + 1, good1 := 0, good0 := 0 }) ∧
    (3 ≤ s.kf.bad → k.st = 3 ∧ k.fault = 3 ∧ k.period = s.kf.period ∧ k.run = s.kf.run)) ∧
  (∀ (s : State), s.kf.on = true → s.kf.st ≠ 2 → s.kf.st ≤ 4 → ∃ t : State, exec .uplinkSelfTimed s = .next t ∧ frameGood 0xA t.kf.last = true ∧
    fld t.kf.last.toNat 4 4 = s.kf.seq.toNat ∧ fld t.kf.last.toNat 8 3 = s.kf.st ∧ t.kf.last.toNat.testBit 11 = s.kf.mainsOk ∧
    t.kf.seq = s.kf.seq + 1 ∧ t.kf.bad = s.kf.bad + 1 ∧ t.kf.st = s.kf.st ∧ t.psu = s.psu)

/-! ### Registers, bus, debug -/

/-- Register writes: a path that is down writes nothing; a VF's page is the PF's page of that function and nothing else; in host modes cores and
debug write no page and no window; unassigned offsets ignore writes; the store registers keep their values while a commit is pending or a
blob held; a window's base reads back with its low 12 bits 0; RNG_CFG enables, disables or is ignored by the state of the ring; FN_CTRL.RESET
acts in standalone mode; error flags clear by writing 1; reads of SYS_TICK_LO and SYS_MTIME_LO latch, and within a tick do not go back behind an
earlier reading (the model's choice, log 86; 02 Fields, 04 R94, R99, 05 R120, 11 R293, 17 R436, 19 R448 to R451). -/
def Obligations.Registers : Prop :=
  (∀ (p : Path) (off : Nat) (v : BitVec 32) (s : State), s.pathUp p = false → exec (.regWrite p off v) s = .next s) ∧
  (∀ (f off : Nat) (v : BitVec 32) (s : State), f < 16 → s.pathUp (.vf f) = true →
    (off < 0x10000 → exec (.regWrite (.vf f) off v) s = exec (.regWrite .pf (0x100000 + f * 0x10000 + off) v) s) ∧
    (0x10000 ≤ off → exec (.regWrite (.vf f) off v) s = .next s)) ∧
  (∀ (p : Path) (off : Nat) (v : BitVec 32) (s : State), (p = .debug ∨ ∃ c, p = .core c) → s.standalone = false → 0x100000 ≤ off →
    off < 0x201000 → exec (.regWrite p off v) s = .next s) ∧
  (∀ (p : Path) (off : Nat) (v : BitVec 32) (s : State), (∀ f, p ≠ .vf f) →
    (0x8000 ≤ off ∧ off < 0x100000) ∨ (0x201000 ≤ off ∧ off < 0x400000) ∨ 0x840000 ≤ off → exec (.regWrite p off v) s = .next s) ∧
  (∀ (p : Path) (v : BitVec 32) (s : State), s.pathUp p = true → (∀ f, p ≠ .vf f) →
    exec (.regWrite p 0x0C v) s = .next (s.setBoot { s.boot with cause := s.boot.cause &&& ~~~(v.setWidth 4) }) ∧
    (∀ off, 0x3000 ≤ off → off < 0x300C → (s.cmt.queue ≠ [] ∨ s.cmt.held ≠ []) → exec (.regWrite p off v) s = .next s) ∧
    (s.cmt.queue = [] → s.cmt.waiting = [] → s.cmt.held = [] →
      exec (.regWrite p 0x3008 v) s = .next (s.setCmt { s.cmt with storePages := v.setWidth 24 }))) ∧
  (∀ (k : Nat) (v : BitVec 32) (s : State), k < 128 → s.pathUp .pf = true → s.domOn 10 = true → ∃ t : State,
    exec (.regWrite .pf (0x200000 + 0x20 * k) v) s = .next t ∧ t.regRead (0x200000 + 0x20 * k) = v.toNat / 4096 * 4096 ∧
    t.regRead (0x200000 + 0x20 * k + 4) = s.regRead (0x200000 + 0x20 * k + 4) ∧ (∀ j, j ≠ k → t.win j = s.win j) ∧
    t.host.rings = s.host.rings ∧ t.mem = s.mem) ∧
  (∀ (g : Nat) (v : BitVec 32) (s : State), g < 128 → s.pathUp .pf = true → s.domOn 10 = true →
    (v.toNat.testBit 0 = true → (s.ring g).busy = false → exec (.ringEnable .pf g v) s =
      .next (s.putRing g { s.ring g with cfg := BitVec.ofNat 16 (v.toNat % 65536 / 2 * 2), want := true })) ∧
    (v.toNat.testBit 0 = true → (s.ring g).busy = true → exec (.ringEnable .pf g v) s = .next s) ∧
    (v.toNat.testBit 0 = false → ((s.ring g).on = true ∨ (s.ring g).want = true) →
      exec (.ringDisable .pf g v) s = .next (s.putRing g { s.ring g with on := false, want := false }))) ∧
  (∀ (c f : Nat) (v : BitVec 32) (s : State), f < 16 → s.pathUp (.core c) = true → s.domOn 10 = true → s.standalone = true →
    v.toNat.testBit 8 = true → exec (.fnCtrlReset (.core c) f v) s = .next (s.flr f)) ∧
  (∀ (f : Nat) (v : BitVec 32) (s : State), f < 16 → s.pathUp .pf = true → s.domOn 10 = true → v.toNat.testBit 8 = true →
    exec (.fnCtrlReset .pf f v) s = .next (s.putFn f { s.fnOf f with
      enable := v.toNat.testBit 0, eventRing := BitVec.ofNat 3 (v.toNat / 2), eventEn := v.toNat.testBit 4 })) ∧
  (∀ (p : Path) (v : BitVec 32) (s : State), s.pathUp p = true → (∀ f, p ≠ .vf f) → s.domOn 7 = true → ∃ t : State,
    exec (.memErrValidClear p v) s = .next t ∧ t.cc.l2Valid = s.cc.l2Valid &&& ~~~(BitVec.ofNat 2 (v.toNat / 2 ^ 24)) ∧
    (v.toNat.testBit 31 = true → t.cc.errValid = false ∧ t.cc.corr = 0 ∧ t.cc.uncorr = 0) ∧
    (v.toNat.testBit 31 = false → t.cc.errValid = s.cc.errValid ∧ t.cc.corr = s.cc.corr ∧ t.cc.uncorr = s.cc.uncorr) ∧
    t.cc.errAddr = s.cc.errAddr ∧ t.cc.lines = s.cc.lines) ∧
  (∀ (slot : Nat) (s : State), slot < 20480 → s.time.slotSeen ≤ slot →
    (s.boot.aonOn = true → exec (.sysTickLoRead slot) s = .next (s.setTime { s.time with
      slotSeen := slot, tickHi := BitVec.ofNat 32 (s.time.tick.toNat / 2 ^ 32), tickSub := if s.time.ckeOff then 0x80000000 else BitVec.ofNat 32 slot })) ∧
    (s.domOn 6 = true → exec (.sysMtimeLoRead slot) s = .next (s.setTime { s.time with
      slotSeen := slot, mtimeHi := BitVec.ofNat 32 ((512 * s.time.tick.toNat + min 511 (if s.time.ckeOff then slot else slot / 40)) / 2 ^ 32) }))) ∧
  (∀ (slot : Nat) (s : State), slot < s.time.slotSeen → s.time.slotSeen < 20480 →
    exec (.sysTickLoRead slot) s = exec (.sysTickLoRead s.time.slotSeen) s ∧ exec (.sysMtimeLoRead slot) s = exec (.sysMtimeLoRead s.time.slotSeen) s)

/-- Accesses of one cycle: a master that is not there makes none; a read gives the bytes and changes nothing but a bank's turn, a word written to
a bank is stored and nothing else, one that meets port A's write is lost, counted, and an event once per block; a refused access is captured with
BUSERR, or only counted while a capture stands, and FUNC is the function of MASTER 4 or 6; a core traps; a write of part of a register does
nothing; the accesses of two masters are made in one order whatever order they come in; clearing VALID lets an access refused in the same cycle
be captured anew (01 R15, R17, R20, 10 R249, R251, R252, 11 R270, 19 R449, R454). -/
def Obligations.BusAccesses : Prop :=
  (∀ (x : Access) (s : State), s.masterOn x = false →
    exec (.busAccess [x]) s = .next (s.setBus { s.bus with replies := [] })) ∧
  (∀ (x : Access) (s : State), s.masterOn x = true → 4 ≤ x.master.toNat → x.write = false → x.ecc = .ok → 0x01000000 ≤ x.addr.toNat →
    x.addr.toNat + x.len ≤ 0x01040000 → s.poisonedIn x.addr.toNat x.len = false →
    exec (.busAccess [x]) s = .next (s.setBus { s.bus with replies := [{ data := s.busBytes x.addr.toNat x.len }] })) ∧
  (∀ (x : Access) (b : Nat) (s : State), s.masterOn x = true → 4 ≤ x.master.toNat → s.region x.addr.toNat = .vat b →
    s.refusalOf x.master.toNat x.addr.toNat (Access.size x) x.write = none →
    (x.write = false → x.ecc = .ok → Sound s x.addr.toNat x.len → ∃ t : State, exec (.busAccess [x]) s = .next t ∧
      t.bus.replies = [{ data := s.busBytes x.addr.toNat x.len }] ∧ t.bus.err = s.bus.err ∧ t.mem = s.mem ∧ t.cnt = s.cnt ∧ Quiet s t) ∧
    (x.write = true → x.bytes.length = 8 → (x.portA = .write → 0 < x.portAt) → ∃ t : State, exec (.busAccess [x]) s = .next t ∧
      t.bus.replies = [{}] ∧ t.bus.err = s.bus.err ∧ Lies t x.addr.toNat x.bytes ∧ SameBytes s t x.addr.toNat (x.addr.toNat + 8) ∧
      t.cnt = s.cnt ∧ Quiet s t) ∧
    (x.write = true → x.bytes.length = 8 → x.portA = .write → x.portAt = 0 → ∃ t : State, exec (.busAccess [x]) s = .next t ∧
      t.bus.replies = [{ status := .wlost }] ∧ t.mem = s.mem ∧ t.cnt = tset 0 s.cnt (cntKey 0x30 b 2) (satAdd32 (s.count 0x30 b 2) 1) ∧
      ((s.bank b).wlostBlk = some (BitVec.ofNat 64 (s.time.tick.toNat / 48)) → Quiet s t) ∧
      ((s.bank b).wlostBlk ≠ some (BitVec.ofNat 64 (s.time.tick.toNat / 48)) → Posts s t 0x43 (0x3000 + b)))) ∧
  (∀ (x : Access) (k : Nat) (s : State), s.masterOn x = true → (x.master.toNat < 4 → s.coreBar x = none) →
    s.refusalOf x.master.toNat x.addr.toNat (Access.size x) x.write = some k →
    ∃ t : State, exec (.busAccess [x]) s = .next t ∧ t.mem = s.mem ∧ t.cnt = s.cnt ∧
      (s.bus.err.valid = false → Posts s t 4 0 ∧ t.bus.err = .mk x.master (if x.master = 4 ∨ x.master = 6 then x.func else 0) x.write
        (BitVec.ofNat 2 k) 1 true x.addr) ∧
      (s.bus.err.valid = true → Quiet s t ∧ t.bus.err = { s.bus.err with count := BitVec.ofNat 8 (min (s.bus.err.count.toNat + 1) 255) }) ∧
      (x.master.toNat < 4 → (t.core x.master.toNat).trap = some (if x.op = .fetch then 1 else if x.write then 7 else 5)) ∧
      (4 ≤ x.master.toNat → t.cc = s.cc ∧
        t.bus.replies = [.mk (if x.master = 6 then .unsupported else .access) (if x.write then [] else List.replicate x.len 0)])) ∧
  (∀ (x : Access) (c : Nat) (s : State), s.masterOn x = true → x.master.toNat < 4 → s.coreBar x = some c → ∃ t : State,
    exec (.busAccess [x]) s = .next t ∧ (t.core x.master.toNat).trap = some (BitVec.ofNat 64 c) ∧ t.mem = s.mem ∧ t.bus.err = s.bus.err ∧ Quiet s t) ∧
  (∀ (x : Access) (s : State), s.masterOn x = true → x.master = 6 → x.func = 0 → x.write = true → x.bytes.length < 4 → x.addr.toNat % 4 = 0 →
    s.region x.addr.toNat = .setup → exec (.busAccess [x]) s = .next (s.setBus { s.bus with replies := [{}] })) ∧
  (∀ (x y : Access) (s : State), x.master ≠ y.master → exec (.busAccess [x, y]) s = exec (.busAccess [y, x]) s) ∧
  (∀ (s : State), s.domOn 6 = true →
    exec (.buserrValidClear []) s = .next (s.setBus { s.bus with err := { s.bus.err with valid := false, count := 0 }, replies := [] })) ∧
  (∀ (x : Access) (k : Nat) (s : State), s.masterOn x = true → 4 ≤ x.master.toNat →
    s.refusalOf x.master.toNat x.addr.toNat (Access.size x) x.write = some k → ∃ t : State, exec (.buserrValidClear [x]) s = .next t ∧
      t.bus.err.valid = true ∧ t.bus.err.count = 1 ∧ t.bus.err.addr = x.addr ∧ Posts s t 4 0)

/-- The test port: IDCODE and TEST_LOGIC_RESET select the identification, SAMPLE/PRELOAD captures and loads the cells, of which
inputs drive nothing, EXTEST and CLAMP drive and
HIGHZ floats the pins, all three act as BYPASS while debug is closed, when DTMCS reports no module and DMI gives 0; halt, resume and hartreset;
a register of a halted core reads as written, x0 as 0, and a running core gives an error; a trigger that matches sets its hit
bit and, by its action, halts its core or raises a breakpoint exception; system bus reads. Layouts of the debug specification are PRESUMED (17 R427 to R430, log 4). -/
def Obligations.DebugPort : Prop :=
  (∀ (i : Instr) (s : State), s.domOn 60 = true → i = .idcode ∨ i = .testLogicReset →
    exec i s = .next (s.setDbg { s.dbg with ir := 1, dr := 0x1716054B, driving := false, floating := false })) ∧
  (∀ (s : State), s.domOn 60 = true → exec .bypass s = .next (s.setDbg { s.dbg with ir := 0x1F, dr := 0, driving := false, floating := false }) ∧
    exec .dtmcs s = .next (s.setDbg { s.dbg with ir := 0x10, dr := (if s.boot.debugClosed then 0 else 0x71), driving := false, floating := false })) ∧
  (∀ (pins load : List Bool) (s : State), s.domOn 60 = true →
    exec (.samplePreload pins load) s = .next (s.setDbg { s.dbg with
      ir := 2, dr := 0, driving := false, floating := false, capture := pins.take 428, drive := driven load }) ∧
    exec (.extest pins load) s = .next (s.setDbg (if s.boot.debugClosed then { s.dbg with ir := 0, dr := 0, driving := false, floating := false }
      else { s.dbg with ir := 0, dr := 0, driving := true, floating := false, capture := pins.take 428, drive := driven load }))) ∧
  (∀ (load : List Bool) (k : Nat), nth false (driven load) k = true → nth false driveBits k = true ∧ nth false load k = true) ∧
  (∀ (s : State), s.domOn 60 = true →
    exec .highz s = .next (s.setDbg { s.dbg with ir := 3, dr := 0, driving := false, floating := !s.boot.debugClosed }) ∧
    exec .clamp s = .next (s.setDbg { s.dbg with ir := 4, dr := 0, driving := !s.boot.debugClosed, floating := false })) ∧
  (∀ (c : Nat) (s : State), s.domOn 60 = true → s.boot.debugClosed = false → c < 4 → s.domOn c = true →
    ((s.core c).run = .running → exec (.halt c) s = .next (s.putCore c { s.core c with run := .halted })) ∧
    ((s.core c).run = .halted → exec (.resume c) s = .next (s.putCore c { s.core c with run := .running })) ∧
    (∃ t : State, exec (.hartreset c) s = .next t ∧ (∀ l, (t.line l).at c = .i) ∧
      ((s.cc.lines.map (·.1)).Nodup → ∀ l k, k ≠ c → (t.line l).at k = (s.line l).at k) ∧
      (∀ k, k ≠ c → t.core k = s.core k) ∧ (c = 0 → t.core c = { run := .running }) ∧ t.mem = s.mem ∧
      (c ≠ 0 → t.core c = if s.cc.coreRun.toNat.testBit c then { run := .running, pc := s.cc.entry.setWidth 64 } else {})) ∧
    (∀ (n : BitVec 16) (w : Bool) (v : BitVec 64), (s.core c).run ≠ .halted → s.dbg.cmdErr = 0 →
      exec (.abstractCommand c n w v) s = .next (s.setDbg { s.dbg with cmdErr := 4 })) ∧
    (∀ (n : BitVec 16) (v : BitVec 64), (s.core c).run = .halted → 0x1000 ≤ n.toNat → n.toNat ≤ 0x101F → ∃ t u : State,
      exec (.abstractCommand c n true v) s = .next t ∧ exec (.abstractCommand c n false 0) t = .next u ∧
      u.dbg.abs = (if n = 0x1000 then 0 else v) ∧ (∀ k, k ≠ c → u.core k = s.core k) ∧ u.mem = s.mem) ∧
    (∀ (kind : TrigKind) (a v : BitVec 64), (s.core c).run = .running →
      (∀ k, k < 4 → (tget {} (s.core c).trigs k).matchesOp (s.core c).mode kind a v = false) → exec (.trigger c kind a v) s = .next s) ∧
    (∀ (k : Nat) (a v : BitVec 64), (s.core c).run = .running → k < 4 → (tget {} (s.core c).trigs k).val = a →
      (tget {} (s.core c).trigs k).ctl.toNat.testBit 2 = true → (tget {} (s.core c).trigs k).ctl.toNat.testBit 19 = false →
      (tget {} (s.core c).trigs k).ctl.toNat.testBit (if (s.core c).mode = 3 then 6 else if (s.core c).mode = 1 then 4 else 3) = true →
      ∃ t : State, exec (.trigger c .execute a v) s = .next t ∧ (tget {} (t.core c).trigs k).ctl.toNat.testBit 20 = true ∧
        ((tget {} (s.core c).trigs k).ctl.toNat / 4096 % 16 = 1 → (t.core c).run = .halted ∧ (t.core c).trap = (s.core c).trap) ∧
        ((∀ j, j < 4 → (tget {} (s.core c).trigs j).ctl.toNat / 4096 % 16 ≠ 1) → (t.core c).run = .running ∧ (t.core c).trap = some 3) ∧
        (t.core c).pc = (s.core c).pc ∧ (t.core c).regs = (s.core c).regs ∧ ∀ j, j ≠ c → t.core j = s.core j)) ∧
  (∀ (a : BitVec 40) (v : BitVec 32) (s : State), s.domOn 60 = true → s.boot.debugClosed = false → s.domOn 6 = true → 0x01000000 ≤ a.toNat →
    a.toNat + 4 ≤ 0x01040000 → s.poisonedIn a.toNat 4 = false →
    exec (.systemBusAccess a false v) s = .next (s.setDbg { s.dbg with sba := { data := s.busBytes a.toNat 4 } })) ∧
  (∀ (op : BitVec 2) (a : BitVec 7) (v : BitVec 32) (s : State), s.domOn 60 = true → s.boot.debugClosed = true →
    exec (.dmi op a v) s = .next (s.setDbg { s.dbg with ir := 0x11, dr := 0, driving := false, floating := false, dmi := 0 })) ∧
  (∀ (v : BitVec 32) (c : Nat) (s : State), s.domOn 60 = true → s.boot.debugClosed = false → c < 4 → s.domOn c = true →
    (s.core c).run = .running → v.toNat.testBit 0 = true → v.toNat.testBit 1 = false → v.toNat.testBit 29 = false → v.toNat.testBit 31 = true →
    v.toNat / 65536 % 1024 = c → ∃ t : State, exec (.dmi 2 0x10 v) s = .next t ∧ t.core c = { s.core c with run := .halted } ∧
      (∀ k, k ≠ c → t.core k = s.core k))

/-- A Churn instruction's word, written from the tables of R185 and R187, decodes to that instruction with every operand (the PU and the outcome
of a memory check are no part of the word); a word decodes to nothing exactly when its opcode is one that the table leaves out; the worked case
"MACC A1 += D7 × coefficient 100, when P3 is 0" has the word that the spec prints (08 R185, R187). -/
def Obligations.ChurnWordsRoundTrip : Prop :=
  (∀ (i : Instr) (w : Nat), encodeChurn i = some w → w < 2 ^ 64 ∧ ∃ pu e, decodeChurn pu w e = some i) ∧
  (∀ (pu : BitVec 3) (w : Nat) (e : Ecc), decodeChurn pu w e = none ↔ w / 2 ^ 56 % 256 ∉
    [0x00, 0x01, 0x02, 0x03, 0x04, 0x05, 0x06, 0x07, 0x08, 0x09, 0x0A, 0x10, 0x11, 0x12, 0x14, 0x18, 0x20, 0x21, 0x22, 0x23, 0x24, 0x25, 0x26,
     0x27, 0x28, 0x29, 0x2A, 0x2B, 0x2C, 0x2E, 0x2F, 0x30, 0x31, 0x32, 0x33, 0x34, 0x35, 0x36, 0x37]) ∧
  (∀ (pu : BitVec 3) (e : Ecc), decodeChurn pu 0x32B0470000000064 e = some (.macc pu { inv := true, sel := 3 } 1 7 100) ∧
    encodeChurn (.macc pu { inv := true, sel := 3 } 1 7 100) = some 0x32B0470000000064)
end

