-- ==== Sys2Proof/Laws/Memory.lean ====
section
/-! SUPPORT. Laws/Memory.lean: reading and writing sparse tables and memories: read after write, what a write leaves alone, and that
every operation keeps the canonical form. -/

namespace Sys2Proof.Machine

section Tables
variable {α : Type}

@[simp] theorem tget_nil (d : α) (k : Nat) : tget d [] k = d := rfl

theorem tget_cons (d : α) (j : Nat) (v : α) (r : Map α) (k : Nat) :
    tget d ((j, v) :: r) k = if j = k then v else tget d r k := rfl

theorem tget_tdel (d : α) (m : Map α) (k k' : Nat) : tget d (tdel m k) k' = if k' = k then d else tget d m k' := by
  induction m with
  | nil => simp [tdel]
  | cons e r ih =>
    obtain ⟨j, v⟩ := e
    by_cases h : j = k
    · subst h; simp only [tdel, if_true, ih, tget_cons, eq_comm (a := k')]; split <;> simp_all
    · simp only [tdel, h, if_false, tget_cons, ih]; split <;> split <;> simp_all

theorem tget_tins (d : α) (m : Map α) (k k' : Nat) (v : α) (h : ∀ e ∈ m, e.1 ≠ k) :
    tget d (tins k v m) k' = if k' = k then v else tget d m k' := by
  induction m with
  | nil => simp only [tins, tget_cons, tget_nil, eq_comm (a := k')]
  | cons e r ih =>
    obtain ⟨j, w⟩ := e
    have hj : j ≠ k := h _ List.mem_cons_self
    simp only [tins]
    split
    · simp only [tget_cons, eq_comm (a := k')]
    · simp only [tget_cons, ih (fun e he => h e (List.mem_cons_of_mem _ he))]; split <;> split <;> simp_all

theorem mem_tdel {m : Map α} {k : Nat} {e : Nat × α} (h : e ∈ tdel m k) : e ∈ m ∧ e.1 ≠ k := by
  induction m with
  | nil => simp [tdel] at h
  | cons x r ih =>
    obtain ⟨j, v⟩ := x
    simp only [tdel] at h
    split at h
    · exact ⟨List.mem_cons_of_mem _ (ih h).1, (ih h).2⟩
    · rcases List.mem_cons.1 h with rfl | h
      · exact ⟨by simp, by simp_all⟩
      · exact ⟨List.mem_cons_of_mem _ (ih h).1, (ih h).2⟩

variable [DecidableEq α]

/-- A read after a write: the value written at its key, what was there elsewhere. -/
theorem tget_tset (d : α) (m : Map α) (k k' : Nat) (v : α) : tget d (tset d m k v) k' = if k' = k then v else tget d m k' := by
  unfold tset
  split
  · rename_i h; subst h; exact tget_tdel v m k k'
  · rw [tget_tins _ _ _ _ _ fun e he => (mem_tdel he).2, tget_tdel]; split <;> simp

@[simp] theorem tget_tset_same (d : α) (m : Map α) (k : Nat) (v : α) : tget d (tset d m k v) k = v := by simp [tget_tset]

theorem tget_tset_ne (d : α) (m : Map α) {k k' : Nat} (v : α) (h : k' ≠ k) : tget d (tset d m k v) k' = tget d m k' := by
  simp [tget_tset, h]

omit [DecidableEq α] in
theorem tdel_tdel (m : Map α) (k : Nat) : tdel (tdel m k) k = tdel m k := by
  induction m with
  | nil => rfl
  | cons e r ih =>
    obtain ⟨j, v⟩ := e
    by_cases h : j = k <;> simp [tdel, h, ih]

omit [DecidableEq α] in
theorem tdel_tins (m : Map α) (k : Nat) (v : α) : tdel (tins k v m) k = tdel m k := by
  induction m with
  | nil => simp [tins, tdel]
  | cons e r ih =>
    obtain ⟨j, w⟩ := e
    simp only [tins]
    split
    · simp [tdel]
    · by_cases h : j = k <;> simp [tdel, h, ih]

/-- The last of two writes to a key stays. -/
@[simp] theorem tset_tset (d : α) (m : Map α) (k : Nat) (v w : α) : tset d (tset d m k v) k w = tset d m k w := by
  have h : tdel (tset d m k v) k = tdel m k := by
    unfold tset
    split
    · exact tdel_tdel m k
    · rw [tdel_tins, tdel_tdel]
  rw [tset, h, tset]

/-! ### The canonical form -/

/-- Keys strictly rising and no entry equal to the default, in the form the proofs use. -/
theorem tableOk_cons {d : α} {j : Nat} {v : α} {r : Map α} :
    tableOk d ((j, v) :: r) = true ↔ v ≠ d ∧ (∀ e ∈ r, j < e.1) ∧ tableOk d r = true := by
  induction r generalizing j v with
  | nil => simp [tableOk]
  | cons e r ih =>
    obtain ⟨k, w⟩ := e
    simp only [tableOk, Bool.and_eq_true, bne_iff_ne, decide_eq_true_eq, List.mem_cons, forall_eq_or_imp, and_assoc]
    constructor
    · rintro ⟨h1, h2, h3⟩
      exact ⟨h1, h2, fun e he => Nat.lt_trans h2 ((ih.1 h3).2.1 e he), h3⟩
    · rintro ⟨h1, h2, -, h4⟩
      exact ⟨h1, h2, h4⟩

theorem tableOk_filter {d : α} {m : Map α} (p : Nat × α → Bool) (h : tableOk d m = true) : tableOk d (m.filter p) = true := by
  induction m with
  | nil => simpa using h
  | cons e r ih =>
    obtain ⟨j, v⟩ := e
    have h' := tableOk_cons.1 h
    rw [List.filter_cons]
    split
    · exact tableOk_cons.2 ⟨h'.1, fun e he => h'.2.1 e (List.mem_filter.1 he).1, ih h'.2.2⟩
    · exact ih h'.2.2

theorem tableOk_tdel {d : α} {m : Map α} (k : Nat) (h : tableOk d m = true) : tableOk d (tdel m k) = true := by
  induction m with
  | nil => simpa [tdel] using h
  | cons e r ih =>
    obtain ⟨j, v⟩ := e
    have h' := tableOk_cons.1 h
    simp only [tdel]
    split
    · exact ih h'.2.2
    · exact tableOk_cons.2 ⟨h'.1, fun e he => h'.2.1 e (mem_tdel he).1, ih h'.2.2⟩

omit [DecidableEq α] in
theorem mem_tins {m : Map α} {k : Nat} {v : α} {e : Nat × α} (h : e ∈ tins k v m) : e = (k, v) ∨ e ∈ m := by
  induction m with
  | nil => simpa [tins] using h
  | cons x r ih =>
    obtain ⟨j, w⟩ := x
    simp only [tins] at h
    split at h
    · simpa using h
    · rcases List.mem_cons.1 h with rfl | h
      · simp
      · rcases ih h with h | h <;> simp [h]

theorem tableOk_tins {d : α} {m : Map α} {k : Nat} {v : α} (hv : v ≠ d) (hk : ∀ e ∈ m, e.1 ≠ k) (h : tableOk d m = true) :
    tableOk d (tins k v m) = true := by
  induction m with
  | nil => simpa [tins, tableOk] using hv
  | cons e r ih =>
    obtain ⟨j, w⟩ := e
    have h' := tableOk_cons.1 h
    simp only [tins]
    split
    · rename_i hlt
      exact tableOk_cons.2 ⟨hv, fun e he => by
        rcases List.mem_cons.1 he with rfl | he
        · exact hlt
        · exact Nat.lt_trans hlt (h'.2.1 e he), h⟩
    · rename_i hlt
      have hj : j ≠ k := hk _ List.mem_cons_self
      refine tableOk_cons.2 ⟨h'.1, fun e he => ?_, ih (fun e he => hk e (List.mem_cons_of_mem _ he)) h'.2.2⟩
      rcases mem_tins he with rfl | he
      · simp only; omega
      · exact h'.2.1 e he

/-- A write keeps the canonical form. -/
theorem tableOk_tset {d : α} {m : Map α} (k : Nat) (v : α) (h : tableOk d m = true) : tableOk d (tset d m k v) = true := by
  unfold tset
  split
  · exact tableOk_tdel k h
  · rename_i hv
    exact tableOk_tins hv (fun e he => (mem_tdel he).2) (tableOk_tdel k h)

theorem tableOk_tmod {d : α} {m : Map α} (k : Nat) (f : α → α) (h : tableOk d m = true) : tableOk d (tmod d m k f) = true :=
  tableOk_tset _ _ h

end Tables

/-! ### Memories -/

/-- Storing bytes keeps the canonical form. -/
theorem wf_memPut {m : Mem} (a : Nat) (l : List Byte) (h : Memory.wf m = true) : Memory.wf (memPut m a l) = true := by
  induction l generalizing m a with
  | nil => exact h
  | cons b r ih => exact ih _ (tableOk_tset _ _ h)

theorem byteAt_memPut_lt (m : Mem) (a k : Nat) (l : List Byte) (h : k < a) : byteAt (memPut m a l) k = byteAt m k := by
  induction l generalizing m a with
  | nil => rfl
  | cons b r ih =>
    rw [memPut, ih _ _ (by omega)]
    exact tget_tset_ne _ _ _ (by omega)

/-- Each stored byte reads back. -/
theorem byteAt_memPut (m : Mem) (a i : Nat) (l : List Byte) (h : i < l.length) : byteAt (memPut m a l) (a + i) = l[i] := by
  induction l generalizing m a i with
  | nil => simp at h
  | cons b r ih =>
    rw [memPut]
    cases i with
    | zero => rw [byteAt_memPut_lt _ _ _ _ (by omega)]; simp [byteAt]
    | succ i =>
      have := ih (tset 0 m a b) (a + 1) i (by simpa using h)
      rw [show a + (i + 1) = a + 1 + i by omega, this]; rfl

/-- A store leaves every byte outside the stored ones alone. -/
theorem byteAt_memPut_out (m : Mem) (a k : Nat) (l : List Byte) (h : k < a ∨ a + l.length ≤ k) :
    byteAt (memPut m a l) k = byteAt m k := by
  induction l generalizing m a with
  | nil => rfl
  | cons b r ih =>
    rw [memPut, ih _ _ (by simp at h; omega)]
    exact tget_tset_ne _ _ _ (by simp at h; omega)

end Sys2Proof.Machine
end

