-- ==== Sys2Proof/Laws/State.lean ====
section
/-! SUPPORT. Laws/State.lean: one lemma per group per setter of State, each true by rfl. -/

namespace Sys2Proof.Machine

@[simp] theorem State.setPending_pending (s : State) (v : List Instr) : (s.setPending v).pending = v := rfl
@[simp] theorem State.setPending_time (s : State) (v : List Instr) : (s.setPending v).time = s.time := rfl
@[simp] theorem State.setPending_mem (s : State) (v : List Instr) : (s.setPending v).mem = s.mem := rfl
@[simp] theorem State.setPending_hostMem (s : State) (v : List Instr) : (s.setPending v).hostMem = s.hostMem := rfl
@[simp] theorem State.setPending_bus (s : State) (v : List Instr) : (s.setPending v).bus = s.bus := rfl
@[simp] theorem State.setPending_host (s : State) (v : List Instr) : (s.setPending v).host = s.host := rfl
@[simp] theorem State.setPending_pcie (s : State) (v : List Instr) : (s.setPending v).pcie = s.pcie := rfl
@[simp] theorem State.setPending_cmt (s : State) (v : List Instr) : (s.setPending v).cmt = s.cmt := rfl
@[simp] theorem State.setPending_units (s : State) (v : List Instr) : (s.setPending v).units = s.units := rfl
@[simp] theorem State.setPending_cnt (s : State) (v : List Instr) : (s.setPending v).cnt = s.cnt := rfl
@[simp] theorem State.setPending_tests (s : State) (v : List Instr) : (s.setPending v).tests = s.tests := rfl
@[simp] theorem State.setPending_clk (s : State) (v : List Instr) : (s.setPending v).clk = s.clk := rfl
@[simp] theorem State.setPending_ports (s : State) (v : List Instr) : (s.setPending v).ports = s.ports := rfl
@[simp] theorem State.setPending_audio (s : State) (v : List Instr) : (s.setPending v).audio = s.audio := rfl
@[simp] theorem State.setPending_churn (s : State) (v : List Instr) : (s.setPending v).churn = s.churn := rfl
@[simp] theorem State.setPending_sep (s : State) (v : List Instr) : (s.setPending v).sep = s.sep := rfl
@[simp] theorem State.setPending_vat (s : State) (v : List Instr) : (s.setPending v).vat = s.vat := rfl
@[simp] theorem State.setPending_cc (s : State) (v : List Instr) : (s.setPending v).cc = s.cc := rfl
@[simp] theorem State.setPending_net (s : State) (v : List Instr) : (s.setPending v).net = s.net := rfl
@[simp] theorem State.setPending_herd (s : State) (v : List Instr) : (s.setPending v).herd = s.herd := rfl
@[simp] theorem State.setPending_pwr (s : State) (v : List Instr) : (s.setPending v).pwr = s.pwr := rfl
@[simp] theorem State.setPending_psu (s : State) (v : List Instr) : (s.setPending v).psu = s.psu := rfl
@[simp] theorem State.setPending_kf (s : State) (v : List Instr) : (s.setPending v).kf = s.kf := rfl
@[simp] theorem State.setPending_nv (s : State) (v : List Instr) : (s.setPending v).nv = s.nv := rfl
@[simp] theorem State.setPending_boot (s : State) (v : List Instr) : (s.setPending v).boot = s.boot := rfl
@[simp] theorem State.setPending_dbg (s : State) (v : List Instr) : (s.setPending v).dbg = s.dbg := rfl
@[simp] theorem State.setTime_pending (s : State) (v : TimeSt) : (s.setTime v).pending = s.pending := rfl
@[simp] theorem State.setTime_time (s : State) (v : TimeSt) : (s.setTime v).time = v := rfl
@[simp] theorem State.setTime_mem (s : State) (v : TimeSt) : (s.setTime v).mem = s.mem := rfl
@[simp] theorem State.setTime_hostMem (s : State) (v : TimeSt) : (s.setTime v).hostMem = s.hostMem := rfl
@[simp] theorem State.setTime_bus (s : State) (v : TimeSt) : (s.setTime v).bus = s.bus := rfl
@[simp] theorem State.setTime_host (s : State) (v : TimeSt) : (s.setTime v).host = s.host := rfl
@[simp] theorem State.setTime_pcie (s : State) (v : TimeSt) : (s.setTime v).pcie = s.pcie := rfl
@[simp] theorem State.setTime_cmt (s : State) (v : TimeSt) : (s.setTime v).cmt = s.cmt := rfl
@[simp] theorem State.setTime_units (s : State) (v : TimeSt) : (s.setTime v).units = s.units := rfl
@[simp] theorem State.setTime_cnt (s : State) (v : TimeSt) : (s.setTime v).cnt = s.cnt := rfl
@[simp] theorem State.setTime_tests (s : State) (v : TimeSt) : (s.setTime v).tests = s.tests := rfl
@[simp] theorem State.setTime_clk (s : State) (v : TimeSt) : (s.setTime v).clk = s.clk := rfl
@[simp] theorem State.setTime_ports (s : State) (v : TimeSt) : (s.setTime v).ports = s.ports := rfl
@[simp] theorem State.setTime_audio (s : State) (v : TimeSt) : (s.setTime v).audio = s.audio := rfl
@[simp] theorem State.setTime_churn (s : State) (v : TimeSt) : (s.setTime v).churn = s.churn := rfl
@[simp] theorem State.setTime_sep (s : State) (v : TimeSt) : (s.setTime v).sep = s.sep := rfl
@[simp] theorem State.setTime_vat (s : State) (v : TimeSt) : (s.setTime v).vat = s.vat := rfl
@[simp] theorem State.setTime_cc (s : State) (v : TimeSt) : (s.setTime v).cc = s.cc := rfl
@[simp] theorem State.setTime_net (s : State) (v : TimeSt) : (s.setTime v).net = s.net := rfl
@[simp] theorem State.setTime_herd (s : State) (v : TimeSt) : (s.setTime v).herd = s.herd := rfl
@[simp] theorem State.setTime_pwr (s : State) (v : TimeSt) : (s.setTime v).pwr = s.pwr := rfl
@[simp] theorem State.setTime_psu (s : State) (v : TimeSt) : (s.setTime v).psu = s.psu := rfl
@[simp] theorem State.setTime_kf (s : State) (v : TimeSt) : (s.setTime v).kf = s.kf := rfl
@[simp] theorem State.setTime_nv (s : State) (v : TimeSt) : (s.setTime v).nv = s.nv := rfl
@[simp] theorem State.setTime_boot (s : State) (v : TimeSt) : (s.setTime v).boot = s.boot := rfl
@[simp] theorem State.setTime_dbg (s : State) (v : TimeSt) : (s.setTime v).dbg = s.dbg := rfl
@[simp] theorem State.setMem_pending (s : State) (v : Mem) : (s.setMem v).pending = s.pending := rfl
@[simp] theorem State.setMem_time (s : State) (v : Mem) : (s.setMem v).time = s.time := rfl
@[simp] theorem State.setMem_mem (s : State) (v : Mem) : (s.setMem v).mem = v := rfl
@[simp] theorem State.setMem_hostMem (s : State) (v : Mem) : (s.setMem v).hostMem = s.hostMem := rfl
@[simp] theorem State.setMem_bus (s : State) (v : Mem) : (s.setMem v).bus = s.bus := rfl
@[simp] theorem State.setMem_host (s : State) (v : Mem) : (s.setMem v).host = s.host := rfl
@[simp] theorem State.setMem_pcie (s : State) (v : Mem) : (s.setMem v).pcie = s.pcie := rfl
@[simp] theorem State.setMem_cmt (s : State) (v : Mem) : (s.setMem v).cmt = s.cmt := rfl
@[simp] theorem State.setMem_units (s : State) (v : Mem) : (s.setMem v).units = s.units := rfl
@[simp] theorem State.setMem_cnt (s : State) (v : Mem) : (s.setMem v).cnt = s.cnt := rfl
@[simp] theorem State.setMem_tests (s : State) (v : Mem) : (s.setMem v).tests = s.tests := rfl
@[simp] theorem State.setMem_clk (s : State) (v : Mem) : (s.setMem v).clk = s.clk := rfl
@[simp] theorem State.setMem_ports (s : State) (v : Mem) : (s.setMem v).ports = s.ports := rfl
@[simp] theorem State.setMem_audio (s : State) (v : Mem) : (s.setMem v).audio = s.audio := rfl
@[simp] theorem State.setMem_churn (s : State) (v : Mem) : (s.setMem v).churn = s.churn := rfl
@[simp] theorem State.setMem_sep (s : State) (v : Mem) : (s.setMem v).sep = s.sep := rfl
@[simp] theorem State.setMem_vat (s : State) (v : Mem) : (s.setMem v).vat = s.vat := rfl
@[simp] theorem State.setMem_cc (s : State) (v : Mem) : (s.setMem v).cc = s.cc := rfl
@[simp] theorem State.setMem_net (s : State) (v : Mem) : (s.setMem v).net = s.net := rfl
@[simp] theorem State.setMem_herd (s : State) (v : Mem) : (s.setMem v).herd = s.herd := rfl
@[simp] theorem State.setMem_pwr (s : State) (v : Mem) : (s.setMem v).pwr = s.pwr := rfl
@[simp] theorem State.setMem_psu (s : State) (v : Mem) : (s.setMem v).psu = s.psu := rfl
@[simp] theorem State.setMem_kf (s : State) (v : Mem) : (s.setMem v).kf = s.kf := rfl
@[simp] theorem State.setMem_nv (s : State) (v : Mem) : (s.setMem v).nv = s.nv := rfl
@[simp] theorem State.setMem_boot (s : State) (v : Mem) : (s.setMem v).boot = s.boot := rfl
@[simp] theorem State.setMem_dbg (s : State) (v : Mem) : (s.setMem v).dbg = s.dbg := rfl
@[simp] theorem State.setHostMem_pending (s : State) (v : Mem) : (s.setHostMem v).pending = s.pending := rfl
@[simp] theorem State.setHostMem_time (s : State) (v : Mem) : (s.setHostMem v).time = s.time := rfl
@[simp] theorem State.setHostMem_mem (s : State) (v : Mem) : (s.setHostMem v).mem = s.mem := rfl
@[simp] theorem State.setHostMem_hostMem (s : State) (v : Mem) : (s.setHostMem v).hostMem = v := rfl
@[simp] theorem State.setHostMem_bus (s : State) (v : Mem) : (s.setHostMem v).bus = s.bus := rfl
@[simp] theorem State.setHostMem_host (s : State) (v : Mem) : (s.setHostMem v).host = s.host := rfl
@[simp] theorem State.setHostMem_pcie (s : State) (v : Mem) : (s.setHostMem v).pcie = s.pcie := rfl
@[simp] theorem State.setHostMem_cmt (s : State) (v : Mem) : (s.setHostMem v).cmt = s.cmt := rfl
@[simp] theorem State.setHostMem_units (s : State) (v : Mem) : (s.setHostMem v).units = s.units := rfl
@[simp] theorem State.setHostMem_cnt (s : State) (v : Mem) : (s.setHostMem v).cnt = s.cnt := rfl
@[simp] theorem State.setHostMem_tests (s : State) (v : Mem) : (s.setHostMem v).tests = s.tests := rfl
@[simp] theorem State.setHostMem_clk (s : State) (v : Mem) : (s.setHostMem v).clk = s.clk := rfl
@[simp] theorem State.setHostMem_ports (s : State) (v : Mem) : (s.setHostMem v).ports = s.ports := rfl
@[simp] theorem State.setHostMem_audio (s : State) (v : Mem) : (s.setHostMem v).audio = s.audio := rfl
@[simp] theorem State.setHostMem_churn (s : State) (v : Mem) : (s.setHostMem v).churn = s.churn := rfl
@[simp] theorem State.setHostMem_sep (s : State) (v : Mem) : (s.setHostMem v).sep = s.sep := rfl
@[simp] theorem State.setHostMem_vat (s : State) (v : Mem) : (s.setHostMem v).vat = s.vat := rfl
@[simp] theorem State.setHostMem_cc (s : State) (v : Mem) : (s.setHostMem v).cc = s.cc := rfl
@[simp] theorem State.setHostMem_net (s : State) (v : Mem) : (s.setHostMem v).net = s.net := rfl
@[simp] theorem State.setHostMem_herd (s : State) (v : Mem) : (s.setHostMem v).herd = s.herd := rfl
@[simp] theorem State.setHostMem_pwr (s : State) (v : Mem) : (s.setHostMem v).pwr = s.pwr := rfl
@[simp] theorem State.setHostMem_psu (s : State) (v : Mem) : (s.setHostMem v).psu = s.psu := rfl
@[simp] theorem State.setHostMem_kf (s : State) (v : Mem) : (s.setHostMem v).kf = s.kf := rfl
@[simp] theorem State.setHostMem_nv (s : State) (v : Mem) : (s.setHostMem v).nv = s.nv := rfl
@[simp] theorem State.setHostMem_boot (s : State) (v : Mem) : (s.setHostMem v).boot = s.boot := rfl
@[simp] theorem State.setHostMem_dbg (s : State) (v : Mem) : (s.setHostMem v).dbg = s.dbg := rfl
@[simp] theorem State.setBus_pending (s : State) (v : BusSt) : (s.setBus v).pending = s.pending := rfl
@[simp] theorem State.setBus_time (s : State) (v : BusSt) : (s.setBus v).time = s.time := rfl
@[simp] theorem State.setBus_mem (s : State) (v : BusSt) : (s.setBus v).mem = s.mem := rfl
@[simp] theorem State.setBus_hostMem (s : State) (v : BusSt) : (s.setBus v).hostMem = s.hostMem := rfl
@[simp] theorem State.setBus_bus (s : State) (v : BusSt) : (s.setBus v).bus = v := rfl
@[simp] theorem State.setBus_host (s : State) (v : BusSt) : (s.setBus v).host = s.host := rfl
@[simp] theorem State.setBus_pcie (s : State) (v : BusSt) : (s.setBus v).pcie = s.pcie := rfl
@[simp] theorem State.setBus_cmt (s : State) (v : BusSt) : (s.setBus v).cmt = s.cmt := rfl
@[simp] theorem State.setBus_units (s : State) (v : BusSt) : (s.setBus v).units = s.units := rfl
@[simp] theorem State.setBus_cnt (s : State) (v : BusSt) : (s.setBus v).cnt = s.cnt := rfl
@[simp] theorem State.setBus_tests (s : State) (v : BusSt) : (s.setBus v).tests = s.tests := rfl
@[simp] theorem State.setBus_clk (s : State) (v : BusSt) : (s.setBus v).clk = s.clk := rfl
@[simp] theorem State.setBus_ports (s : State) (v : BusSt) : (s.setBus v).ports = s.ports := rfl
@[simp] theorem State.setBus_audio (s : State) (v : BusSt) : (s.setBus v).audio = s.audio := rfl
@[simp] theorem State.setBus_churn (s : State) (v : BusSt) : (s.setBus v).churn = s.churn := rfl
@[simp] theorem State.setBus_sep (s : State) (v : BusSt) : (s.setBus v).sep = s.sep := rfl
@[simp] theorem State.setBus_vat (s : State) (v : BusSt) : (s.setBus v).vat = s.vat := rfl
@[simp] theorem State.setBus_cc (s : State) (v : BusSt) : (s.setBus v).cc = s.cc := rfl
@[simp] theorem State.setBus_net (s : State) (v : BusSt) : (s.setBus v).net = s.net := rfl
@[simp] theorem State.setBus_herd (s : State) (v : BusSt) : (s.setBus v).herd = s.herd := rfl
@[simp] theorem State.setBus_pwr (s : State) (v : BusSt) : (s.setBus v).pwr = s.pwr := rfl
@[simp] theorem State.setBus_psu (s : State) (v : BusSt) : (s.setBus v).psu = s.psu := rfl
@[simp] theorem State.setBus_kf (s : State) (v : BusSt) : (s.setBus v).kf = s.kf := rfl
@[simp] theorem State.setBus_nv (s : State) (v : BusSt) : (s.setBus v).nv = s.nv := rfl
@[simp] theorem State.setBus_boot (s : State) (v : BusSt) : (s.setBus v).boot = s.boot := rfl
@[simp] theorem State.setBus_dbg (s : State) (v : BusSt) : (s.setBus v).dbg = s.dbg := rfl
@[simp] theorem State.setHost_pending (s : State) (v : HostSt) : (s.setHost v).pending = s.pending := rfl
@[simp] theorem State.setHost_time (s : State) (v : HostSt) : (s.setHost v).time = s.time := rfl
@[simp] theorem State.setHost_mem (s : State) (v : HostSt) : (s.setHost v).mem = s.mem := rfl
@[simp] theorem State.setHost_hostMem (s : State) (v : HostSt) : (s.setHost v).hostMem = s.hostMem := rfl
@[simp] theorem State.setHost_bus (s : State) (v : HostSt) : (s.setHost v).bus = s.bus := rfl
@[simp] theorem State.setHost_host (s : State) (v : HostSt) : (s.setHost v).host = v := rfl
@[simp] theorem State.setHost_pcie (s : State) (v : HostSt) : (s.setHost v).pcie = s.pcie := rfl
@[simp] theorem State.setHost_cmt (s : State) (v : HostSt) : (s.setHost v).cmt = s.cmt := rfl
@[simp] theorem State.setHost_units (s : State) (v : HostSt) : (s.setHost v).units = s.units := rfl
@[simp] theorem State.setHost_cnt (s : State) (v : HostSt) : (s.setHost v).cnt = s.cnt := rfl
@[simp] theorem State.setHost_tests (s : State) (v : HostSt) : (s.setHost v).tests = s.tests := rfl
@[simp] theorem State.setHost_clk (s : State) (v : HostSt) : (s.setHost v).clk = s.clk := rfl
@[simp] theorem State.setHost_ports (s : State) (v : HostSt) : (s.setHost v).ports = s.ports := rfl
@[simp] theorem State.setHost_audio (s : State) (v : HostSt) : (s.setHost v).audio = s.audio := rfl
@[simp] theorem State.setHost_churn (s : State) (v : HostSt) : (s.setHost v).churn = s.churn := rfl
@[simp] theorem State.setHost_sep (s : State) (v : HostSt) : (s.setHost v).sep = s.sep := rfl
@[simp] theorem State.setHost_vat (s : State) (v : HostSt) : (s.setHost v).vat = s.vat := rfl
@[simp] theorem State.setHost_cc (s : State) (v : HostSt) : (s.setHost v).cc = s.cc := rfl
@[simp] theorem State.setHost_net (s : State) (v : HostSt) : (s.setHost v).net = s.net := rfl
@[simp] theorem State.setHost_herd (s : State) (v : HostSt) : (s.setHost v).herd = s.herd := rfl
@[simp] theorem State.setHost_pwr (s : State) (v : HostSt) : (s.setHost v).pwr = s.pwr := rfl
@[simp] theorem State.setHost_psu (s : State) (v : HostSt) : (s.setHost v).psu = s.psu := rfl
@[simp] theorem State.setHost_kf (s : State) (v : HostSt) : (s.setHost v).kf = s.kf := rfl
@[simp] theorem State.setHost_nv (s : State) (v : HostSt) : (s.setHost v).nv = s.nv := rfl
@[simp] theorem State.setHost_boot (s : State) (v : HostSt) : (s.setHost v).boot = s.boot := rfl
@[simp] theorem State.setHost_dbg (s : State) (v : HostSt) : (s.setHost v).dbg = s.dbg := rfl
@[simp] theorem State.setPcie_pending (s : State) (v : PcieSt) : (s.setPcie v).pending = s.pending := rfl
@[simp] theorem State.setPcie_time (s : State) (v : PcieSt) : (s.setPcie v).time = s.time := rfl
@[simp] theorem State.setPcie_mem (s : State) (v : PcieSt) : (s.setPcie v).mem = s.mem := rfl
@[simp] theorem State.setPcie_hostMem (s : State) (v : PcieSt) : (s.setPcie v).hostMem = s.hostMem := rfl
@[simp] theorem State.setPcie_bus (s : State) (v : PcieSt) : (s.setPcie v).bus = s.bus := rfl
@[simp] theorem State.setPcie_host (s : State) (v : PcieSt) : (s.setPcie v).host = s.host := rfl
@[simp] theorem State.setPcie_pcie (s : State) (v : PcieSt) : (s.setPcie v).pcie = v := rfl
@[simp] theorem State.setPcie_cmt (s : State) (v : PcieSt) : (s.setPcie v).cmt = s.cmt := rfl
@[simp] theorem State.setPcie_units (s : State) (v : PcieSt) : (s.setPcie v).units = s.units := rfl
@[simp] theorem State.setPcie_cnt (s : State) (v : PcieSt) : (s.setPcie v).cnt = s.cnt := rfl
@[simp] theorem State.setPcie_tests (s : State) (v : PcieSt) : (s.setPcie v).tests = s.tests := rfl
@[simp] theorem State.setPcie_clk (s : State) (v : PcieSt) : (s.setPcie v).clk = s.clk := rfl
@[simp] theorem State.setPcie_ports (s : State) (v : PcieSt) : (s.setPcie v).ports = s.ports := rfl
@[simp] theorem State.setPcie_audio (s : State) (v : PcieSt) : (s.setPcie v).audio = s.audio := rfl
@[simp] theorem State.setPcie_churn (s : State) (v : PcieSt) : (s.setPcie v).churn = s.churn := rfl
@[simp] theorem State.setPcie_sep (s : State) (v : PcieSt) : (s.setPcie v).sep = s.sep := rfl
@[simp] theorem State.setPcie_vat (s : State) (v : PcieSt) : (s.setPcie v).vat = s.vat := rfl
@[simp] theorem State.setPcie_cc (s : State) (v : PcieSt) : (s.setPcie v).cc = s.cc := rfl
@[simp] theorem State.setPcie_net (s : State) (v : PcieSt) : (s.setPcie v).net = s.net := rfl
@[simp] theorem State.setPcie_herd (s : State) (v : PcieSt) : (s.setPcie v).herd = s.herd := rfl
@[simp] theorem State.setPcie_pwr (s : State) (v : PcieSt) : (s.setPcie v).pwr = s.pwr := rfl
@[simp] theorem State.setPcie_psu (s : State) (v : PcieSt) : (s.setPcie v).psu = s.psu := rfl
@[simp] theorem State.setPcie_kf (s : State) (v : PcieSt) : (s.setPcie v).kf = s.kf := rfl
@[simp] theorem State.setPcie_nv (s : State) (v : PcieSt) : (s.setPcie v).nv = s.nv := rfl
@[simp] theorem State.setPcie_boot (s : State) (v : PcieSt) : (s.setPcie v).boot = s.boot := rfl
@[simp] theorem State.setPcie_dbg (s : State) (v : PcieSt) : (s.setPcie v).dbg = s.dbg := rfl
@[simp] theorem State.setCmt_pending (s : State) (v : CmtSt) : (s.setCmt v).pending = s.pending := rfl
@[simp] theorem State.setCmt_time (s : State) (v : CmtSt) : (s.setCmt v).time = s.time := rfl
@[simp] theorem State.setCmt_mem (s : State) (v : CmtSt) : (s.setCmt v).mem = s.mem := rfl
@[simp] theorem State.setCmt_hostMem (s : State) (v : CmtSt) : (s.setCmt v).hostMem = s.hostMem := rfl
@[simp] theorem State.setCmt_bus (s : State) (v : CmtSt) : (s.setCmt v).bus = s.bus := rfl
@[simp] theorem State.setCmt_host (s : State) (v : CmtSt) : (s.setCmt v).host = s.host := rfl
@[simp] theorem State.setCmt_pcie (s : State) (v : CmtSt) : (s.setCmt v).pcie = s.pcie := rfl
@[simp] theorem State.setCmt_cmt (s : State) (v : CmtSt) : (s.setCmt v).cmt = v := rfl
@[simp] theorem State.setCmt_units (s : State) (v : CmtSt) : (s.setCmt v).units = s.units := rfl
@[simp] theorem State.setCmt_cnt (s : State) (v : CmtSt) : (s.setCmt v).cnt = s.cnt := rfl
@[simp] theorem State.setCmt_tests (s : State) (v : CmtSt) : (s.setCmt v).tests = s.tests := rfl
@[simp] theorem State.setCmt_clk (s : State) (v : CmtSt) : (s.setCmt v).clk = s.clk := rfl
@[simp] theorem State.setCmt_ports (s : State) (v : CmtSt) : (s.setCmt v).ports = s.ports := rfl
@[simp] theorem State.setCmt_audio (s : State) (v : CmtSt) : (s.setCmt v).audio = s.audio := rfl
@[simp] theorem State.setCmt_churn (s : State) (v : CmtSt) : (s.setCmt v).churn = s.churn := rfl
@[simp] theorem State.setCmt_sep (s : State) (v : CmtSt) : (s.setCmt v).sep = s.sep := rfl
@[simp] theorem State.setCmt_vat (s : State) (v : CmtSt) : (s.setCmt v).vat = s.vat := rfl
@[simp] theorem State.setCmt_cc (s : State) (v : CmtSt) : (s.setCmt v).cc = s.cc := rfl
@[simp] theorem State.setCmt_net (s : State) (v : CmtSt) : (s.setCmt v).net = s.net := rfl
@[simp] theorem State.setCmt_herd (s : State) (v : CmtSt) : (s.setCmt v).herd = s.herd := rfl
@[simp] theorem State.setCmt_pwr (s : State) (v : CmtSt) : (s.setCmt v).pwr = s.pwr := rfl
@[simp] theorem State.setCmt_psu (s : State) (v : CmtSt) : (s.setCmt v).psu = s.psu := rfl
@[simp] theorem State.setCmt_kf (s : State) (v : CmtSt) : (s.setCmt v).kf = s.kf := rfl
@[simp] theorem State.setCmt_nv (s : State) (v : CmtSt) : (s.setCmt v).nv = s.nv := rfl
@[simp] theorem State.setCmt_boot (s : State) (v : CmtSt) : (s.setCmt v).boot = s.boot := rfl
@[simp] theorem State.setCmt_dbg (s : State) (v : CmtSt) : (s.setCmt v).dbg = s.dbg := rfl
@[simp] theorem State.setUnits_pending (s : State) (v : Map UnitSt) : (s.setUnits v).pending = s.pending := rfl
@[simp] theorem State.setUnits_time (s : State) (v : Map UnitSt) : (s.setUnits v).time = s.time := rfl
@[simp] theorem State.setUnits_mem (s : State) (v : Map UnitSt) : (s.setUnits v).mem = s.mem := rfl
@[simp] theorem State.setUnits_hostMem (s : State) (v : Map UnitSt) : (s.setUnits v).hostMem = s.hostMem := rfl
@[simp] theorem State.setUnits_bus (s : State) (v : Map UnitSt) : (s.setUnits v).bus = s.bus := rfl
@[simp] theorem State.setUnits_host (s : State) (v : Map UnitSt) : (s.setUnits v).host = s.host := rfl
@[simp] theorem State.setUnits_pcie (s : State) (v : Map UnitSt) : (s.setUnits v).pcie = s.pcie := rfl
@[simp] theorem State.setUnits_cmt (s : State) (v : Map UnitSt) : (s.setUnits v).cmt = s.cmt := rfl
@[simp] theorem State.setUnits_units (s : State) (v : Map UnitSt) : (s.setUnits v).units = v := rfl
@[simp] theorem State.setUnits_cnt (s : State) (v : Map UnitSt) : (s.setUnits v).cnt = s.cnt := rfl
@[simp] theorem State.setUnits_tests (s : State) (v : Map UnitSt) : (s.setUnits v).tests = s.tests := rfl
@[simp] theorem State.setUnits_clk (s : State) (v : Map UnitSt) : (s.setUnits v).clk = s.clk := rfl
@[simp] theorem State.setUnits_ports (s : State) (v : Map UnitSt) : (s.setUnits v).ports = s.ports := rfl
@[simp] theorem State.setUnits_audio (s : State) (v : Map UnitSt) : (s.setUnits v).audio = s.audio := rfl
@[simp] theorem State.setUnits_churn (s : State) (v : Map UnitSt) : (s.setUnits v).churn = s.churn := rfl
@[simp] theorem State.setUnits_sep (s : State) (v : Map UnitSt) : (s.setUnits v).sep = s.sep := rfl
@[simp] theorem State.setUnits_vat (s : State) (v : Map UnitSt) : (s.setUnits v).vat = s.vat := rfl
@[simp] theorem State.setUnits_cc (s : State) (v : Map UnitSt) : (s.setUnits v).cc = s.cc := rfl
@[simp] theorem State.setUnits_net (s : State) (v : Map UnitSt) : (s.setUnits v).net = s.net := rfl
@[simp] theorem State.setUnits_herd (s : State) (v : Map UnitSt) : (s.setUnits v).herd = s.herd := rfl
@[simp] theorem State.setUnits_pwr (s : State) (v : Map UnitSt) : (s.setUnits v).pwr = s.pwr := rfl
@[simp] theorem State.setUnits_psu (s : State) (v : Map UnitSt) : (s.setUnits v).psu = s.psu := rfl
@[simp] theorem State.setUnits_kf (s : State) (v : Map UnitSt) : (s.setUnits v).kf = s.kf := rfl
@[simp] theorem State.setUnits_nv (s : State) (v : Map UnitSt) : (s.setUnits v).nv = s.nv := rfl
@[simp] theorem State.setUnits_boot (s : State) (v : Map UnitSt) : (s.setUnits v).boot = s.boot := rfl
@[simp] theorem State.setUnits_dbg (s : State) (v : Map UnitSt) : (s.setUnits v).dbg = s.dbg := rfl
@[simp] theorem State.setCnt_pending (s : State) (v : Map Word) : (s.setCnt v).pending = s.pending := rfl
@[simp] theorem State.setCnt_time (s : State) (v : Map Word) : (s.setCnt v).time = s.time := rfl
@[simp] theorem State.setCnt_mem (s : State) (v : Map Word) : (s.setCnt v).mem = s.mem := rfl
@[simp] theorem State.setCnt_hostMem (s : State) (v : Map Word) : (s.setCnt v).hostMem = s.hostMem := rfl
@[simp] theorem State.setCnt_bus (s : State) (v : Map Word) : (s.setCnt v).bus = s.bus := rfl
@[simp] theorem State.setCnt_host (s : State) (v : Map Word) : (s.setCnt v).host = s.host := rfl
@[simp] theorem State.setCnt_pcie (s : State) (v : Map Word) : (s.setCnt v).pcie = s.pcie := rfl
@[simp] theorem State.setCnt_cmt (s : State) (v : Map Word) : (s.setCnt v).cmt = s.cmt := rfl
@[simp] theorem State.setCnt_units (s : State) (v : Map Word) : (s.setCnt v).units = s.units := rfl
@[simp] theorem State.setCnt_cnt (s : State) (v : Map Word) : (s.setCnt v).cnt = v := rfl
@[simp] theorem State.setCnt_tests (s : State) (v : Map Word) : (s.setCnt v).tests = s.tests := rfl
@[simp] theorem State.setCnt_clk (s : State) (v : Map Word) : (s.setCnt v).clk = s.clk := rfl
@[simp] theorem State.setCnt_ports (s : State) (v : Map Word) : (s.setCnt v).ports = s.ports := rfl
@[simp] theorem State.setCnt_audio (s : State) (v : Map Word) : (s.setCnt v).audio = s.audio := rfl
@[simp] theorem State.setCnt_churn (s : State) (v : Map Word) : (s.setCnt v).churn = s.churn := rfl
@[simp] theorem State.setCnt_sep (s : State) (v : Map Word) : (s.setCnt v).sep = s.sep := rfl
@[simp] theorem State.setCnt_vat (s : State) (v : Map Word) : (s.setCnt v).vat = s.vat := rfl
@[simp] theorem State.setCnt_cc (s : State) (v : Map Word) : (s.setCnt v).cc = s.cc := rfl
@[simp] theorem State.setCnt_net (s : State) (v : Map Word) : (s.setCnt v).net = s.net := rfl
@[simp] theorem State.setCnt_herd (s : State) (v : Map Word) : (s.setCnt v).herd = s.herd := rfl
@[simp] theorem State.setCnt_pwr (s : State) (v : Map Word) : (s.setCnt v).pwr = s.pwr := rfl
@[simp] theorem State.setCnt_psu (s : State) (v : Map Word) : (s.setCnt v).psu = s.psu := rfl
@[simp] theorem State.setCnt_kf (s : State) (v : Map Word) : (s.setCnt v).kf = s.kf := rfl
@[simp] theorem State.setCnt_nv (s : State) (v : Map Word) : (s.setCnt v).nv = s.nv := rfl
@[simp] theorem State.setCnt_boot (s : State) (v : Map Word) : (s.setCnt v).boot = s.boot := rfl
@[simp] theorem State.setCnt_dbg (s : State) (v : Map Word) : (s.setCnt v).dbg = s.dbg := rfl
@[simp] theorem State.setTests_pending (s : State) (v : List TestRun) : (s.setTests v).pending = s.pending := rfl
@[simp] theorem State.setTests_time (s : State) (v : List TestRun) : (s.setTests v).time = s.time := rfl
@[simp] theorem State.setTests_mem (s : State) (v : List TestRun) : (s.setTests v).mem = s.mem := rfl
@[simp] theorem State.setTests_hostMem (s : State) (v : List TestRun) : (s.setTests v).hostMem = s.hostMem := rfl
@[simp] theorem State.setTests_bus (s : State) (v : List TestRun) : (s.setTests v).bus = s.bus := rfl
@[simp] theorem State.setTests_host (s : State) (v : List TestRun) : (s.setTests v).host = s.host := rfl
@[simp] theorem State.setTests_pcie (s : State) (v : List TestRun) : (s.setTests v).pcie = s.pcie := rfl
@[simp] theorem State.setTests_cmt (s : State) (v : List TestRun) : (s.setTests v).cmt = s.cmt := rfl
@[simp] theorem State.setTests_units (s : State) (v : List TestRun) : (s.setTests v).units = s.units := rfl
@[simp] theorem State.setTests_cnt (s : State) (v : List TestRun) : (s.setTests v).cnt = s.cnt := rfl
@[simp] theorem State.setTests_tests (s : State) (v : List TestRun) : (s.setTests v).tests = v := rfl
@[simp] theorem State.setTests_clk (s : State) (v : List TestRun) : (s.setTests v).clk = s.clk := rfl
@[simp] theorem State.setTests_ports (s : State) (v : List TestRun) : (s.setTests v).ports = s.ports := rfl
@[simp] theorem State.setTests_audio (s : State) (v : List TestRun) : (s.setTests v).audio = s.audio := rfl
@[simp] theorem State.setTests_churn (s : State) (v : List TestRun) : (s.setTests v).churn = s.churn := rfl
@[simp] theorem State.setTests_sep (s : State) (v : List TestRun) : (s.setTests v).sep = s.sep := rfl
@[simp] theorem State.setTests_vat (s : State) (v : List TestRun) : (s.setTests v).vat = s.vat := rfl
@[simp] theorem State.setTests_cc (s : State) (v : List TestRun) : (s.setTests v).cc = s.cc := rfl
@[simp] theorem State.setTests_net (s : State) (v : List TestRun) : (s.setTests v).net = s.net := rfl
@[simp] theorem State.setTests_herd (s : State) (v : List TestRun) : (s.setTests v).herd = s.herd := rfl
@[simp] theorem State.setTests_pwr (s : State) (v : List TestRun) : (s.setTests v).pwr = s.pwr := rfl
@[simp] theorem State.setTests_psu (s : State) (v : List TestRun) : (s.setTests v).psu = s.psu := rfl
@[simp] theorem State.setTests_kf (s : State) (v : List TestRun) : (s.setTests v).kf = s.kf := rfl
@[simp] theorem State.setTests_nv (s : State) (v : List TestRun) : (s.setTests v).nv = s.nv := rfl
@[simp] theorem State.setTests_boot (s : State) (v : List TestRun) : (s.setTests v).boot = s.boot := rfl
@[simp] theorem State.setTests_dbg (s : State) (v : List TestRun) : (s.setTests v).dbg = s.dbg := rfl
@[simp] theorem State.setClk_pending (s : State) (v : ClkSt) : (s.setClk v).pending = s.pending := rfl
@[simp] theorem State.setClk_time (s : State) (v : ClkSt) : (s.setClk v).time = s.time := rfl
@[simp] theorem State.setClk_mem (s : State) (v : ClkSt) : (s.setClk v).mem = s.mem := rfl
@[simp] theorem State.setClk_hostMem (s : State) (v : ClkSt) : (s.setClk v).hostMem = s.hostMem := rfl
@[simp] theorem State.setClk_bus (s : State) (v : ClkSt) : (s.setClk v).bus = s.bus := rfl
@[simp] theorem State.setClk_host (s : State) (v : ClkSt) : (s.setClk v).host = s.host := rfl
@[simp] theorem State.setClk_pcie (s : State) (v : ClkSt) : (s.setClk v).pcie = s.pcie := rfl
@[simp] theorem State.setClk_cmt (s : State) (v : ClkSt) : (s.setClk v).cmt = s.cmt := rfl
@[simp] theorem State.setClk_units (s : State) (v : ClkSt) : (s.setClk v).units = s.units := rfl
@[simp] theorem State.setClk_cnt (s : State) (v : ClkSt) : (s.setClk v).cnt = s.cnt := rfl
@[simp] theorem State.setClk_tests (s : State) (v : ClkSt) : (s.setClk v).tests = s.tests := rfl
@[simp] theorem State.setClk_clk (s : State) (v : ClkSt) : (s.setClk v).clk = v := rfl
@[simp] theorem State.setClk_ports (s : State) (v : ClkSt) : (s.setClk v).ports = s.ports := rfl
@[simp] theorem State.setClk_audio (s : State) (v : ClkSt) : (s.setClk v).audio = s.audio := rfl
@[simp] theorem State.setClk_churn (s : State) (v : ClkSt) : (s.setClk v).churn = s.churn := rfl
@[simp] theorem State.setClk_sep (s : State) (v : ClkSt) : (s.setClk v).sep = s.sep := rfl
@[simp] theorem State.setClk_vat (s : State) (v : ClkSt) : (s.setClk v).vat = s.vat := rfl
@[simp] theorem State.setClk_cc (s : State) (v : ClkSt) : (s.setClk v).cc = s.cc := rfl
@[simp] theorem State.setClk_net (s : State) (v : ClkSt) : (s.setClk v).net = s.net := rfl
@[simp] theorem State.setClk_herd (s : State) (v : ClkSt) : (s.setClk v).herd = s.herd := rfl
@[simp] theorem State.setClk_pwr (s : State) (v : ClkSt) : (s.setClk v).pwr = s.pwr := rfl
@[simp] theorem State.setClk_psu (s : State) (v : ClkSt) : (s.setClk v).psu = s.psu := rfl
@[simp] theorem State.setClk_kf (s : State) (v : ClkSt) : (s.setClk v).kf = s.kf := rfl
@[simp] theorem State.setClk_nv (s : State) (v : ClkSt) : (s.setClk v).nv = s.nv := rfl
@[simp] theorem State.setClk_boot (s : State) (v : ClkSt) : (s.setClk v).boot = s.boot := rfl
@[simp] theorem State.setClk_dbg (s : State) (v : ClkSt) : (s.setClk v).dbg = s.dbg := rfl
@[simp] theorem State.setPorts_pending (s : State) (v : Map PortSt) : (s.setPorts v).pending = s.pending := rfl
@[simp] theorem State.setPorts_time (s : State) (v : Map PortSt) : (s.setPorts v).time = s.time := rfl
@[simp] theorem State.setPorts_mem (s : State) (v : Map PortSt) : (s.setPorts v).mem = s.mem := rfl
@[simp] theorem State.setPorts_hostMem (s : State) (v : Map PortSt) : (s.setPorts v).hostMem = s.hostMem := rfl
@[simp] theorem State.setPorts_bus (s : State) (v : Map PortSt) : (s.setPorts v).bus = s.bus := rfl
@[simp] theorem State.setPorts_host (s : State) (v : Map PortSt) : (s.setPorts v).host = s.host := rfl
@[simp] theorem State.setPorts_pcie (s : State) (v : Map PortSt) : (s.setPorts v).pcie = s.pcie := rfl
@[simp] theorem State.setPorts_cmt (s : State) (v : Map PortSt) : (s.setPorts v).cmt = s.cmt := rfl
@[simp] theorem State.setPorts_units (s : State) (v : Map PortSt) : (s.setPorts v).units = s.units := rfl
@[simp] theorem State.setPorts_cnt (s : State) (v : Map PortSt) : (s.setPorts v).cnt = s.cnt := rfl
@[simp] theorem State.setPorts_tests (s : State) (v : Map PortSt) : (s.setPorts v).tests = s.tests := rfl
@[simp] theorem State.setPorts_clk (s : State) (v : Map PortSt) : (s.setPorts v).clk = s.clk := rfl
@[simp] theorem State.setPorts_ports (s : State) (v : Map PortSt) : (s.setPorts v).ports = v := rfl
@[simp] theorem State.setPorts_audio (s : State) (v : Map PortSt) : (s.setPorts v).audio = s.audio := rfl
@[simp] theorem State.setPorts_churn (s : State) (v : Map PortSt) : (s.setPorts v).churn = s.churn := rfl
@[simp] theorem State.setPorts_sep (s : State) (v : Map PortSt) : (s.setPorts v).sep = s.sep := rfl
@[simp] theorem State.setPorts_vat (s : State) (v : Map PortSt) : (s.setPorts v).vat = s.vat := rfl
@[simp] theorem State.setPorts_cc (s : State) (v : Map PortSt) : (s.setPorts v).cc = s.cc := rfl
@[simp] theorem State.setPorts_net (s : State) (v : Map PortSt) : (s.setPorts v).net = s.net := rfl
@[simp] theorem State.setPorts_herd (s : State) (v : Map PortSt) : (s.setPorts v).herd = s.herd := rfl
@[simp] theorem State.setPorts_pwr (s : State) (v : Map PortSt) : (s.setPorts v).pwr = s.pwr := rfl
@[simp] theorem State.setPorts_psu (s : State) (v : Map PortSt) : (s.setPorts v).psu = s.psu := rfl
@[simp] theorem State.setPorts_kf (s : State) (v : Map PortSt) : (s.setPorts v).kf = s.kf := rfl
@[simp] theorem State.setPorts_nv (s : State) (v : Map PortSt) : (s.setPorts v).nv = s.nv := rfl
@[simp] theorem State.setPorts_boot (s : State) (v : Map PortSt) : (s.setPorts v).boot = s.boot := rfl
@[simp] theorem State.setPorts_dbg (s : State) (v : Map PortSt) : (s.setPorts v).dbg = s.dbg := rfl
@[simp] theorem State.setAudio_pending (s : State) (v : AudioSt) : (s.setAudio v).pending = s.pending := rfl
@[simp] theorem State.setAudio_time (s : State) (v : AudioSt) : (s.setAudio v).time = s.time := rfl
@[simp] theorem State.setAudio_mem (s : State) (v : AudioSt) : (s.setAudio v).mem = s.mem := rfl
@[simp] theorem State.setAudio_hostMem (s : State) (v : AudioSt) : (s.setAudio v).hostMem = s.hostMem := rfl
@[simp] theorem State.setAudio_bus (s : State) (v : AudioSt) : (s.setAudio v).bus = s.bus := rfl
@[simp] theorem State.setAudio_host (s : State) (v : AudioSt) : (s.setAudio v).host = s.host := rfl
@[simp] theorem State.setAudio_pcie (s : State) (v : AudioSt) : (s.setAudio v).pcie = s.pcie := rfl
@[simp] theorem State.setAudio_cmt (s : State) (v : AudioSt) : (s.setAudio v).cmt = s.cmt := rfl
@[simp] theorem State.setAudio_units (s : State) (v : AudioSt) : (s.setAudio v).units = s.units := rfl
@[simp] theorem State.setAudio_cnt (s : State) (v : AudioSt) : (s.setAudio v).cnt = s.cnt := rfl
@[simp] theorem State.setAudio_tests (s : State) (v : AudioSt) : (s.setAudio v).tests = s.tests := rfl
@[simp] theorem State.setAudio_clk (s : State) (v : AudioSt) : (s.setAudio v).clk = s.clk := rfl
@[simp] theorem State.setAudio_ports (s : State) (v : AudioSt) : (s.setAudio v).ports = s.ports := rfl
@[simp] theorem State.setAudio_audio (s : State) (v : AudioSt) : (s.setAudio v).audio = v := rfl
@[simp] theorem State.setAudio_churn (s : State) (v : AudioSt) : (s.setAudio v).churn = s.churn := rfl
@[simp] theorem State.setAudio_sep (s : State) (v : AudioSt) : (s.setAudio v).sep = s.sep := rfl
@[simp] theorem State.setAudio_vat (s : State) (v : AudioSt) : (s.setAudio v).vat = s.vat := rfl
@[simp] theorem State.setAudio_cc (s : State) (v : AudioSt) : (s.setAudio v).cc = s.cc := rfl
@[simp] theorem State.setAudio_net (s : State) (v : AudioSt) : (s.setAudio v).net = s.net := rfl
@[simp] theorem State.setAudio_herd (s : State) (v : AudioSt) : (s.setAudio v).herd = s.herd := rfl
@[simp] theorem State.setAudio_pwr (s : State) (v : AudioSt) : (s.setAudio v).pwr = s.pwr := rfl
@[simp] theorem State.setAudio_psu (s : State) (v : AudioSt) : (s.setAudio v).psu = s.psu := rfl
@[simp] theorem State.setAudio_kf (s : State) (v : AudioSt) : (s.setAudio v).kf = s.kf := rfl
@[simp] theorem State.setAudio_nv (s : State) (v : AudioSt) : (s.setAudio v).nv = s.nv := rfl
@[simp] theorem State.setAudio_boot (s : State) (v : AudioSt) : (s.setAudio v).boot = s.boot := rfl
@[simp] theorem State.setAudio_dbg (s : State) (v : AudioSt) : (s.setAudio v).dbg = s.dbg := rfl
@[simp] theorem State.setChurn_pending (s : State) (v : ChurnSt) : (s.setChurn v).pending = s.pending := rfl
@[simp] theorem State.setChurn_time (s : State) (v : ChurnSt) : (s.setChurn v).time = s.time := rfl
@[simp] theorem State.setChurn_mem (s : State) (v : ChurnSt) : (s.setChurn v).mem = s.mem := rfl
@[simp] theorem State.setChurn_hostMem (s : State) (v : ChurnSt) : (s.setChurn v).hostMem = s.hostMem := rfl
@[simp] theorem State.setChurn_bus (s : State) (v : ChurnSt) : (s.setChurn v).bus = s.bus := rfl
@[simp] theorem State.setChurn_host (s : State) (v : ChurnSt) : (s.setChurn v).host = s.host := rfl
@[simp] theorem State.setChurn_pcie (s : State) (v : ChurnSt) : (s.setChurn v).pcie = s.pcie := rfl
@[simp] theorem State.setChurn_cmt (s : State) (v : ChurnSt) : (s.setChurn v).cmt = s.cmt := rfl
@[simp] theorem State.setChurn_units (s : State) (v : ChurnSt) : (s.setChurn v).units = s.units := rfl
@[simp] theorem State.setChurn_cnt (s : State) (v : ChurnSt) : (s.setChurn v).cnt = s.cnt := rfl
@[simp] theorem State.setChurn_tests (s : State) (v : ChurnSt) : (s.setChurn v).tests = s.tests := rfl
@[simp] theorem State.setChurn_clk (s : State) (v : ChurnSt) : (s.setChurn v).clk = s.clk := rfl
@[simp] theorem State.setChurn_ports (s : State) (v : ChurnSt) : (s.setChurn v).ports = s.ports := rfl
@[simp] theorem State.setChurn_audio (s : State) (v : ChurnSt) : (s.setChurn v).audio = s.audio := rfl
@[simp] theorem State.setChurn_churn (s : State) (v : ChurnSt) : (s.setChurn v).churn = v := rfl
@[simp] theorem State.setChurn_sep (s : State) (v : ChurnSt) : (s.setChurn v).sep = s.sep := rfl
@[simp] theorem State.setChurn_vat (s : State) (v : ChurnSt) : (s.setChurn v).vat = s.vat := rfl
@[simp] theorem State.setChurn_cc (s : State) (v : ChurnSt) : (s.setChurn v).cc = s.cc := rfl
@[simp] theorem State.setChurn_net (s : State) (v : ChurnSt) : (s.setChurn v).net = s.net := rfl
@[simp] theorem State.setChurn_herd (s : State) (v : ChurnSt) : (s.setChurn v).herd = s.herd := rfl
@[simp] theorem State.setChurn_pwr (s : State) (v : ChurnSt) : (s.setChurn v).pwr = s.pwr := rfl
@[simp] theorem State.setChurn_psu (s : State) (v : ChurnSt) : (s.setChurn v).psu = s.psu := rfl
@[simp] theorem State.setChurn_kf (s : State) (v : ChurnSt) : (s.setChurn v).kf = s.kf := rfl
@[simp] theorem State.setChurn_nv (s : State) (v : ChurnSt) : (s.setChurn v).nv = s.nv := rfl
@[simp] theorem State.setChurn_boot (s : State) (v : ChurnSt) : (s.setChurn v).boot = s.boot := rfl
@[simp] theorem State.setChurn_dbg (s : State) (v : ChurnSt) : (s.setChurn v).dbg = s.dbg := rfl
@[simp] theorem State.setSep_pending (s : State) (v : SepSt) : (s.setSep v).pending = s.pending := rfl
@[simp] theorem State.setSep_time (s : State) (v : SepSt) : (s.setSep v).time = s.time := rfl
@[simp] theorem State.setSep_mem (s : State) (v : SepSt) : (s.setSep v).mem = s.mem := rfl
@[simp] theorem State.setSep_hostMem (s : State) (v : SepSt) : (s.setSep v).hostMem = s.hostMem := rfl
@[simp] theorem State.setSep_bus (s : State) (v : SepSt) : (s.setSep v).bus = s.bus := rfl
@[simp] theorem State.setSep_host (s : State) (v : SepSt) : (s.setSep v).host = s.host := rfl
@[simp] theorem State.setSep_pcie (s : State) (v : SepSt) : (s.setSep v).pcie = s.pcie := rfl
@[simp] theorem State.setSep_cmt (s : State) (v : SepSt) : (s.setSep v).cmt = s.cmt := rfl
@[simp] theorem State.setSep_units (s : State) (v : SepSt) : (s.setSep v).units = s.units := rfl
@[simp] theorem State.setSep_cnt (s : State) (v : SepSt) : (s.setSep v).cnt = s.cnt := rfl
@[simp] theorem State.setSep_tests (s : State) (v : SepSt) : (s.setSep v).tests = s.tests := rfl
@[simp] theorem State.setSep_clk (s : State) (v : SepSt) : (s.setSep v).clk = s.clk := rfl
@[simp] theorem State.setSep_ports (s : State) (v : SepSt) : (s.setSep v).ports = s.ports := rfl
@[simp] theorem State.setSep_audio (s : State) (v : SepSt) : (s.setSep v).audio = s.audio := rfl
@[simp] theorem State.setSep_churn (s : State) (v : SepSt) : (s.setSep v).churn = s.churn := rfl
@[simp] theorem State.setSep_sep (s : State) (v : SepSt) : (s.setSep v).sep = v := rfl
@[simp] theorem State.setSep_vat (s : State) (v : SepSt) : (s.setSep v).vat = s.vat := rfl
@[simp] theorem State.setSep_cc (s : State) (v : SepSt) : (s.setSep v).cc = s.cc := rfl
@[simp] theorem State.setSep_net (s : State) (v : SepSt) : (s.setSep v).net = s.net := rfl
@[simp] theorem State.setSep_herd (s : State) (v : SepSt) : (s.setSep v).herd = s.herd := rfl
@[simp] theorem State.setSep_pwr (s : State) (v : SepSt) : (s.setSep v).pwr = s.pwr := rfl
@[simp] theorem State.setSep_psu (s : State) (v : SepSt) : (s.setSep v).psu = s.psu := rfl
@[simp] theorem State.setSep_kf (s : State) (v : SepSt) : (s.setSep v).kf = s.kf := rfl
@[simp] theorem State.setSep_nv (s : State) (v : SepSt) : (s.setSep v).nv = s.nv := rfl
@[simp] theorem State.setSep_boot (s : State) (v : SepSt) : (s.setSep v).boot = s.boot := rfl
@[simp] theorem State.setSep_dbg (s : State) (v : SepSt) : (s.setSep v).dbg = s.dbg := rfl
@[simp] theorem State.setVat_pending (s : State) (v : VatSt) : (s.setVat v).pending = s.pending := rfl
@[simp] theorem State.setVat_time (s : State) (v : VatSt) : (s.setVat v).time = s.time := rfl
@[simp] theorem State.setVat_mem (s : State) (v : VatSt) : (s.setVat v).mem = s.mem := rfl
@[simp] theorem State.setVat_hostMem (s : State) (v : VatSt) : (s.setVat v).hostMem = s.hostMem := rfl
@[simp] theorem State.setVat_bus (s : State) (v : VatSt) : (s.setVat v).bus = s.bus := rfl
@[simp] theorem State.setVat_host (s : State) (v : VatSt) : (s.setVat v).host = s.host := rfl
@[simp] theorem State.setVat_pcie (s : State) (v : VatSt) : (s.setVat v).pcie = s.pcie := rfl
@[simp] theorem State.setVat_cmt (s : State) (v : VatSt) : (s.setVat v).cmt = s.cmt := rfl
@[simp] theorem State.setVat_units (s : State) (v : VatSt) : (s.setVat v).units = s.units := rfl
@[simp] theorem State.setVat_cnt (s : State) (v : VatSt) : (s.setVat v).cnt = s.cnt := rfl
@[simp] theorem State.setVat_tests (s : State) (v : VatSt) : (s.setVat v).tests = s.tests := rfl
@[simp] theorem State.setVat_clk (s : State) (v : VatSt) : (s.setVat v).clk = s.clk := rfl
@[simp] theorem State.setVat_ports (s : State) (v : VatSt) : (s.setVat v).ports = s.ports := rfl
@[simp] theorem State.setVat_audio (s : State) (v : VatSt) : (s.setVat v).audio = s.audio := rfl
@[simp] theorem State.setVat_churn (s : State) (v : VatSt) : (s.setVat v).churn = s.churn := rfl
@[simp] theorem State.setVat_sep (s : State) (v : VatSt) : (s.setVat v).sep = s.sep := rfl
@[simp] theorem State.setVat_vat (s : State) (v : VatSt) : (s.setVat v).vat = v := rfl
@[simp] theorem State.setVat_cc (s : State) (v : VatSt) : (s.setVat v).cc = s.cc := rfl
@[simp] theorem State.setVat_net (s : State) (v : VatSt) : (s.setVat v).net = s.net := rfl
@[simp] theorem State.setVat_herd (s : State) (v : VatSt) : (s.setVat v).herd = s.herd := rfl
@[simp] theorem State.setVat_pwr (s : State) (v : VatSt) : (s.setVat v).pwr = s.pwr := rfl
@[simp] theorem State.setVat_psu (s : State) (v : VatSt) : (s.setVat v).psu = s.psu := rfl
@[simp] theorem State.setVat_kf (s : State) (v : VatSt) : (s.setVat v).kf = s.kf := rfl
@[simp] theorem State.setVat_nv (s : State) (v : VatSt) : (s.setVat v).nv = s.nv := rfl
@[simp] theorem State.setVat_boot (s : State) (v : VatSt) : (s.setVat v).boot = s.boot := rfl
@[simp] theorem State.setVat_dbg (s : State) (v : VatSt) : (s.setVat v).dbg = s.dbg := rfl
@[simp] theorem State.setCc_pending (s : State) (v : CcSt) : (s.setCc v).pending = s.pending := rfl
@[simp] theorem State.setCc_time (s : State) (v : CcSt) : (s.setCc v).time = s.time := rfl
@[simp] theorem State.setCc_mem (s : State) (v : CcSt) : (s.setCc v).mem = s.mem := rfl
@[simp] theorem State.setCc_hostMem (s : State) (v : CcSt) : (s.setCc v).hostMem = s.hostMem := rfl
@[simp] theorem State.setCc_bus (s : State) (v : CcSt) : (s.setCc v).bus = s.bus := rfl
@[simp] theorem State.setCc_host (s : State) (v : CcSt) : (s.setCc v).host = s.host := rfl
@[simp] theorem State.setCc_pcie (s : State) (v : CcSt) : (s.setCc v).pcie = s.pcie := rfl
@[simp] theorem State.setCc_cmt (s : State) (v : CcSt) : (s.setCc v).cmt = s.cmt := rfl
@[simp] theorem State.setCc_units (s : State) (v : CcSt) : (s.setCc v).units = s.units := rfl
@[simp] theorem State.setCc_cnt (s : State) (v : CcSt) : (s.setCc v).cnt = s.cnt := rfl
@[simp] theorem State.setCc_tests (s : State) (v : CcSt) : (s.setCc v).tests = s.tests := rfl
@[simp] theorem State.setCc_clk (s : State) (v : CcSt) : (s.setCc v).clk = s.clk := rfl
@[simp] theorem State.setCc_ports (s : State) (v : CcSt) : (s.setCc v).ports = s.ports := rfl
@[simp] theorem State.setCc_audio (s : State) (v : CcSt) : (s.setCc v).audio = s.audio := rfl
@[simp] theorem State.setCc_churn (s : State) (v : CcSt) : (s.setCc v).churn = s.churn := rfl
@[simp] theorem State.setCc_sep (s : State) (v : CcSt) : (s.setCc v).sep = s.sep := rfl
@[simp] theorem State.setCc_vat (s : State) (v : CcSt) : (s.setCc v).vat = s.vat := rfl
@[simp] theorem State.setCc_cc (s : State) (v : CcSt) : (s.setCc v).cc = v := rfl
@[simp] theorem State.setCc_net (s : State) (v : CcSt) : (s.setCc v).net = s.net := rfl
@[simp] theorem State.setCc_herd (s : State) (v : CcSt) : (s.setCc v).herd = s.herd := rfl
@[simp] theorem State.setCc_pwr (s : State) (v : CcSt) : (s.setCc v).pwr = s.pwr := rfl
@[simp] theorem State.setCc_psu (s : State) (v : CcSt) : (s.setCc v).psu = s.psu := rfl
@[simp] theorem State.setCc_kf (s : State) (v : CcSt) : (s.setCc v).kf = s.kf := rfl
@[simp] theorem State.setCc_nv (s : State) (v : CcSt) : (s.setCc v).nv = s.nv := rfl
@[simp] theorem State.setCc_boot (s : State) (v : CcSt) : (s.setCc v).boot = s.boot := rfl
@[simp] theorem State.setCc_dbg (s : State) (v : CcSt) : (s.setCc v).dbg = s.dbg := rfl
@[simp] theorem State.setNet_pending (s : State) (v : NetSt) : (s.setNet v).pending = s.pending := rfl
@[simp] theorem State.setNet_time (s : State) (v : NetSt) : (s.setNet v).time = s.time := rfl
@[simp] theorem State.setNet_mem (s : State) (v : NetSt) : (s.setNet v).mem = s.mem := rfl
@[simp] theorem State.setNet_hostMem (s : State) (v : NetSt) : (s.setNet v).hostMem = s.hostMem := rfl
@[simp] theorem State.setNet_bus (s : State) (v : NetSt) : (s.setNet v).bus = s.bus := rfl
@[simp] theorem State.setNet_host (s : State) (v : NetSt) : (s.setNet v).host = s.host := rfl
@[simp] theorem State.setNet_pcie (s : State) (v : NetSt) : (s.setNet v).pcie = s.pcie := rfl
@[simp] theorem State.setNet_cmt (s : State) (v : NetSt) : (s.setNet v).cmt = s.cmt := rfl
@[simp] theorem State.setNet_units (s : State) (v : NetSt) : (s.setNet v).units = s.units := rfl
@[simp] theorem State.setNet_cnt (s : State) (v : NetSt) : (s.setNet v).cnt = s.cnt := rfl
@[simp] theorem State.setNet_tests (s : State) (v : NetSt) : (s.setNet v).tests = s.tests := rfl
@[simp] theorem State.setNet_clk (s : State) (v : NetSt) : (s.setNet v).clk = s.clk := rfl
@[simp] theorem State.setNet_ports (s : State) (v : NetSt) : (s.setNet v).ports = s.ports := rfl
@[simp] theorem State.setNet_audio (s : State) (v : NetSt) : (s.setNet v).audio = s.audio := rfl
@[simp] theorem State.setNet_churn (s : State) (v : NetSt) : (s.setNet v).churn = s.churn := rfl
@[simp] theorem State.setNet_sep (s : State) (v : NetSt) : (s.setNet v).sep = s.sep := rfl
@[simp] theorem State.setNet_vat (s : State) (v : NetSt) : (s.setNet v).vat = s.vat := rfl
@[simp] theorem State.setNet_cc (s : State) (v : NetSt) : (s.setNet v).cc = s.cc := rfl
@[simp] theorem State.setNet_net (s : State) (v : NetSt) : (s.setNet v).net = v := rfl
@[simp] theorem State.setNet_herd (s : State) (v : NetSt) : (s.setNet v).herd = s.herd := rfl
@[simp] theorem State.setNet_pwr (s : State) (v : NetSt) : (s.setNet v).pwr = s.pwr := rfl
@[simp] theorem State.setNet_psu (s : State) (v : NetSt) : (s.setNet v).psu = s.psu := rfl
@[simp] theorem State.setNet_kf (s : State) (v : NetSt) : (s.setNet v).kf = s.kf := rfl
@[simp] theorem State.setNet_nv (s : State) (v : NetSt) : (s.setNet v).nv = s.nv := rfl
@[simp] theorem State.setNet_boot (s : State) (v : NetSt) : (s.setNet v).boot = s.boot := rfl
@[simp] theorem State.setNet_dbg (s : State) (v : NetSt) : (s.setNet v).dbg = s.dbg := rfl
@[simp] theorem State.setHerd_pending (s : State) (v : HerdSt) : (s.setHerd v).pending = s.pending := rfl
@[simp] theorem State.setHerd_time (s : State) (v : HerdSt) : (s.setHerd v).time = s.time := rfl
@[simp] theorem State.setHerd_mem (s : State) (v : HerdSt) : (s.setHerd v).mem = s.mem := rfl
@[simp] theorem State.setHerd_hostMem (s : State) (v : HerdSt) : (s.setHerd v).hostMem = s.hostMem := rfl
@[simp] theorem State.setHerd_bus (s : State) (v : HerdSt) : (s.setHerd v).bus = s.bus := rfl
@[simp] theorem State.setHerd_host (s : State) (v : HerdSt) : (s.setHerd v).host = s.host := rfl
@[simp] theorem State.setHerd_pcie (s : State) (v : HerdSt) : (s.setHerd v).pcie = s.pcie := rfl
@[simp] theorem State.setHerd_cmt (s : State) (v : HerdSt) : (s.setHerd v).cmt = s.cmt := rfl
@[simp] theorem State.setHerd_units (s : State) (v : HerdSt) : (s.setHerd v).units = s.units := rfl
@[simp] theorem State.setHerd_cnt (s : State) (v : HerdSt) : (s.setHerd v).cnt = s.cnt := rfl
@[simp] theorem State.setHerd_tests (s : State) (v : HerdSt) : (s.setHerd v).tests = s.tests := rfl
@[simp] theorem State.setHerd_clk (s : State) (v : HerdSt) : (s.setHerd v).clk = s.clk := rfl
@[simp] theorem State.setHerd_ports (s : State) (v : HerdSt) : (s.setHerd v).ports = s.ports := rfl
@[simp] theorem State.setHerd_audio (s : State) (v : HerdSt) : (s.setHerd v).audio = s.audio := rfl
@[simp] theorem State.setHerd_churn (s : State) (v : HerdSt) : (s.setHerd v).churn = s.churn := rfl
@[simp] theorem State.setHerd_sep (s : State) (v : HerdSt) : (s.setHerd v).sep = s.sep := rfl
@[simp] theorem State.setHerd_vat (s : State) (v : HerdSt) : (s.setHerd v).vat = s.vat := rfl
@[simp] theorem State.setHerd_cc (s : State) (v : HerdSt) : (s.setHerd v).cc = s.cc := rfl
@[simp] theorem State.setHerd_net (s : State) (v : HerdSt) : (s.setHerd v).net = s.net := rfl
@[simp] theorem State.setHerd_herd (s : State) (v : HerdSt) : (s.setHerd v).herd = v := rfl
@[simp] theorem State.setHerd_pwr (s : State) (v : HerdSt) : (s.setHerd v).pwr = s.pwr := rfl
@[simp] theorem State.setHerd_psu (s : State) (v : HerdSt) : (s.setHerd v).psu = s.psu := rfl
@[simp] theorem State.setHerd_kf (s : State) (v : HerdSt) : (s.setHerd v).kf = s.kf := rfl
@[simp] theorem State.setHerd_nv (s : State) (v : HerdSt) : (s.setHerd v).nv = s.nv := rfl
@[simp] theorem State.setHerd_boot (s : State) (v : HerdSt) : (s.setHerd v).boot = s.boot := rfl
@[simp] theorem State.setHerd_dbg (s : State) (v : HerdSt) : (s.setHerd v).dbg = s.dbg := rfl
@[simp] theorem State.setPwr_pending (s : State) (v : PwrSt) : (s.setPwr v).pending = s.pending := rfl
@[simp] theorem State.setPwr_time (s : State) (v : PwrSt) : (s.setPwr v).time = s.time := rfl
@[simp] theorem State.setPwr_mem (s : State) (v : PwrSt) : (s.setPwr v).mem = s.mem := rfl
@[simp] theorem State.setPwr_hostMem (s : State) (v : PwrSt) : (s.setPwr v).hostMem = s.hostMem := rfl
@[simp] theorem State.setPwr_bus (s : State) (v : PwrSt) : (s.setPwr v).bus = s.bus := rfl
@[simp] theorem State.setPwr_host (s : State) (v : PwrSt) : (s.setPwr v).host = s.host := rfl
@[simp] theorem State.setPwr_pcie (s : State) (v : PwrSt) : (s.setPwr v).pcie = s.pcie := rfl
@[simp] theorem State.setPwr_cmt (s : State) (v : PwrSt) : (s.setPwr v).cmt = s.cmt := rfl
@[simp] theorem State.setPwr_units (s : State) (v : PwrSt) : (s.setPwr v).units = s.units := rfl
@[simp] theorem State.setPwr_cnt (s : State) (v : PwrSt) : (s.setPwr v).cnt = s.cnt := rfl
@[simp] theorem State.setPwr_tests (s : State) (v : PwrSt) : (s.setPwr v).tests = s.tests := rfl
@[simp] theorem State.setPwr_clk (s : State) (v : PwrSt) : (s.setPwr v).clk = s.clk := rfl
@[simp] theorem State.setPwr_ports (s : State) (v : PwrSt) : (s.setPwr v).ports = s.ports := rfl
@[simp] theorem State.setPwr_audio (s : State) (v : PwrSt) : (s.setPwr v).audio = s.audio := rfl
@[simp] theorem State.setPwr_churn (s : State) (v : PwrSt) : (s.setPwr v).churn = s.churn := rfl
@[simp] theorem State.setPwr_sep (s : State) (v : PwrSt) : (s.setPwr v).sep = s.sep := rfl
@[simp] theorem State.setPwr_vat (s : State) (v : PwrSt) : (s.setPwr v).vat = s.vat := rfl
@[simp] theorem State.setPwr_cc (s : State) (v : PwrSt) : (s.setPwr v).cc = s.cc := rfl
@[simp] theorem State.setPwr_net (s : State) (v : PwrSt) : (s.setPwr v).net = s.net := rfl
@[simp] theorem State.setPwr_herd (s : State) (v : PwrSt) : (s.setPwr v).herd = s.herd := rfl
@[simp] theorem State.setPwr_pwr (s : State) (v : PwrSt) : (s.setPwr v).pwr = v := rfl
@[simp] theorem State.setPwr_psu (s : State) (v : PwrSt) : (s.setPwr v).psu = s.psu := rfl
@[simp] theorem State.setPwr_kf (s : State) (v : PwrSt) : (s.setPwr v).kf = s.kf := rfl
@[simp] theorem State.setPwr_nv (s : State) (v : PwrSt) : (s.setPwr v).nv = s.nv := rfl
@[simp] theorem State.setPwr_boot (s : State) (v : PwrSt) : (s.setPwr v).boot = s.boot := rfl
@[simp] theorem State.setPwr_dbg (s : State) (v : PwrSt) : (s.setPwr v).dbg = s.dbg := rfl
@[simp] theorem State.setPsu_pending (s : State) (v : PsuSt) : (s.setPsu v).pending = s.pending := rfl
@[simp] theorem State.setPsu_time (s : State) (v : PsuSt) : (s.setPsu v).time = s.time := rfl
@[simp] theorem State.setPsu_mem (s : State) (v : PsuSt) : (s.setPsu v).mem = s.mem := rfl
@[simp] theorem State.setPsu_hostMem (s : State) (v : PsuSt) : (s.setPsu v).hostMem = s.hostMem := rfl
@[simp] theorem State.setPsu_bus (s : State) (v : PsuSt) : (s.setPsu v).bus = s.bus := rfl
@[simp] theorem State.setPsu_host (s : State) (v : PsuSt) : (s.setPsu v).host = s.host := rfl
@[simp] theorem State.setPsu_pcie (s : State) (v : PsuSt) : (s.setPsu v).pcie = s.pcie := rfl
@[simp] theorem State.setPsu_cmt (s : State) (v : PsuSt) : (s.setPsu v).cmt = s.cmt := rfl
@[simp] theorem State.setPsu_units (s : State) (v : PsuSt) : (s.setPsu v).units = s.units := rfl
@[simp] theorem State.setPsu_cnt (s : State) (v : PsuSt) : (s.setPsu v).cnt = s.cnt := rfl
@[simp] theorem State.setPsu_tests (s : State) (v : PsuSt) : (s.setPsu v).tests = s.tests := rfl
@[simp] theorem State.setPsu_clk (s : State) (v : PsuSt) : (s.setPsu v).clk = s.clk := rfl
@[simp] theorem State.setPsu_ports (s : State) (v : PsuSt) : (s.setPsu v).ports = s.ports := rfl
@[simp] theorem State.setPsu_audio (s : State) (v : PsuSt) : (s.setPsu v).audio = s.audio := rfl
@[simp] theorem State.setPsu_churn (s : State) (v : PsuSt) : (s.setPsu v).churn = s.churn := rfl
@[simp] theorem State.setPsu_sep (s : State) (v : PsuSt) : (s.setPsu v).sep = s.sep := rfl
@[simp] theorem State.setPsu_vat (s : State) (v : PsuSt) : (s.setPsu v).vat = s.vat := rfl
@[simp] theorem State.setPsu_cc (s : State) (v : PsuSt) : (s.setPsu v).cc = s.cc := rfl
@[simp] theorem State.setPsu_net (s : State) (v : PsuSt) : (s.setPsu v).net = s.net := rfl
@[simp] theorem State.setPsu_herd (s : State) (v : PsuSt) : (s.setPsu v).herd = s.herd := rfl
@[simp] theorem State.setPsu_pwr (s : State) (v : PsuSt) : (s.setPsu v).pwr = s.pwr := rfl
@[simp] theorem State.setPsu_psu (s : State) (v : PsuSt) : (s.setPsu v).psu = v := rfl
@[simp] theorem State.setPsu_kf (s : State) (v : PsuSt) : (s.setPsu v).kf = s.kf := rfl
@[simp] theorem State.setPsu_nv (s : State) (v : PsuSt) : (s.setPsu v).nv = s.nv := rfl
@[simp] theorem State.setPsu_boot (s : State) (v : PsuSt) : (s.setPsu v).boot = s.boot := rfl
@[simp] theorem State.setPsu_dbg (s : State) (v : PsuSt) : (s.setPsu v).dbg = s.dbg := rfl
@[simp] theorem State.setKf_pending (s : State) (v : KfSt) : (s.setKf v).pending = s.pending := rfl
@[simp] theorem State.setKf_time (s : State) (v : KfSt) : (s.setKf v).time = s.time := rfl
@[simp] theorem State.setKf_mem (s : State) (v : KfSt) : (s.setKf v).mem = s.mem := rfl
@[simp] theorem State.setKf_hostMem (s : State) (v : KfSt) : (s.setKf v).hostMem = s.hostMem := rfl
@[simp] theorem State.setKf_bus (s : State) (v : KfSt) : (s.setKf v).bus = s.bus := rfl
@[simp] theorem State.setKf_host (s : State) (v : KfSt) : (s.setKf v).host = s.host := rfl
@[simp] theorem State.setKf_pcie (s : State) (v : KfSt) : (s.setKf v).pcie = s.pcie := rfl
@[simp] theorem State.setKf_cmt (s : State) (v : KfSt) : (s.setKf v).cmt = s.cmt := rfl
@[simp] theorem State.setKf_units (s : State) (v : KfSt) : (s.setKf v).units = s.units := rfl
@[simp] theorem State.setKf_cnt (s : State) (v : KfSt) : (s.setKf v).cnt = s.cnt := rfl
@[simp] theorem State.setKf_tests (s : State) (v : KfSt) : (s.setKf v).tests = s.tests := rfl
@[simp] theorem State.setKf_clk (s : State) (v : KfSt) : (s.setKf v).clk = s.clk := rfl
@[simp] theorem State.setKf_ports (s : State) (v : KfSt) : (s.setKf v).ports = s.ports := rfl
@[simp] theorem State.setKf_audio (s : State) (v : KfSt) : (s.setKf v).audio = s.audio := rfl
@[simp] theorem State.setKf_churn (s : State) (v : KfSt) : (s.setKf v).churn = s.churn := rfl
@[simp] theorem State.setKf_sep (s : State) (v : KfSt) : (s.setKf v).sep = s.sep := rfl
@[simp] theorem State.setKf_vat (s : State) (v : KfSt) : (s.setKf v).vat = s.vat := rfl
@[simp] theorem State.setKf_cc (s : State) (v : KfSt) : (s.setKf v).cc = s.cc := rfl
@[simp] theorem State.setKf_net (s : State) (v : KfSt) : (s.setKf v).net = s.net := rfl
@[simp] theorem State.setKf_herd (s : State) (v : KfSt) : (s.setKf v).herd = s.herd := rfl
@[simp] theorem State.setKf_pwr (s : State) (v : KfSt) : (s.setKf v).pwr = s.pwr := rfl
@[simp] theorem State.setKf_psu (s : State) (v : KfSt) : (s.setKf v).psu = s.psu := rfl
@[simp] theorem State.setKf_kf (s : State) (v : KfSt) : (s.setKf v).kf = v := rfl
@[simp] theorem State.setKf_nv (s : State) (v : KfSt) : (s.setKf v).nv = s.nv := rfl
@[simp] theorem State.setKf_boot (s : State) (v : KfSt) : (s.setKf v).boot = s.boot := rfl
@[simp] theorem State.setKf_dbg (s : State) (v : KfSt) : (s.setKf v).dbg = s.dbg := rfl
@[simp] theorem State.setNv_pending (s : State) (v : NvSt) : (s.setNv v).pending = s.pending := rfl
@[simp] theorem State.setNv_time (s : State) (v : NvSt) : (s.setNv v).time = s.time := rfl
@[simp] theorem State.setNv_mem (s : State) (v : NvSt) : (s.setNv v).mem = s.mem := rfl
@[simp] theorem State.setNv_hostMem (s : State) (v : NvSt) : (s.setNv v).hostMem = s.hostMem := rfl
@[simp] theorem State.setNv_bus (s : State) (v : NvSt) : (s.setNv v).bus = s.bus := rfl
@[simp] theorem State.setNv_host (s : State) (v : NvSt) : (s.setNv v).host = s.host := rfl
@[simp] theorem State.setNv_pcie (s : State) (v : NvSt) : (s.setNv v).pcie = s.pcie := rfl
@[simp] theorem State.setNv_cmt (s : State) (v : NvSt) : (s.setNv v).cmt = s.cmt := rfl
@[simp] theorem State.setNv_units (s : State) (v : NvSt) : (s.setNv v).units = s.units := rfl
@[simp] theorem State.setNv_cnt (s : State) (v : NvSt) : (s.setNv v).cnt = s.cnt := rfl
@[simp] theorem State.setNv_tests (s : State) (v : NvSt) : (s.setNv v).tests = s.tests := rfl
@[simp] theorem State.setNv_clk (s : State) (v : NvSt) : (s.setNv v).clk = s.clk := rfl
@[simp] theorem State.setNv_ports (s : State) (v : NvSt) : (s.setNv v).ports = s.ports := rfl
@[simp] theorem State.setNv_audio (s : State) (v : NvSt) : (s.setNv v).audio = s.audio := rfl
@[simp] theorem State.setNv_churn (s : State) (v : NvSt) : (s.setNv v).churn = s.churn := rfl
@[simp] theorem State.setNv_sep (s : State) (v : NvSt) : (s.setNv v).sep = s.sep := rfl
@[simp] theorem State.setNv_vat (s : State) (v : NvSt) : (s.setNv v).vat = s.vat := rfl
@[simp] theorem State.setNv_cc (s : State) (v : NvSt) : (s.setNv v).cc = s.cc := rfl
@[simp] theorem State.setNv_net (s : State) (v : NvSt) : (s.setNv v).net = s.net := rfl
@[simp] theorem State.setNv_herd (s : State) (v : NvSt) : (s.setNv v).herd = s.herd := rfl
@[simp] theorem State.setNv_pwr (s : State) (v : NvSt) : (s.setNv v).pwr = s.pwr := rfl
@[simp] theorem State.setNv_psu (s : State) (v : NvSt) : (s.setNv v).psu = s.psu := rfl
@[simp] theorem State.setNv_kf (s : State) (v : NvSt) : (s.setNv v).kf = s.kf := rfl
@[simp] theorem State.setNv_nv (s : State) (v : NvSt) : (s.setNv v).nv = v := rfl
@[simp] theorem State.setNv_boot (s : State) (v : NvSt) : (s.setNv v).boot = s.boot := rfl
@[simp] theorem State.setNv_dbg (s : State) (v : NvSt) : (s.setNv v).dbg = s.dbg := rfl
@[simp] theorem State.setBoot_pending (s : State) (v : BootSt) : (s.setBoot v).pending = s.pending := rfl
@[simp] theorem State.setBoot_time (s : State) (v : BootSt) : (s.setBoot v).time = s.time := rfl
@[simp] theorem State.setBoot_mem (s : State) (v : BootSt) : (s.setBoot v).mem = s.mem := rfl
@[simp] theorem State.setBoot_hostMem (s : State) (v : BootSt) : (s.setBoot v).hostMem = s.hostMem := rfl
@[simp] theorem State.setBoot_bus (s : State) (v : BootSt) : (s.setBoot v).bus = s.bus := rfl
@[simp] theorem State.setBoot_host (s : State) (v : BootSt) : (s.setBoot v).host = s.host := rfl
@[simp] theorem State.setBoot_pcie (s : State) (v : BootSt) : (s.setBoot v).pcie = s.pcie := rfl
@[simp] theorem State.setBoot_cmt (s : State) (v : BootSt) : (s.setBoot v).cmt = s.cmt := rfl
@[simp] theorem State.setBoot_units (s : State) (v : BootSt) : (s.setBoot v).units = s.units := rfl
@[simp] theorem State.setBoot_cnt (s : State) (v : BootSt) : (s.setBoot v).cnt = s.cnt := rfl
@[simp] theorem State.setBoot_tests (s : State) (v : BootSt) : (s.setBoot v).tests = s.tests := rfl
@[simp] theorem State.setBoot_clk (s : State) (v : BootSt) : (s.setBoot v).clk = s.clk := rfl
@[simp] theorem State.setBoot_ports (s : State) (v : BootSt) : (s.setBoot v).ports = s.ports := rfl
@[simp] theorem State.setBoot_audio (s : State) (v : BootSt) : (s.setBoot v).audio = s.audio := rfl
@[simp] theorem State.setBoot_churn (s : State) (v : BootSt) : (s.setBoot v).churn = s.churn := rfl
@[simp] theorem State.setBoot_sep (s : State) (v : BootSt) : (s.setBoot v).sep = s.sep := rfl
@[simp] theorem State.setBoot_vat (s : State) (v : BootSt) : (s.setBoot v).vat = s.vat := rfl
@[simp] theorem State.setBoot_cc (s : State) (v : BootSt) : (s.setBoot v).cc = s.cc := rfl
@[simp] theorem State.setBoot_net (s : State) (v : BootSt) : (s.setBoot v).net = s.net := rfl
@[simp] theorem State.setBoot_herd (s : State) (v : BootSt) : (s.setBoot v).herd = s.herd := rfl
@[simp] theorem State.setBoot_pwr (s : State) (v : BootSt) : (s.setBoot v).pwr = s.pwr := rfl
@[simp] theorem State.setBoot_psu (s : State) (v : BootSt) : (s.setBoot v).psu = s.psu := rfl
@[simp] theorem State.setBoot_kf (s : State) (v : BootSt) : (s.setBoot v).kf = s.kf := rfl
@[simp] theorem State.setBoot_nv (s : State) (v : BootSt) : (s.setBoot v).nv = s.nv := rfl
@[simp] theorem State.setBoot_boot (s : State) (v : BootSt) : (s.setBoot v).boot = v := rfl
@[simp] theorem State.setBoot_dbg (s : State) (v : BootSt) : (s.setBoot v).dbg = s.dbg := rfl
@[simp] theorem State.setDbg_pending (s : State) (v : DbgSt) : (s.setDbg v).pending = s.pending := rfl
@[simp] theorem State.setDbg_time (s : State) (v : DbgSt) : (s.setDbg v).time = s.time := rfl
@[simp] theorem State.setDbg_mem (s : State) (v : DbgSt) : (s.setDbg v).mem = s.mem := rfl
@[simp] theorem State.setDbg_hostMem (s : State) (v : DbgSt) : (s.setDbg v).hostMem = s.hostMem := rfl
@[simp] theorem State.setDbg_bus (s : State) (v : DbgSt) : (s.setDbg v).bus = s.bus := rfl
@[simp] theorem State.setDbg_host (s : State) (v : DbgSt) : (s.setDbg v).host = s.host := rfl
@[simp] theorem State.setDbg_pcie (s : State) (v : DbgSt) : (s.setDbg v).pcie = s.pcie := rfl
@[simp] theorem State.setDbg_cmt (s : State) (v : DbgSt) : (s.setDbg v).cmt = s.cmt := rfl
@[simp] theorem State.setDbg_units (s : State) (v : DbgSt) : (s.setDbg v).units = s.units := rfl
@[simp] theorem State.setDbg_cnt (s : State) (v : DbgSt) : (s.setDbg v).cnt = s.cnt := rfl
@[simp] theorem State.setDbg_tests (s : State) (v : DbgSt) : (s.setDbg v).tests = s.tests := rfl
@[simp] theorem State.setDbg_clk (s : State) (v : DbgSt) : (s.setDbg v).clk = s.clk := rfl
@[simp] theorem State.setDbg_ports (s : State) (v : DbgSt) : (s.setDbg v).ports = s.ports := rfl
@[simp] theorem State.setDbg_audio (s : State) (v : DbgSt) : (s.setDbg v).audio = s.audio := rfl
@[simp] theorem State.setDbg_churn (s : State) (v : DbgSt) : (s.setDbg v).churn = s.churn := rfl
@[simp] theorem State.setDbg_sep (s : State) (v : DbgSt) : (s.setDbg v).sep = s.sep := rfl
@[simp] theorem State.setDbg_vat (s : State) (v : DbgSt) : (s.setDbg v).vat = s.vat := rfl
@[simp] theorem State.setDbg_cc (s : State) (v : DbgSt) : (s.setDbg v).cc = s.cc := rfl
@[simp] theorem State.setDbg_net (s : State) (v : DbgSt) : (s.setDbg v).net = s.net := rfl
@[simp] theorem State.setDbg_herd (s : State) (v : DbgSt) : (s.setDbg v).herd = s.herd := rfl
@[simp] theorem State.setDbg_pwr (s : State) (v : DbgSt) : (s.setDbg v).pwr = s.pwr := rfl
@[simp] theorem State.setDbg_psu (s : State) (v : DbgSt) : (s.setDbg v).psu = s.psu := rfl
@[simp] theorem State.setDbg_kf (s : State) (v : DbgSt) : (s.setDbg v).kf = s.kf := rfl
@[simp] theorem State.setDbg_nv (s : State) (v : DbgSt) : (s.setDbg v).nv = s.nv := rfl
@[simp] theorem State.setDbg_boot (s : State) (v : DbgSt) : (s.setDbg v).boot = s.boot := rfl
@[simp] theorem State.setDbg_dbg (s : State) (v : DbgSt) : (s.setDbg v).dbg = v := rfl

end Sys2Proof.Machine
end

