-- ==== Sys2Proof/Laws/Churn.lean ====
section
/-! SUPPORT. Laws/Churn.lean: what one program slot does (08 R182, R186, R188): which result becomes visible when, what a slot leaves
alone, and one lemma per shared operation of Machine/Churn.lean that says the whole next state. -/

namespace Sys2Proof.Machine

/-! ### Results in flight -/

theorem insBy_last {α : Type} (key : α → Nat) (x : α) (l : List α) (h : ∀ y ∈ l, key y ≤ key x) : insBy key x l = l ++ [x] := by
  induction l with
  | nil => rfl
  | cons y r ih =>
    have hy := h y List.mem_cons_self
    rw [insBy, if_neg (by omega), ih fun z hz => h z (List.mem_cons_of_mem _ hz), List.cons_append]

theorem sortBy_append {α : Type} (key : α → Nat) (l : List α) (x : α) : sortBy key (l ++ [x]) = insBy key x (sortBy key l) := by
  simp [sortBy, List.foldl_append]

theorem mem_insBy {α : Type} {key : α → Nat} {x y : α} {l : List α} : y ∈ insBy key x l ↔ y = x ∨ y ∈ l := by
  induction l with
  | nil => simp [insBy]
  | cons z r ih =>
    rw [insBy]
    split
    · simp
    · simp only [List.mem_cons, ih]
      exact ⟨fun h => by rcases h with h | h | h <;> simp [h], fun h => by rcases h with h | h | h <;> simp [h]⟩

theorem mem_sortBy {α : Type} {key : α → Nat} {y : α} {l : List α} : y ∈ sortBy key l ↔ y ∈ l := by
  suffices h : ∀ acc : List α, y ∈ l.foldl (fun acc x => insBy key x acc) acc ↔ y ∈ acc ∨ y ∈ l by simpa [sortBy] using h []
  induction l with
  | nil => simp
  | cons x r ih =>
    intro acc
    rw [List.foldl_cons, ih, mem_insBy, List.mem_cons]
    exact ⟨fun h => by rcases h with (h | h) | h <;> simp [h], fun h => by rcases h with h | h | h <;> simp [h]⟩

/-- A fold is blind to an element that never changes what it computes. -/
theorem foldl_insBy {α β : Type} (key : α → Nat) (f : β → α → β) (x : α) (l : List α) (b : β) (h : ∀ b, f b x = b) :
    (insBy key x l).foldl f b = l.foldl f b := by
  induction l generalizing b with
  | nil => simp [insBy, h]
  | cons y r ih =>
    rw [insBy]
    split
    · simp [h]
    · simp [ih]

/-- What a result that lands does to data register `r`. -/
def landD (r : BitVec 6) (w : Word) (f : Flight) : Word := if f.toPred = false ∧ f.dst = r.toNat then f.val else w

/-- What a result that lands does to predicate `n`. -/
def landP (n : Nat) (b : Bool) (f : Flight) : Bool :=
  if f.toPred = true ∧ f.dst = n ∧ n ≠ 0 then f.val.toNat % 2 == 1 else b

@[simp] theorem land_dreg (u : PuSt) (f : Flight) (r : BitVec 6) : (u.land f).dreg r = landD r (u.dreg r) f := by
  unfold PuSt.land landD PuSt.dreg
  cases f.toPred <;> simp
  · simp [tget_tset, eq_comm]
  · split <;> rfl

theorem foldl_land_dreg (l : List Flight) (u : PuSt) (r : BitVec 6) : (l.foldl PuSt.land u).dreg r = l.foldl (landD r) (u.dreg r) := by
  induction l generalizing u with
  | nil => rfl
  | cons f l ih => simp [ih]

/-- What landing results leaves alone in a PU. -/
theorem land_rest (u : PuSt) (f : Flight) :
    u.land f = { u with d := (u.land f).d, p := (u.land f).p } := by
  unfold PuSt.land
  split
  · split <;> rfl
  · rfl

theorem settle_dreg (u : PuSt) (k : Nat) (r : BitVec 6) :
    (u.settle k).dreg r = (sortBy Flight.due (u.flight.filter fun f => f.due ≤ k)).foldl (landD r) (u.dreg r) := by
  unfold PuSt.settle
  exact foldl_land_dreg _ _ r

theorem filter_append_one {α : Type} (p : α → Bool) (l : List α) (x : α) :
    (l ++ [x]).filter p = if p x then l.filter p ++ [x] else l.filter p := by
  rw [List.filter_append]; cases h : p x <;> simp [h]

/-- A result becomes visible `lat` slots after its own: then it, and no result issued earlier, is in its register. -/
theorem send_seen (u : PuSt) (lat : Nat) (d : BitVec 6) (v : Word) : ((u.send lat d v).settle (u.slot + lat)).dreg d = v := by
  rw [settle_dreg]
  simp only [PuSt.send, filter_append_one, Nat.le_refl, decide_true, if_true, sortBy_append]
  rw [insBy_last]
  · simp [landD]
  · intro y hy
    have := (List.mem_filter.1 (mem_sortBy.1 hy)).2
    simpa using this

/-- In every other data register each slot sees what it would have seen without the result. -/
theorem send_other (u : PuSt) (lat k : Nat) (d r : BitVec 6) (v : Word) (h : r ≠ d) :
    ((u.send lat d v).settle k).dreg r = (u.settle k).dreg r := by
  have hr : d.toNat ≠ r.toNat := fun e => h (BitVec.eq_of_toNat_eq e.symm)
  rw [settle_dreg, settle_dreg]
  simp only [PuSt.send, filter_append_one]
  split
  · rw [sortBy_append, foldl_insBy]
    · rfl
    · intro b; simp [landD, hr]
  · rfl

/-- Before its latency has passed its own register still shows what it would have shown without the result. -/
theorem send_early (u : PuSt) (lat k : Nat) (d r : BitVec 6) (v : Word) (h : k < u.slot + lat) :
    ((u.send lat d v).settle k).dreg r = (u.settle k).dreg r := by
  have hk : ¬ u.slot + lat ≤ k := by omega
  rw [settle_dreg, settle_dreg]
  simp only [PuSt.send, filter_append_one, decide_eq_true_eq, hk, if_false]
  rfl

/-! ### Predicates -/

/-- The predicate bits after a result has landed. -/
def landBits (p : BitVec 8) (f : Flight) : BitVec 8 :=
  if f.toPred = true ∧ f.dst ≠ 0 then
    BitVec.ofNat 8 (if f.val.toNat % 2 = 1 then p.toNat ||| 2 ^ f.dst else p.toNat &&& (255 - 2 ^ f.dst))
  else p

@[simp] theorem land_p (u : PuSt) (f : Flight) : (u.land f).p = landBits u.p f := by
  unfold PuSt.land landBits
  cases f.toPred <;> simp
  split <;> rfl

theorem settle_p (u : PuSt) (k : Nat) :
    (u.settle k).p = (sortBy Flight.due (u.flight.filter fun f => f.due ≤ k)).foldl landBits u.p := by
  suffices h : ∀ (l : List Flight) (u : PuSt), (l.foldl PuSt.land u).p = l.foldl landBits u.p by unfold PuSt.settle; exact h _ _
  intro l
  induction l with
  | nil => intro u; rfl
  | cons f l ih => intro u; simp [ih]

theorem bit_landBits (p : BitVec 8) (f : Flight) (n : Nat) (hn : n < 8) :
    bit (landBits p f).toNat n = if f.toPred = true ∧ f.dst ≠ 0 then
      (if f.val.toNat % 2 = 1 then (bit p.toNat n || decide (f.dst = n)) else (bit p.toNat n && bit (255 - 2 ^ f.dst) n)) else bit p.toNat n := by
  unfold landBits bit
  split
  · rw [BitVec.toNat_ofNat, Nat.testBit_mod_two_pow]
    split <;> simp [Nat.testBit_or, Nat.testBit_and, Nat.testBit_two_pow, hn]
  · rfl

/-- Two predicate words that differ at most in bit `d`. -/
def SameBut (d : Nat) (p q : BitVec 8) : Prop := ∀ n < 8, n ≠ d → bit p.toNat n = bit q.toNat n

theorem SameBut.land {d : Nat} {p q : BitVec 8} (h : SameBut d p q) (f : Flight) : SameBut d (landBits p f) (landBits q f) := by
  intro n hn hd
  rw [bit_landBits _ _ _ hn, bit_landBits _ _ _ hn, h n hn hd]

theorem SameBut.foldl {d : Nat} (l : List Flight) {p q : BitVec 8} (h : SameBut d p q) : SameBut d (l.foldl landBits p) (l.foldl landBits q) := by
  induction l generalizing p q with
  | nil => exact h
  | cons f l ih => exact ih (h.land f)

theorem bit_mask {d n : Nat} (hd : d < 8) (hn : n < 8) : bit (255 - 2 ^ d) n = decide (n ≠ d) := by
  have h : ∀ d < 8, ∀ n < 8, bit (255 - 2 ^ d) n = decide (n ≠ d) := by decide
  exact h d hd n hn

theorem SameBut.insBy {f : Flight} (h8 : f.dst < 8) (l : List Flight) {p q : BitVec 8} (h : SameBut f.dst p q) :
    SameBut f.dst ((insBy Flight.due f l).foldl landBits p) (l.foldl landBits q) := by
  have one : ∀ {p q : BitVec 8}, SameBut f.dst p q → SameBut f.dst (landBits p f) q := by
    intro p q h n hn hd
    rw [bit_landBits _ _ _ hn, ← h n hn hd, bit_mask h8 hn]
    have : ¬ f.dst = n := fun e => hd e.symm
    simp [this, hd]
  induction l generalizing p q with
  | nil => exact one h
  | cons g l ih =>
    rw [Machine.insBy]
    split
    · exact (one h).land g |>.foldl l
    · exact ih (h.land g)

/-- A predicate written becomes visible one slot later. -/
theorem sendP_seen (u : PuSt) (lat : Nat) (d : BitVec 3) (v : Bool) (hd : d ≠ 0) :
    ((u.sendP lat d v).settle (u.slot + lat)).preg d.toNat = v := by
  have h0 : d.toNat ≠ 0 := fun e => hd (BitVec.eq_of_toNat_eq e)
  have h8 : d.toNat < 8 := d.isLt
  simp only [PuSt.preg, settle_p]
  simp only [PuSt.sendP, filter_append_one, Nat.le_refl, decide_true, if_true, sortBy_append]
  rw [insBy_last]
  · rw [List.foldl_append]
    simp only [List.foldl_cons, List.foldl_nil, bit_landBits _ _ _ h8, bit_mask h8 h8]
    cases v <;> simp [h0]
  · intro y hy
    have := (List.mem_filter.1 (mem_sortBy.1 hy)).2
    simpa using this

/-- Every other predicate shows in each slot what it would have shown without the result. -/
theorem sendP_other (u : PuSt) (lat k : Nat) (d n : BitVec 3) (v : Bool) (h : n ≠ d) :
    ((u.sendP lat d v).settle k).preg n.toNat = (u.settle k).preg n.toNat := by
  have hn : n.toNat ≠ d.toNat := fun e => h (BitVec.eq_of_toNat_eq e)
  simp only [PuSt.preg, settle_p]
  simp only [PuSt.sendP, filter_append_one]
  congr 1
  split
  · rw [sortBy_append]
    exact SameBut.insBy (f := ⟨_, _, _, _, _⟩) d.isLt _ (fun _ _ _ => rfl) n.toNat n.isLt hn
  · rfl

/-- P0 reads 1 whatever is written. -/
@[simp] theorem preg_zero (u : PuSt) : u.preg 0 = true := rfl

/-- A result of a data register leaves the predicates alone, and the other way round. -/
theorem send_preg (u : PuSt) (lat k n : Nat) (d : BitVec 6) (v : Word) : ((u.send lat d v).settle k).preg n = (u.settle k).preg n := by
  simp only [PuSt.preg, settle_p]
  simp only [PuSt.send, filter_append_one]
  split
  · rw [sortBy_append, foldl_insBy]; intro b; simp [landBits]
  · rfl

theorem sendP_dreg (u : PuSt) (lat k : Nat) (d : BitVec 3) (r : BitVec 6) (v : Bool) :
    ((u.sendP lat d v).settle k).dreg r = (u.settle k).dreg r := by
  rw [settle_dreg, settle_dreg]
  simp only [PuSt.sendP, filter_append_one]
  by_cases hk : u.slot + lat ≤ k <;> simp only [hk, decide_true, decide_false, if_true, if_false, Bool.false_eq_true]
  · rw [sortBy_append, foldl_insBy]
    · rfl
    · intro b; simp [landD]
  · rfl

/-- The number of the next slot says nothing of what a slot sees. -/
theorem settle_dreg_slot (u : PuSt) (n k : Nat) (r : BitVec 6) : (({ u with slot := n } : PuSt).settle k).dreg r = (u.settle k).dreg r := by
  rw [settle_dreg, settle_dreg]; rfl

theorem settle_preg_slot (u : PuSt) (n k m : Nat) : (({ u with slot := n } : PuSt).settle k).preg m = (u.settle k).preg m := by
  simp only [PuSt.preg, settle_p]

/-! ### One slot -/

@[simp] theorem pu_putPu_same (s : State) (n : Nat) (u : PuSt) : (s.putPu n u).pu n = u := by simp [State.pu, State.putPu]

theorem pu_putPu_ne (s : State) {n m : Nat} (u : PuSt) (h : m ≠ n) : (s.putPu n u).pu m = s.pu m := by
  simp [State.pu, State.putPu, tget_tset_ne _ _ _ h]

@[simp] theorem putPu_putPu (s : State) (n : Nat) (u v : PuSt) : (s.putPu n u).putPu n v = s.putPu n v := by
  simp [State.putPu, State.setChurn]

@[simp] theorem pu_setCnt (s : State) (m : Map Word) (n : Nat) : (s.setCnt m).pu n = s.pu n := rfl

@[simp] theorem putPu_setCnt (s : State) (m : Map Word) (n : Nat) (u : PuSt) : (s.setCnt m).putPu n u = (s.putPu n u).setCnt m := rfl

/-- The counters of a PU after one of them has counted, or not. -/
def cntAfter (s : State) (n place : Nat) (b : Bool) : Map Word := if b then (s.bump 0x20 n place).cnt else s.cnt

theorem puCount_eq (s : State) (n place : Nat) (b : Bool) : s.puCount n place b = s.setCnt (cntAfter s n place b) := by
  cases b <;> rfl

@[simp] theorem cntAfter_putPu (s : State) (m : Nat) (u : PuSt) (n place : Nat) (b : Bool) :
    cntAfter (s.putPu m u) n place b = cntAfter s n place b := by cases b <;> rfl

/-- A PU that runs takes one slot: settle, act if the predicate lets it, count the slot. -/
theorem inSlot_runs {s : State} {pu : BitVec 3} (h : s.puRuns pu.toNat = true) (p : Pred) (f : State → State) :
    s.inSlot pu p f =
      (let u := (s.pu pu.toNat).now
       let t := if u.executes p then f (s.putPu pu.toNat u) else s.putPu pu.toNat u
       t.putPu pu.toNat { t.pu pu.toNat with slot := (t.pu pu.toNat).slot + 1 }) := by
  simp [State.inSlot, h]

/-- An instruction whose predicate does not let it act only takes its slot (08 R186). -/
theorem inSlot_skips {s : State} {pu : BitVec 3} {p : Pred} (h : s.puRuns pu.toNat = true) (hp : (s.pu pu.toNat).now.executes p = false)
    (f : State → State) :
    s.inSlot pu p f = s.putPu pu.toNat { (s.pu pu.toNat).now with slot := (s.pu pu.toNat).now.slot + 1 } := by
  simp [inSlot_runs h, hp]

/-- One data register, no saturation. -/
theorem opMove_runs {s : State} {pu : BitVec 3} {p : Pred} (h : s.puRuns pu.toNat = true) (hp : (s.pu pu.toNat).now.executes p = true)
    (d : BitVec 6) (f : PuSt → Word) :
    s.opMove pu p d f =
      (let u := (s.pu pu.toNat).now
       s.putPu pu.toNat { u.send 1 d (f u) with slot := u.slot + 1 }) := by
  simp only [State.opMove, inSlot_runs h, hp, if_true, State.sendD, pu_putPu_same, putPu_putPu]
  rfl

/-- One data register, rounded and saturated; saturation counts. -/
theorem opArith_runs {s : State} {pu : BitVec 3} {p : Pred} (h : s.puRuns pu.toNat = true) (hp : (s.pu pu.toNat).now.executes p = true)
    (lat : Nat) (d : BitVec 6) (f : PuSt → Int) :
    s.opArith pu p lat d f =
      (let u := (s.pu pu.toNat).now
       (s.putPu pu.toNat { u.send lat d (wOf (sat32 (f u))) with slot := u.slot + 1 }).setCnt
         (cntAfter s pu.toNat 0 (sat32 (f u) != f u))) := by
  simp only [State.opArith, inSlot_runs h, hp, if_true, State.sendSat, State.sendD, puCount_eq, pu_putPu_same, pu_setCnt, putPu_setCnt,
    putPu_putPu, cntAfter_putPu]
  rfl

/-- One predicate. -/
theorem opPred_runs {s : State} {pu : BitVec 3} {p : Pred} (h : s.puRuns pu.toNat = true) (hp : (s.pu pu.toNat).now.executes p = true)
    (d : BitVec 3) (f : PuSt → Bool) :
    s.opPred pu p d f =
      (let u := (s.pu pu.toNat).now
       s.putPu pu.toNat { u.sendP 1 d (f u) with slot := u.slot + 1 }) := by
  simp only [State.opPred, inSlot_runs h, hp, if_true, State.sendPred, pu_putPu_same, putPu_putPu]
  rfl

/-- One accumulator; saturation counts. -/
theorem opAcc_runs {s : State} {pu : BitVec 3} {p : Pred} (h : s.puRuns pu.toNat = true) (hp : (s.pu pu.toNat).now.executes p = true)
    (a : BitVec 2) (f : PuSt → Int) :
    s.opAcc pu p a f =
      (let u := (s.pu pu.toNat).now
       (s.putPu pu.toNat { u.accWrite a (sat80 (f u)) with slot := u.slot + 1 }).setCnt
         (cntAfter s pu.toNat 0 (sat80 (f u) != f u))) := by
  simp only [State.opAcc, inSlot_runs h, hp, if_true, State.sendAcc, puCount_eq, pu_putPu_same, pu_setCnt, putPu_setCnt, putPu_putPu,
    cntAfter_putPu]
  rfl

/-! ### Accumulators -/

/-- An accumulate sees every write issued before it (08 R188). -/
theorem accWrite_now (u : PuSt) (a : BitVec 2) (v : Int) (lo : -(2 ^ 79) ≤ v) (hi : v < 2 ^ 79) : (u.accWrite a v).accNow a = v := by
  simp only [PuSt.accNow, PuSt.accOf, PuSt.accWrite, tget_tset_same]
  rw [BitVec.toInt_ofInt]
  exact Int.bmod_eq_of_le (by omega) (by omega)

/-- The limits of 80 bits hold after saturation. -/
theorem sat80_range (v : Int) : -(2 ^ 79) ≤ sat80 v ∧ sat80 v < 2 ^ 79 := by
  unfold sat80 clampI; constructor <;> (repeat' split) <;> omega

theorem sat32_range (v : Int) : -2147483648 ≤ sat32 v ∧ sat32 v ≤ 2147483647 := by
  unfold sat32 clampI; constructor <;> (repeat' split) <;> omega

end Sys2Proof.Machine
end

