-- ==== Sys2Proof/Laws/Keeps.lean ====
section
/-! SUPPORT. Laws/Keeps.lean: what every operation of the model but the end of a tick and the loss and return of the supply keeps: the
queue of commands, TICK, the fuses, and the canonical form of both memories. -/

namespace Sys2Proof.Machine

/-- From `s` to `t` the queue, TICK and the fuses are kept, and both memories stay canonical. -/
structure Keeps (s t : State) : Prop where
  pending : t.pending = s.pending
  tick : t.time.tick = s.time.tick
  fuses : t.boot.fuses = s.boot.fuses
  mem : Memory.wf s.mem = true → Memory.wf t.mem = true
  hostMem : Memory.wf s.hostMem = true → Memory.wf t.hostMem = true

theorem Keeps.refl (s : State) : Keeps s s := ⟨rfl, rfl, rfl, id, id⟩

theorem Keeps.trans {s t u : State} (h : Keeps s t) (k : Keeps t u) : Keeps s u :=
  ⟨k.pending.trans h.pending, k.tick.trans h.tick, k.fuses.trans h.fuses, k.mem ∘ h.mem, k.hostMem ∘ h.hostMem⟩

/-- What also the end of a tick and the supply keep: the queue and the fuses, and both memories stay canonical. -/
structure Holds (s t : State) : Prop where
  pending : t.pending = s.pending
  fuses : t.boot.fuses = s.boot.fuses
  mem : Memory.wf s.mem = true → Memory.wf t.mem = true
  hostMem : Memory.wf s.hostMem = true → Memory.wf t.hostMem = true

theorem Keeps.holds {s t : State} (h : Keeps s t) : Holds s t := ⟨h.pending, h.fuses, h.mem, h.hostMem⟩

theorem Holds.refl (s : State) : Holds s s := (Keeps.refl s).holds

theorem Holds.trans {s t u : State} (h : Holds s t) (k : Holds t u) : Holds s u :=
  ⟨k.pending.trans h.pending, k.fuses.trans h.fuses, k.mem ∘ h.mem, k.hostMem ∘ h.hostMem⟩

theorem Keeps.foldl {α : Type} {r : State} {f : State → α → State} (l : List α) (hf : ∀ s x, Keeps r s → Keeps r (f s x)) {s : State}
    (h : Keeps r s) : Keeps r (l.foldl f s) := by
  induction l generalizing s with
  | nil => exact h
  | cons x l ih => exact ih (hf _ _ h)

/-- A fold that carries more than the state. -/
theorem Keeps.foldl1 {α β : Type} {r : State} {f : State × β → α → State × β} (l : List α)
    (hf : ∀ s x, Keeps r s.1 → Keeps r (f s x).1) {s : State × β} (h : Keeps r s.1) : Keeps r (l.foldl f s).1 := by
  induction l generalizing s with
  | nil => exact h
  | cons x l ih => exact ih (hf _ _ h)

theorem Keeps.ite {r a b : State} {c : Prop} [Decidable c] (h : Keeps r a) (k : Keeps r b) : Keeps r (if c then a else b) := by
  split <;> assumption

/-- The state of a pair that an operation answered. -/
theorem Keeps.fst {β : Type} {r t : State} {p : State × β} {y : β} (e : p = (t, y)) (h : Keeps r p.1) : Keeps r t := by
  subst e; exact h

/-! ### Setters -/

theorem State.setTime_keeps {r s : State} {v : TimeSt} (e : v.tick = s.time.tick) (h : Keeps r s) : Keeps r (s.setTime v) :=
  ⟨h.pending, e.trans h.tick, h.fuses, h.mem, h.hostMem⟩

theorem State.setMem_keeps {r s : State} {v : Mem} (e : Memory.wf s.mem = true → Memory.wf v = true) (h : Keeps r s) : Keeps r (s.setMem v) :=
  ⟨h.pending, h.tick, h.fuses, e ∘ h.mem, h.hostMem⟩

theorem State.setHostMem_keeps {r s : State} {v : Mem} (e : Memory.wf s.hostMem = true → Memory.wf v = true) (h : Keeps r s) : Keeps r (s.setHostMem v) :=
  ⟨h.pending, h.tick, h.fuses, h.mem, e ∘ h.hostMem⟩

theorem State.setBus_keeps {r s : State} {v : BusSt} (h : Keeps r s) : Keeps r (s.setBus v) :=
  ⟨h.pending, h.tick, h.fuses, h.mem, h.hostMem⟩

theorem State.setHost_keeps {r s : State} {v : HostSt} (h : Keeps r s) : Keeps r (s.setHost v) :=
  ⟨h.pending, h.tick, h.fuses, h.mem, h.hostMem⟩

theorem State.setPcie_keeps {r s : State} {v : PcieSt} (h : Keeps r s) : Keeps r (s.setPcie v) :=
  ⟨h.pending, h.tick, h.fuses, h.mem, h.hostMem⟩

theorem State.setCmt_keeps {r s : State} {v : CmtSt} (h : Keeps r s) : Keeps r (s.setCmt v) :=
  ⟨h.pending, h.tick, h.fuses, h.mem, h.hostMem⟩

theorem State.setUnits_keeps {r s : State} {v : Map UnitSt} (h : Keeps r s) : Keeps r (s.setUnits v) :=
  ⟨h.pending, h.tick, h.fuses, h.mem, h.hostMem⟩

theorem State.setCnt_keeps {r s : State} {v : Map Word} (h : Keeps r s) : Keeps r (s.setCnt v) :=
  ⟨h.pending, h.tick, h.fuses, h.mem, h.hostMem⟩

theorem State.setTests_keeps {r s : State} {v : List TestRun} (h : Keeps r s) : Keeps r (s.setTests v) :=
  ⟨h.pending, h.tick, h.fuses, h.mem, h.hostMem⟩

theorem State.setClk_keeps {r s : State} {v : ClkSt} (h : Keeps r s) : Keeps r (s.setClk v) :=
  ⟨h.pending, h.tick, h.fuses, h.mem, h.hostMem⟩

theorem State.setPorts_keeps {r s : State} {v : Map PortSt} (h : Keeps r s) : Keeps r (s.setPorts v) :=
  ⟨h.pending, h.tick, h.fuses, h.mem, h.hostMem⟩

theorem State.setAudio_keeps {r s : State} {v : AudioSt} (h : Keeps r s) : Keeps r (s.setAudio v) :=
  ⟨h.pending, h.tick, h.fuses, h.mem, h.hostMem⟩

theorem State.setChurn_keeps {r s : State} {v : ChurnSt} (h : Keeps r s) : Keeps r (s.setChurn v) :=
  ⟨h.pending, h.tick, h.fuses, h.mem, h.hostMem⟩

theorem State.setSep_keeps {r s : State} {v : SepSt} (h : Keeps r s) : Keeps r (s.setSep v) :=
  ⟨h.pending, h.tick, h.fuses, h.mem, h.hostMem⟩

theorem State.setVat_keeps {r s : State} {v : VatSt} (h : Keeps r s) : Keeps r (s.setVat v) :=
  ⟨h.pending, h.tick, h.fuses, h.mem, h.hostMem⟩

theorem State.setCc_keeps {r s : State} {v : CcSt} (h : Keeps r s) : Keeps r (s.setCc v) :=
  ⟨h.pending, h.tick, h.fuses, h.mem, h.hostMem⟩

theorem State.setNet_keeps {r s : State} {v : NetSt} (h : Keeps r s) : Keeps r (s.setNet v) :=
  ⟨h.pending, h.tick, h.fuses, h.mem, h.hostMem⟩

theorem State.setHerd_keeps {r s : State} {v : HerdSt} (h : Keeps r s) : Keeps r (s.setHerd v) :=
  ⟨h.pending, h.tick, h.fuses, h.mem, h.hostMem⟩

theorem State.setPwr_keeps {r s : State} {v : PwrSt} (h : Keeps r s) : Keeps r (s.setPwr v) :=
  ⟨h.pending, h.tick, h.fuses, h.mem, h.hostMem⟩

theorem State.setPsu_keeps {r s : State} {v : PsuSt} (h : Keeps r s) : Keeps r (s.setPsu v) :=
  ⟨h.pending, h.tick, h.fuses, h.mem, h.hostMem⟩

theorem State.setKf_keeps {r s : State} {v : KfSt} (h : Keeps r s) : Keeps r (s.setKf v) :=
  ⟨h.pending, h.tick, h.fuses, h.mem, h.hostMem⟩

theorem State.setNv_keeps {r s : State} {v : NvSt} (h : Keeps r s) : Keeps r (s.setNv v) :=
  ⟨h.pending, h.tick, h.fuses, h.mem, h.hostMem⟩

theorem State.setBoot_keeps {r s : State} {v : BootSt} (e : v.fuses = s.boot.fuses) (h : Keeps r s) : Keeps r (s.setBoot v) :=
  ⟨h.pending, h.tick, e.trans h.fuses, h.mem, h.hostMem⟩

theorem State.setDbg_keeps {r s : State} {v : DbgSt} (h : Keeps r s) : Keeps r (s.setDbg v) :=
  ⟨h.pending, h.tick, h.fuses, h.mem, h.hostMem⟩

end Sys2Proof.Machine
end

