-- ==== Sys2Proof/Laws/KeepsFabric.lean ====
section
/-! SUPPORT. Laws/KeepsFabric.lean: what the operations of Machine/Fabric.lean keep (Laws/Keeps.lean), one lemma each. -/

namespace Sys2Proof.Machine

theorem State.vatPutByte_keeps {s₀ s : State} {a : Nat} {v : Byte} (h₀ : Keeps s₀ s) : Keeps s₀ (State.vatPutByte s a v) := by
  unfold State.vatPutByte
  repeat' first
    | with_reducible assumption
    | with_reducible exact rfl
    | with_reducible apply State.setVat_keeps
    | with_reducible apply State.setMem_keeps
    | exact tableOk_tset _ _
    | with_reducible apply Keeps.ite
    | split
    | (intro s' hs'; try dsimp only)
    | dsimp only

theorem State.vatPut_keeps {s₀ s : State} {a : Nat} {n0 : List Byte} (h₀ : Keeps s₀ s) : Keeps s₀ (State.vatPut s a n0) := by
  induction n0 generalizing s a  with
  | nil =>
    unfold State.vatPut
    repeat' first
      | with_reducible assumption
      | with_reducible exact rfl
      | with_reducible apply State.vatPutByte_keeps
      | with_reducible apply Keeps.ite
      | split
      | (intro s' hs'; try dsimp only)
      | dsimp only
  | cons y m ih =>
    unfold State.vatPut
    repeat' first
      | with_reducible assumption
      | with_reducible exact rfl
      | with_reducible apply ih
      | (apply Keeps.fst; with_reducible assumption; with_reducible apply ih)
      | with_reducible apply State.vatPutByte_keeps
      | with_reducible apply Keeps.ite
      | split
      | (intro s' hs'; try dsimp only)
      | dsimp only

theorem State.putLineC_keeps {s₀ s : State} {line : Nat} {v : LineC} (h₀ : Keeps s₀ s) : Keeps s₀ (State.putLineC s line v) := by
  unfold State.putLineC
  repeat' first
    | with_reducible assumption
    | with_reducible exact rfl
    | with_reducible apply State.setCc_keeps
    | with_reducible apply Keeps.ite
    | split
    | (intro s' hs'; try dsimp only)
    | dsimp only

theorem State.putCore_keeps {s₀ s : State} {c : Nat} {v : CoreSt} (h₀ : Keeps s₀ s) : Keeps s₀ (State.putCore s c v) := by
  unfold State.putCore
  repeat' first
    | with_reducible assumption
    | with_reducible exact rfl
    | with_reducible apply State.setCc_keeps
    | with_reducible apply Keeps.ite
    | split
    | (intro s' hs'; try dsimp only)
    | dsimp only

theorem State.hpm_keeps {s₀ s : State} {c : Nat} {evt : Nat} (h₀ : Keeps s₀ s) : Keeps s₀ (State.hpm s c evt) := by
  unfold State.hpm
  dsimp only
  repeat' first
    | with_reducible assumption
    | with_reducible exact rfl
    | with_reducible apply State.putCore_keeps
    | with_reducible refine Keeps.foldl _ (fun s x hs => ?_) ?_
    | with_reducible refine Keeps.foldl1 _ (fun s x hs => ?_) ?_
    | exact tableOk_tset _ _
    | with_reducible apply Keeps.ite
    | split
    | (intro s' hs'; try dsimp only)
    | dsimp only

theorem State.loseResv_keeps {s₀ s : State} {line : Nat} {keep : Nat} (h₀ : Keeps s₀ s) : Keeps s₀ (State.loseResv s line keep) := by
  unfold State.loseResv
  repeat' first
    | with_reducible assumption
    | with_reducible exact rfl
    | with_reducible apply State.putCore_keeps
    | with_reducible refine Keeps.foldl _ (fun s x hs => ?_) ?_
    | with_reducible refine Keeps.foldl1 _ (fun s x hs => ?_) ?_
    | with_reducible apply Keeps.ite
    | split
    | (intro s' hs'; try dsimp only)
    | dsimp only

theorem State.snoop_keeps {s₀ s : State} {line : Nat} {keep : Nat} (h₀ : Keeps s₀ s) : Keeps s₀ (State.snoop s line keep) := by
  unfold State.snoop
  repeat' first
    | with_reducible assumption
    | with_reducible exact rfl
    | with_reducible apply State.hpm_keeps
    | with_reducible refine Keeps.foldl _ (fun s x hs => ?_) ?_
    | with_reducible refine Keeps.foldl1 _ (fun s x hs => ?_) ?_
    | with_reducible apply Keeps.ite
    | split
    | (intro s' hs'; try dsimp only)
    | dsimp only

theorem State.absorbWb_keeps {s₀ s : State} {line : Nat} (h₀ : Keeps s₀ s) : Keeps s₀ (State.absorbWb s line) := by
  unfold State.absorbWb
  dsimp only
  repeat' first
    | with_reducible assumption
    | with_reducible exact rfl
    | with_reducible apply State.putCore_keeps
    | with_reducible apply State.hpm_keeps
    | with_reducible apply Keeps.ite
    | split
    | (intro s' hs'; try dsimp only)
    | dsimp only

theorem State.ioWriteByte_keeps {s₀ s : State} {a : Nat} {v : Byte} (h₀ : Keeps s₀ s) : Keeps s₀ (State.ioWriteByte s a v) := by
  unfold State.ioWriteByte
  dsimp only
  repeat' first
    | with_reducible assumption
    | with_reducible exact rfl
    | with_reducible apply State.loseResv_keeps
    | with_reducible apply State.absorbWb_keeps
    | with_reducible apply State.putLineC_keeps
    | with_reducible apply State.setMem_keeps
    | with_reducible apply State.snoop_keeps
    | exact tableOk_tset _ _
    | with_reducible apply Keeps.ite
    | split
    | (intro s' hs'; try dsimp only)
    | dsimp only

theorem State.clearPoison_keeps {s₀ s : State} {a : Nat} {n : Nat} (h₀ : Keeps s₀ s) : Keeps s₀ (State.clearPoison s a n) := by
  unfold State.clearPoison
  repeat' first
    | with_reducible assumption
    | with_reducible exact rfl
    | with_reducible apply State.putLineC_keeps
    | with_reducible refine Keeps.foldl _ (fun s x hs => ?_) ?_
    | with_reducible refine Keeps.foldl1 _ (fun s x hs => ?_) ?_
    | with_reducible apply Keeps.ite
    | split
    | (intro s' hs'; try dsimp only)
    | dsimp only

theorem State.lutPutByte_keeps {s₀ s : State} {a : Nat} {v : Byte} (h₀ : Keeps s₀ s) : Keeps s₀ (State.lutPutByte s a v) := by
  unfold State.lutPutByte
  dsimp only
  repeat' first
    | with_reducible assumption
    | with_reducible exact rfl
    | with_reducible apply State.setChurn_keeps
    | exact tableOk_tset _ _
    | with_reducible apply Keeps.ite
    | split
    | (intro s' hs'; try dsimp only)
    | dsimp only

theorem State.busPutByte_keeps {s₀ s : State} {a : Nat} {v : Byte} (h₀ : Keeps s₀ s) : Keeps s₀ (State.busPutByte s a v) := by
  unfold State.busPutByte
  dsimp only
  repeat' first
    | with_reducible assumption
    | with_reducible exact rfl
    | with_reducible apply State.ioWriteByte_keeps
    | with_reducible apply State.lutPutByte_keeps
    | with_reducible apply State.vatPutByte_keeps
    | with_reducible apply State.setMem_keeps
    | exact tableOk_tset _ _
    | with_reducible apply Keeps.ite
    | split
    | (intro s' hs'; try dsimp only)
    | dsimp only

theorem State.busPut_keeps {s₀ s : State} {a : Nat} {n0 : List Byte} (h₀ : Keeps s₀ s) : Keeps s₀ (State.busPut s a n0) := by
  induction n0 generalizing s a  with
  | nil =>
    unfold State.busPut
    repeat' first
      | with_reducible assumption
      | with_reducible exact rfl
      | with_reducible apply State.busPutByte_keeps
      | with_reducible apply Keeps.ite
      | split
      | (intro s' hs'; try dsimp only)
      | dsimp only
  | cons y m ih =>
    unfold State.busPut
    repeat' first
      | with_reducible assumption
      | with_reducible exact rfl
      | with_reducible apply ih
      | (apply Keeps.fst; with_reducible assumption; with_reducible apply ih)
      | with_reducible apply State.busPutByte_keeps
      | with_reducible apply Keeps.ite
      | split
      | (intro s' hs'; try dsimp only)
      | dsimp only

theorem State.busWrite_keeps {s₀ s : State} {a : Nat} {bs : List Byte} (h₀ : Keeps s₀ s) : Keeps s₀ (State.busWrite s a bs) := by
  unfold State.busWrite
  repeat' first
    | with_reducible assumption
    | with_reducible exact rfl
    | with_reducible apply State.clearPoison_keeps
    | with_reducible apply State.busPut_keeps
    | with_reducible apply Keeps.ite
    | split
    | (intro s' hs'; try dsimp only)
    | dsimp only

end Sys2Proof.Machine
end

