-- ==== Sys2Proof/Laws/KeepsBase.lean ====
section
/-! SUPPORT. Laws/KeepsBase.lean: what the operations of Machine/Base.lean keep (Laws/Keeps.lean), one lemma each. -/

namespace Sys2Proof.Machine

theorem State.draw_keeps {s₀ s : State} (h₀ : Keeps s₀ s) : Keeps s₀ (State.draw s).1 := by
  unfold State.draw
  repeat' first
    | with_reducible assumption
    | with_reducible exact rfl
    | with_reducible apply State.setTime_keeps
    | with_reducible apply Keeps.ite
    | exact Eq.refl _
    | split
    | (intro s' hs'; try dsimp only)
    | dsimp only

theorem State.draw_keeps_eq {s₀ s t : State} {y : BitVec 64}   (e : State.draw s  = (t, y)) (h₀ : Keeps s₀ s) : Keeps s₀ t :=
  Keeps.fst e (State.draw_keeps h₀)

theorem State.bumpBy_keeps {s₀ s : State} {c : Nat} {i : Nat} {p : Nat} {n : Nat} (h₀ : Keeps s₀ s) : Keeps s₀ (State.bumpBy s c i p n) := by
  unfold State.bumpBy
  repeat' first
    | with_reducible assumption
    | with_reducible exact rfl
    | with_reducible apply State.setCnt_keeps
    | with_reducible apply Keeps.ite
    | split
    | (intro s' hs'; try dsimp only)
    | dsimp only

theorem State.bump_keeps {s₀ s : State} {c : Nat} {i : Nat} {p : Nat} (h₀ : Keeps s₀ s) : Keeps s₀ (State.bump s c i p) := by
  unfold State.bump
  repeat' first
    | with_reducible assumption
    | with_reducible exact rfl
    | with_reducible apply State.bumpBy_keeps
    | with_reducible apply Keeps.ite
    | split
    | (intro s' hs'; try dsimp only)
    | dsimp only

theorem State.putFn_keeps {s₀ s : State} {f : Nat} {v : FnSt} (h₀ : Keeps s₀ s) : Keeps s₀ (State.putFn s f v) := by
  unfold State.putFn
  repeat' first
    | with_reducible assumption
    | with_reducible exact rfl
    | with_reducible apply State.setHost_keeps
    | with_reducible apply Keeps.ite
    | split
    | (intro s' hs'; try dsimp only)
    | dsimp only

theorem State.putRing_keeps {s₀ s : State} {g : Nat} {v : RingSt} (h₀ : Keeps s₀ s) : Keeps s₀ (State.putRing s g v) := by
  unfold State.putRing
  repeat' first
    | with_reducible assumption
    | with_reducible exact rfl
    | with_reducible apply State.setHost_keeps
    | with_reducible apply Keeps.ite
    | split
    | (intro s' hs'; try dsimp only)
    | dsimp only

theorem State.putVec_keeps {s₀ s : State} {k : Nat} {v : VecSt} (h₀ : Keeps s₀ s) : Keeps s₀ (State.putVec s k v) := by
  unfold State.putVec
  repeat' first
    | with_reducible assumption
    | with_reducible exact rfl
    | with_reducible apply State.setHost_keeps
    | with_reducible apply Keeps.ite
    | split
    | (intro s' hs'; try dsimp only)
    | dsimp only

theorem State.atSlot_keeps {s₀ s : State} {slot : Nat} (h₀ : Keeps s₀ s) : Keeps s₀ (State.atSlot s slot).1 := by
  unfold State.atSlot
  dsimp only
  repeat' first
    | with_reducible assumption
    | with_reducible exact rfl
    | with_reducible apply State.setTime_keeps
    | with_reducible apply Keeps.ite
    | exact Eq.refl _
    | split
    | (intro s' hs'; try dsimp only)
    | dsimp only

theorem State.atSlot_keeps_eq {s₀ s t : State} {y : Nat} {slot : Nat}  (e : State.atSlot s slot  = (t, y)) (h₀ : Keeps s₀ s) : Keeps s₀ t :=
  Keeps.fst e (State.atSlot_keeps h₀)

theorem State.someSlot_keeps {s₀ s : State} (h₀ : Keeps s₀ s) : Keeps s₀ (State.someSlot s).1 := by
  unfold State.someSlot
  dsimp only
  repeat' first
    | with_reducible assumption
    | with_reducible exact rfl
    | with_reducible apply State.atSlot_keeps
    | with_reducible apply State.draw_keeps
    | (with_reducible apply State.atSlot_keeps_eq; with_reducible assumption)
    | (with_reducible apply State.draw_keeps_eq; with_reducible assumption)
    | with_reducible apply Keeps.ite
    | split
    | (intro s' hs'; try dsimp only)
    | dsimp only

theorem State.someSlot_keeps_eq {s₀ s t : State} {y : Nat}   (e : State.someSlot s  = (t, y)) (h₀ : Keeps s₀ s) : Keeps s₀ t :=
  Keeps.fst e (State.someSlot_keeps h₀)

theorem State.post_keeps {s₀ s : State} {f : Nat} {code : Nat} {reason : Nat} (h₀ : Keeps s₀ s) : Keeps s₀ (State.post s f code reason) := by
  unfold State.post
  repeat' first
    | with_reducible assumption
    | with_reducible exact rfl
    | with_reducible apply State.setHost_keeps
    | with_reducible apply Keeps.ite
    | split
    | (intro s' hs'; try dsimp only)
    | dsimp only

theorem State.post0_keeps {s₀ s : State} {code : Nat} {reason : Nat} (h₀ : Keeps s₀ s) : Keeps s₀ (State.post0 s code reason) := by
  unfold State.post0
  repeat' first
    | with_reducible assumption
    | with_reducible exact rfl
    | with_reducible apply State.post_keeps
    | with_reducible apply Keeps.ite
    | split
    | (intro s' hs'; try dsimp only)
    | dsimp only

theorem State.postOwn_keeps {s₀ s : State} {f : Nat} {code : Nat} {reason : Nat} (h₀ : Keeps s₀ s) : Keeps s₀ (State.postOwn s f code reason) := by
  unfold State.postOwn
  dsimp only
  repeat' first
    | with_reducible assumption
    | with_reducible exact rfl
    | with_reducible apply State.post0_keeps
    | with_reducible apply State.post_keeps
    | with_reducible apply Keeps.ite
    | split
    | (intro s' hs'; try dsimp only)
    | dsimp only

theorem State.capture_keeps {s₀ s : State} {master : Nat} {func : Nat} {kind : Nat} {addr : Nat} {write : Bool} (h₀ : Keeps s₀ s) : Keeps s₀ (State.capture s master func kind addr write) := by
  unfold State.capture
  dsimp only
  repeat' first
    | with_reducible assumption
    | with_reducible exact rfl
    | with_reducible apply State.setBus_keeps
    | with_reducible apply State.post0_keeps
    | with_reducible apply Keeps.ite
    | split
    | (intro s' hs'; try dsimp only)
    | dsimp only

theorem State.putBank_keeps {s₀ s : State} {b : Nat} {v : BankSt} (h₀ : Keeps s₀ s) : Keeps s₀ (State.putBank s b v) := by
  unfold State.putBank
  repeat' first
    | with_reducible assumption
    | with_reducible exact rfl
    | with_reducible apply State.setVat_keeps
    | with_reducible apply Keeps.ite
    | split
    | (intro s' hs'; try dsimp only)
    | dsimp only

theorem State.upset_keeps {s₀ s : State} {a : Nat} {e : Ecc} (h₀ : Keeps s₀ s) : Keeps s₀ (State.upset s a e) := by
  unfold State.upset
  dsimp only
  repeat' first
    | with_reducible assumption
    | with_reducible exact rfl
    | with_reducible apply State.setVat_keeps
    | exact tableOk_tset _ _
    | with_reducible apply Keeps.ite
    | split
    | (intro s' hs'; try dsimp only)
    | dsimp only

theorem State.sound_keeps {s₀ s : State} {a : Nat} (h₀ : Keeps s₀ s) : Keeps s₀ (State.sound s a) := by
  unfold State.sound
  repeat' first
    | with_reducible assumption
    | with_reducible exact rfl
    | with_reducible apply State.setVat_keeps
    | with_reducible apply Keeps.ite
    | split
    | (intro s' hs'; try dsimp only)
    | dsimp only

theorem State.vatUncorr_keeps {s₀ s : State} {b : Nat} {word : Nat} (h₀ : Keeps s₀ s) : Keeps s₀ (State.vatUncorr s b word) := by
  unfold State.vatUncorr
  dsimp only
  repeat' first
    | with_reducible assumption
    | with_reducible exact rfl
    | with_reducible apply State.putBank_keeps
    | with_reducible apply State.post0_keeps
    | with_reducible apply State.bump_keeps
    | with_reducible apply Keeps.ite
    | split
    | (intro s' hs'; try dsimp only)
    | dsimp only

theorem State.vatCorr_keeps {s₀ s : State} {b : Nat} {word : Nat} (h₀ : Keeps s₀ s) : Keeps s₀ (State.vatCorr s b word) := by
  unfold State.vatCorr
  dsimp only
  repeat' first
    | with_reducible assumption
    | with_reducible exact rfl
    | with_reducible apply State.putBank_keeps
    | with_reducible apply State.bump_keeps
    | with_reducible apply Keeps.ite
    | split
    | (intro s' hs'; try dsimp only)
    | dsimp only

theorem State.dropScrub_keeps {s₀ s : State} {b : Nat} {word : Nat} (h₀ : Keeps s₀ s) : Keeps s₀ (State.dropScrub s b word) := by
  unfold State.dropScrub
  dsimp only
  repeat' first
    | with_reducible assumption
    | with_reducible exact rfl
    | with_reducible apply State.putBank_keeps
    | with_reducible apply Keeps.ite
    | split
    | (intro s' hs'; try dsimp only)
    | dsimp only

theorem State.vatCheck_keeps {s₀ s : State} {b : Nat} {word : Nat} {e : Ecc} (h₀ : Keeps s₀ s) : Keeps s₀ (State.vatCheck s b word e) := by
  unfold State.vatCheck
  repeat' first
    | with_reducible assumption
    | with_reducible exact rfl
    | with_reducible apply State.vatUncorr_keeps
    | with_reducible apply State.vatCorr_keeps
    | with_reducible apply Keeps.ite
    | split
    | (intro s' hs'; try dsimp only)
    | dsimp only

theorem State.vatTouch_keeps {s₀ s : State} {a : Nat} (h₀ : Keeps s₀ s) : Keeps s₀ (State.vatTouch s a).1 := by
  unfold State.vatTouch
  dsimp only
  repeat' first
    | with_reducible assumption
    | with_reducible exact rfl
    | with_reducible apply State.vatCheck_keeps
    | with_reducible apply Keeps.ite
    | split
    | (intro s' hs'; try dsimp only)
    | dsimp only

theorem State.vatTouch_keeps_eq {s₀ s t : State} {y : Ecc} {a : Nat}  (e : State.vatTouch s a  = (t, y)) (h₀ : Keeps s₀ s) : Keeps s₀ t :=
  Keeps.fst e (State.vatTouch_keeps h₀)

theorem State.vatTouches_keeps {s₀ s : State} {ws : List Nat} (h₀ : Keeps s₀ s) : Keeps s₀ (State.vatTouches s ws).1 := by
  unfold State.vatTouches
  dsimp only
  repeat' first
    | with_reducible assumption
    | with_reducible exact rfl
    | with_reducible apply State.vatTouch_keeps
    | with_reducible refine Keeps.foldl _ (fun s x hs => ?_) ?_
    | with_reducible refine Keeps.foldl1 _ (fun s x hs => ?_) ?_
    | (with_reducible apply State.vatTouch_keeps_eq; with_reducible assumption)
    | with_reducible apply Keeps.ite
    | split
    | (intro s' hs'; try dsimp only)
    | dsimp only

theorem State.vatTouches_keeps_eq {s₀ s t : State} {y : Bool} {ws : List Nat}  (e : State.vatTouches s ws  = (t, y)) (h₀ : Keeps s₀ s) : Keeps s₀ t :=
  Keeps.fst e (State.vatTouches_keeps h₀)

theorem State.vatStoreWord_keeps {s₀ s : State} {a : Nat} {bs : List Byte} (h₀ : Keeps s₀ s) : Keeps s₀ (State.vatStoreWord s a bs).1 := by
  unfold State.vatStoreWord
  dsimp only
  repeat' first
    | with_reducible assumption
    | with_reducible exact rfl
    | with_reducible apply State.dropScrub_keeps
    | with_reducible apply State.vatTouch_keeps
    | with_reducible apply State.vatPut_keeps
    | with_reducible apply State.sound_keeps
    | (with_reducible apply State.vatTouch_keeps_eq; with_reducible assumption)
    | with_reducible apply Keeps.ite
    | split
    | (intro s' hs'; try dsimp only)
    | dsimp only

theorem State.vatStoreWord_keeps_eq {s₀ s t : State} {y : Bool} {a : Nat} {bs : List Byte}  (e : State.vatStoreWord s a bs  = (t, y)) (h₀ : Keeps s₀ s) : Keeps s₀ t :=
  Keeps.fst e (State.vatStoreWord_keeps h₀)

theorem State.vatStores_keeps {s₀ s : State} {a : Nat} {bs : List Byte} {skip : List Nat} (h₀ : Keeps s₀ s) : Keeps s₀ (State.vatStores s a bs skip).1 := by
  unfold State.vatStores
  dsimp only
  repeat' first
    | with_reducible assumption
    | with_reducible exact rfl
    | with_reducible apply State.vatStoreWord_keeps
    | with_reducible refine Keeps.foldl _ (fun s x hs => ?_) ?_
    | with_reducible refine Keeps.foldl1 _ (fun s x hs => ?_) ?_
    | (with_reducible apply State.vatStoreWord_keeps_eq; with_reducible assumption)
    | with_reducible apply Keeps.ite
    | split
    | (intro s' hs'; try dsimp only)
    | dsimp only

theorem State.vatStores_keeps_eq {s₀ s t : State} {y : Bool} {a : Nat} {bs : List Byte} {skip : List Nat}  (e : State.vatStores s a bs skip  = (t, y)) (h₀ : Keeps s₀ s) : Keeps s₀ t :=
  Keeps.fst e (State.vatStores_keeps h₀)

theorem State.portARead_keeps {s₀ s : State} {a : Nat} {e : Ecc} (h₀ : Keeps s₀ s) : Keeps s₀ (State.portARead s a e).1 := by
  unfold State.portARead
  dsimp only
  repeat' first
    | with_reducible assumption
    | with_reducible exact rfl
    | with_reducible apply State.vatTouch_keeps
    | with_reducible apply State.upset_keeps
    | (with_reducible apply State.vatTouch_keeps_eq; with_reducible assumption)
    | with_reducible apply Keeps.ite
    | split
    | (intro s' hs'; try dsimp only)
    | dsimp only

theorem State.portARead_keeps_eq {s₀ s t : State} {y : Word × Ecc} {a : Nat} {e : Ecc}  (e : State.portARead s a e  = (t, y)) (h₀ : Keeps s₀ s) : Keeps s₀ t :=
  Keeps.fst e (State.portARead_keeps h₀)

theorem State.portAWrite_keeps {s₀ s : State} {a : Nat} {v : Word} (h₀ : Keeps s₀ s) : Keeps s₀ (State.portAWrite s a v) := by
  unfold State.portAWrite
  repeat' first
    | with_reducible assumption
    | with_reducible exact rfl
    | with_reducible apply State.vatStoreWord_keeps
    | (with_reducible apply State.vatStoreWord_keeps_eq; with_reducible assumption)
    | with_reducible apply Keeps.ite
    | split
    | (intro s' hs'; try dsimp only)
    | dsimp only

theorem State.wlost_keeps {s₀ s : State} {b : Nat} (h₀ : Keeps s₀ s) : Keeps s₀ (State.wlost s b) := by
  unfold State.wlost
  dsimp only
  repeat' first
    | with_reducible assumption
    | with_reducible exact rfl
    | with_reducible apply State.putBank_keeps
    | with_reducible apply State.post0_keeps
    | with_reducible apply State.bump_keeps
    | with_reducible apply Keeps.ite
    | split
    | (intro s' hs'; try dsimp only)
    | dsimp only

theorem State.putHaudio_keeps {s₀ s : State} {g : Nat} {v : HostAudio} (h₀ : Keeps s₀ s) : Keeps s₀ (State.putHaudio s g v) := by
  unfold State.putHaudio
  repeat' first
    | with_reducible assumption
    | with_reducible exact rfl
    | with_reducible apply State.setHost_keeps
    | with_reducible apply Keeps.ite
    | split
    | (intro s' hs'; try dsimp only)
    | dsimp only

theorem State.readFrame_keeps {s₀ s : State} {b : AudioBuf} {j : Nat} (h₀ : Keeps s₀ s) : Keeps s₀ (State.readFrame s b j).1 := by
  unfold State.readFrame
  dsimp only
  repeat' first
    | with_reducible assumption
    | with_reducible exact rfl
    | with_reducible apply State.portARead_keeps
    | with_reducible refine Keeps.foldl _ (fun s x hs => ?_) ?_
    | with_reducible refine Keeps.foldl1 _ (fun s x hs => ?_) ?_
    | (with_reducible apply State.portARead_keeps_eq; with_reducible assumption)
    | with_reducible apply Keeps.ite
    | split
    | (intro s' hs'; try dsimp only)
    | dsimp only

theorem State.readFrame_keeps_eq {s₀ s t : State} {y : Frame} {b : AudioBuf} {j : Nat}  (e : State.readFrame s b j  = (t, y)) (h₀ : Keeps s₀ s) : Keeps s₀ t :=
  Keeps.fst e (State.readFrame_keeps h₀)

theorem State.writeFrame_keeps {s₀ s : State} {b : AudioBuf} {j : Nat} {f : Frame} (h₀ : Keeps s₀ s) : Keeps s₀ (State.writeFrame s b j f) := by
  unfold State.writeFrame
  repeat' first
    | with_reducible assumption
    | with_reducible exact rfl
    | with_reducible apply State.portAWrite_keeps
    | with_reducible refine Keeps.foldl _ (fun s x hs => ?_) ?_
    | with_reducible refine Keeps.foldl1 _ (fun s x hs => ?_) ?_
    | with_reducible apply Keeps.ite
    | split
    | (intro s' hs'; try dsimp only)
    | dsimp only

theorem State.stageWrite_keeps {s₀ s : State} {g : Nat} {b : AudioBuf} {bs : List Byte} (h₀ : Keeps s₀ s) : Keeps s₀ (State.stageWrite s g b bs).1 := by
  unfold State.stageWrite
  repeat' first
    | with_reducible assumption
    | with_reducible exact rfl
    | with_reducible apply State.vatStores_keeps
    | with_reducible apply State.capture_keeps
    | (with_reducible apply State.vatStores_keeps_eq; with_reducible assumption)
    | with_reducible apply Keeps.ite
    | split
    | (intro s' hs'; try dsimp only)
    | dsimp only

theorem State.stageWrite_keeps_eq {s₀ s t : State} {y : Bool} {g : Nat} {b : AudioBuf} {bs : List Byte}  (e : State.stageWrite s g b bs  = (t, y)) (h₀ : Keeps s₀ s) : Keeps s₀ t :=
  Keeps.fst e (State.stageWrite_keeps h₀)

theorem State.stageRead_keeps {s₀ s : State} {g : Nat} {b : AudioBuf} (h₀ : Keeps s₀ s) : Keeps s₀ (State.stageRead s g b).1 := by
  unfold State.stageRead
  dsimp only
  repeat' first
    | with_reducible assumption
    | with_reducible exact rfl
    | with_reducible apply State.vatTouches_keeps
    | with_reducible apply State.capture_keeps
    | (with_reducible apply State.vatTouches_keeps_eq; with_reducible assumption)
    | with_reducible apply Keeps.ite
    | split
    | (intro s' hs'; try dsimp only)
    | dsimp only

theorem State.stageRead_keeps_eq {s₀ s t : State} {y : Option (List Byte)} {g : Nat} {b : AudioBuf}  (e : State.stageRead s g b  = (t, y)) (h₀ : Keeps s₀ s) : Keeps s₀ t :=
  Keeps.fst e (State.stageRead_keeps h₀)

theorem State.putUnit_keeps {s₀ s : State} {c : Nat} {i : Nat} {v : UnitSt} (h₀ : Keeps s₀ s) : Keeps s₀ (State.putUnit s c i v) := by
  unfold State.putUnit
  repeat' first
    | with_reducible assumption
    | with_reducible exact rfl
    | with_reducible apply State.setUnits_keeps
    | with_reducible apply Keeps.ite
    | split
    | (intro s' hs'; try dsimp only)
    | dsimp only

end Sys2Proof.Machine
end

