-- ==== Sys2Proof/Laws/KeepsRegRead.lean ====
section
/-! SUPPORT. Laws/KeepsRegRead.lean: what the operations of Machine/RegRead.lean keep (Laws/Keeps.lean), one lemma each. -/

namespace Sys2Proof.Machine

theorem State.mtips_keeps {s₀ s : State} (h₀ : Keeps s₀ s) : Keeps s₀ (State.mtips s) := by
  unfold State.mtips
  repeat' first
    | with_reducible assumption
    | with_reducible exact rfl
    | with_reducible apply State.setCc_keeps
    | with_reducible refine Keeps.foldl _ (fun s x hs => ?_) ?_
    | with_reducible refine Keeps.foldl1 _ (fun s x hs => ?_) ?_
    | with_reducible apply Keeps.ite
    | split
    | (intro s' hs'; try dsimp only)
    | dsimp only

theorem State.plicGates_keeps {s₀ s : State} (h₀ : Keeps s₀ s) : Keeps s₀ (State.plicGates s) := by
  unfold State.plicGates
  dsimp only
  repeat' first
    | with_reducible assumption
    | with_reducible exact rfl
    | with_reducible apply State.setCc_keeps
    | with_reducible refine Keeps.foldl _ (fun s x hs => ?_) ?_
    | with_reducible refine Keeps.foldl1 _ (fun s x hs => ?_) ?_
    | with_reducible apply Keeps.ite
    | split
    | (intro s' hs'; try dsimp only)
    | dsimp only

theorem State.claim_keeps {s₀ s : State} {ctx : Nat} (h₀ : Keeps s₀ s) : Keeps s₀ (State.claim s ctx) := by
  unfold State.claim
  dsimp only
  repeat' first
    | with_reducible assumption
    | with_reducible exact rfl
    | with_reducible apply State.setCc_keeps
    | with_reducible apply Keeps.ite
    | split
    | (intro s' hs'; try dsimp only)
    | dsimp only

theorem State.latchTick_keeps {s₀ s : State} {slot : Nat} (h₀ : Keeps s₀ s) : Keeps s₀ (State.latchTick s slot) := by
  unfold State.latchTick
  repeat' first
    | with_reducible assumption
    | with_reducible exact rfl
    | with_reducible apply State.setTime_keeps
    | with_reducible apply Keeps.ite
    | exact Eq.refl _
    | split
    | (intro s' hs'; try dsimp only)
    | dsimp only

theorem State.latchMtime_keeps {s₀ s : State} {slot : Nat} (h₀ : Keeps s₀ s) : Keeps s₀ (State.latchMtime s slot) := by
  unfold State.latchMtime
  repeat' first
    | with_reducible assumption
    | with_reducible exact rfl
    | with_reducible apply State.setTime_keeps
    | with_reducible apply Keeps.ite
    | exact Eq.refl _
    | split
    | (intro s' hs'; try dsimp only)
    | dsimp only

theorem State.regReadAct_keeps {s₀ s : State} {off : Nat} (h₀ : Keeps s₀ s) : Keeps s₀ (State.regReadAct s off).1 := by
  unfold State.regReadAct
  dsimp only
  repeat' first
    | with_reducible assumption
    | with_reducible exact rfl
    | with_reducible apply State.latchMtime_keeps
    | with_reducible apply State.latchTick_keeps
    | with_reducible apply State.someSlot_keeps
    | with_reducible apply State.claim_keeps
    | (with_reducible apply State.someSlot_keeps_eq; with_reducible assumption)
    | with_reducible apply Keeps.ite
    | split
    | (intro s' hs'; try dsimp only)
    | dsimp only

theorem State.regReadAct_keeps_eq {s₀ s t : State} {y : Nat} {off : Nat}  (e : State.regReadAct s off  = (t, y)) (h₀ : Keeps s₀ s) : Keeps s₀ t :=
  Keeps.fst e (State.regReadAct_keeps h₀)

theorem State.readRegs_keeps {s₀ s : State} {off : Nat} {n0 : Nat} (h₀ : Keeps s₀ s) : Keeps s₀ (State.readRegs s off n0).1 := by
  induction n0 generalizing s off  with
  | zero =>
    unfold State.readRegs
    repeat' first
      | with_reducible assumption
      | with_reducible exact rfl
      | with_reducible apply State.regReadAct_keeps
      | (with_reducible apply State.regReadAct_keeps_eq; with_reducible assumption)
      | with_reducible apply Keeps.ite
      | split
      | (intro s' hs'; try dsimp only)
      | dsimp only
  | succ m ih =>
    unfold State.readRegs
    repeat' first
      | with_reducible assumption
      | with_reducible exact rfl
      | with_reducible apply ih
      | with_reducible apply State.regReadAct_keeps
      | (with_reducible apply State.regReadAct_keeps_eq; with_reducible assumption)
      | with_reducible apply Keeps.ite
      | split
      | (intro s' hs'; try dsimp only)
      | dsimp only

theorem State.readRegs_keeps_eq {s₀ s t : State} {y : List Byte} {off : Nat} {n0 : Nat} (e : State.readRegs s off n0 = (t, y)) (h₀ : Keeps s₀ s) : Keeps s₀ t :=
  Keeps.fst e (State.readRegs_keeps h₀)

end Sys2Proof.Machine
end

