-- ==== Sys2Proof/Laws/KeepsOps.lean ====
section
/-! SUPPORT. Laws/KeepsOps.lean: what the operations of Machine/Ops.lean keep (Laws/Keeps.lean), one lemma each. -/

namespace Sys2Proof.Machine

theorem State.dmaNote_keeps {s₀ s : State} {f : Nat} {a : Nat} {n : Nat} {write : Bool} (h₀ : Keeps s₀ s) : Keeps s₀ (State.dmaNote s f a n write) := by
  unfold State.dmaNote
  repeat' first
    | with_reducible assumption
    | with_reducible exact rfl
    | with_reducible apply State.capture_keeps
    | with_reducible apply Keeps.ite
    | split
    | (intro s' hs'; try dsimp only)
    | dsimp only

theorem State.dmaLoad_keeps {s₀ s : State} {a : Nat} {n : Nat} (h₀ : Keeps s₀ s) : Keeps s₀ (State.dmaLoad s a n).1 := by
  unfold State.dmaLoad
  dsimp only
  repeat' first
    | with_reducible assumption
    | with_reducible exact rfl
    | with_reducible apply State.vatTouches_keeps
    | with_reducible apply State.readRegs_keeps
    | (with_reducible apply State.vatTouches_keeps_eq; with_reducible assumption)
    | (with_reducible apply State.readRegs_keeps_eq; with_reducible assumption)
    | with_reducible apply Keeps.ite
    | split
    | (intro s' hs'; try dsimp only)
    | dsimp only

theorem State.dmaLoad_keeps_eq {s₀ s t : State} {y : List Byte × Bool} {a : Nat} {n : Nat}  (e : State.dmaLoad s a n  = (t, y)) (h₀ : Keeps s₀ s) : Keeps s₀ t :=
  Keeps.fst e (State.dmaLoad_keeps h₀)

theorem State.dmaClash_keeps {s₀ s : State} {a : Nat} {n : Nat} (h₀ : Keeps s₀ s) : Keeps s₀ (State.dmaClash s a n).1 := by
  unfold State.dmaClash
  dsimp only
  repeat' first
    | with_reducible assumption
    | with_reducible exact rfl
    | with_reducible apply State.draw_keeps
    | (with_reducible apply State.draw_keeps_eq; with_reducible assumption)
    | with_reducible apply Keeps.ite
    | split
    | (intro s' hs'; try dsimp only)
    | dsimp only

theorem State.dmaClash_keeps_eq {s₀ s t : State} {y : List Nat} {a : Nat} {n : Nat}  (e : State.dmaClash s a n  = (t, y)) (h₀ : Keeps s₀ s) : Keeps s₀ t :=
  Keeps.fst e (State.dmaClash_keeps h₀)

theorem State.dmaStore_keeps {s₀ s : State} {a : Nat} {bs : List Byte} (h₀ : Keeps s₀ s) : Keeps s₀ (State.dmaStore s a bs).1 := by
  unfold State.dmaStore
  dsimp only
  repeat' first
    | with_reducible assumption
    | with_reducible exact rfl
    | with_reducible apply State.setHostMem_keeps
    | with_reducible apply State.vatStores_keeps
    | with_reducible apply State.dmaClash_keeps
    | with_reducible apply State.busWrite_keeps
    | with_reducible apply State.wlost_keeps
    | exact wf_memPut _ _
    | (with_reducible apply State.vatStores_keeps_eq; with_reducible assumption)
    | (with_reducible apply State.dmaClash_keeps_eq; with_reducible assumption)
    | with_reducible apply Keeps.ite
    | split
    | (intro s' hs'; try dsimp only)
    | dsimp only

theorem State.dmaStore_keeps_eq {s₀ s t : State} {y : Option Nat} {a : Nat} {bs : List Byte}  (e : State.dmaStore s a bs  = (t, y)) (h₀ : Keeps s₀ s) : Keeps s₀ t :=
  Keeps.fst e (State.dmaStore_keeps h₀)

theorem State.dmaRead_keeps {s₀ s : State} {f : Nat} {a : Nat} {n : Nat} (h₀ : Keeps s₀ s) : Keeps s₀ (State.dmaRead s f a n).1 := by
  unfold State.dmaRead
  dsimp only
  repeat' first
    | with_reducible assumption
    | with_reducible exact rfl
    | with_reducible apply State.dmaLoad_keeps
    | with_reducible apply State.dmaNote_keeps
    | (with_reducible apply State.dmaLoad_keeps_eq; with_reducible assumption)
    | with_reducible apply Keeps.ite
    | split
    | (intro s' hs'; try dsimp only)
    | dsimp only

theorem State.dmaRead_keeps_eq {s₀ s t : State} {y : Except Nat (List Byte)} {f : Nat} {a : Nat} {n : Nat}  (e : State.dmaRead s f a n  = (t, y)) (h₀ : Keeps s₀ s) : Keeps s₀ t :=
  Keeps.fst e (State.dmaRead_keeps h₀)

theorem State.dmaWrite_keeps {s₀ s : State} {f : Nat} {a : Nat} {bs : List Byte} (h₀ : Keeps s₀ s) : Keeps s₀ (State.dmaWrite s f a bs).1 := by
  unfold State.dmaWrite
  repeat' first
    | with_reducible assumption
    | with_reducible exact rfl
    | with_reducible apply State.dmaStore_keeps
    | with_reducible apply State.dmaNote_keeps
    | (with_reducible apply State.dmaStore_keeps_eq; with_reducible assumption)
    | with_reducible apply Keeps.ite
    | split
    | (intro s' hs'; try dsimp only)
    | dsimp only

theorem State.dmaWrite_keeps_eq {s₀ s t : State} {y : Option Nat} {f : Nat} {a : Nat} {bs : List Byte}  (e : State.dmaWrite s f a bs  = (t, y)) (h₀ : Keeps s₀ s) : Keeps s₀ t :=
  Keeps.fst e (State.dmaWrite_keeps h₀)

theorem State.ringError_keeps {s₀ s : State} {g : Nat} (h₀ : Keeps s₀ s) : Keeps s₀ (State.ringError s g) := by
  unfold State.ringError
  dsimp only
  repeat' first
    | with_reducible assumption
    | with_reducible exact rfl
    | with_reducible apply State.putRing_keeps
    | with_reducible apply State.postOwn_keeps
    | with_reducible apply Keeps.ite
    | split
    | (intro s' hs'; try dsimp only)
    | dsimp only

theorem State.countVec_keeps {s₀ s : State} {g : Nat} (h₀ : Keeps s₀ s) : Keeps s₀ (State.countVec s g) := by
  unfold State.countVec
  dsimp only
  repeat' first
    | with_reducible assumption
    | with_reducible exact rfl
    | with_reducible apply State.putVec_keeps
    | with_reducible apply Keeps.ite
    | split
    | (intro s' hs'; try dsimp only)
    | dsimp only

theorem State.writeEntry_keeps {s₀ s : State} {g : Nat} {status : Nat} {opcode : Nat} {tag : Nat} {reason : Nat} {sq : Nat} {sqHead : Nat} {result : Nat} {event : Bool} (h₀ : Keeps s₀ s) : Keeps s₀ (State.writeEntry s g status opcode tag reason sq sqHead result event).1 := by
  unfold State.writeEntry
  dsimp only
  repeat' first
    | with_reducible assumption
    | with_reducible exact rfl
    | with_reducible apply State.ringError_keeps
    | with_reducible apply State.dmaWrite_keeps
    | with_reducible apply State.countVec_keeps
    | with_reducible apply State.putRing_keeps
    | (with_reducible apply State.dmaWrite_keeps_eq; with_reducible assumption)
    | with_reducible apply Keeps.ite
    | split
    | (intro s' hs'; try dsimp only)
    | dsimp only

theorem State.writeEntry_keeps_eq {s₀ s t : State} {y : Bool} {g : Nat} {status : Nat} {opcode : Nat} {tag : Nat} {reason : Nat} {sq : Nat} {sqHead : Nat} {result : Nat} {event : Bool}  (e : State.writeEntry s g status opcode tag reason sq sqHead result event  = (t, y)) (h₀ : Keeps s₀ s) : Keeps s₀ t :=
  Keeps.fst e (State.writeEntry_keeps h₀)

theorem State.writeCompletion_keeps {s₀ s : State} {g : Nat} {q : Req} {o : Outc} (h₀ : Keeps s₀ s) : Keeps s₀ (State.writeCompletion s g q o) := by
  unfold State.writeCompletion
  dsimp only
  repeat' first
    | with_reducible assumption
    | with_reducible exact rfl
    | with_reducible apply State.writeEntry_keeps
    | with_reducible apply State.putRing_keeps
    | with_reducible apply State.bump_keeps
    | (with_reducible apply State.writeEntry_keeps_eq; with_reducible assumption)
    | with_reducible apply Keeps.ite
    | split
    | (intro s' hs'; try dsimp only)
    | dsimp only

theorem State.flushRing_keeps {s₀ s : State} {g : Nat} {n0 : Nat} (h₀ : Keeps s₀ s) : Keeps s₀ (State.flushRing s g n0) := by
  induction n0 generalizing s g  with
  | zero =>
    unfold State.flushRing
    repeat' first
      | with_reducible assumption
      | with_reducible exact rfl
      | with_reducible apply State.writeCompletion_keeps
      | with_reducible apply Keeps.ite
      | split
      | (intro s' hs'; try dsimp only)
      | dsimp only
  | succ m ih =>
    unfold State.flushRing
    repeat' first
      | with_reducible assumption
      | with_reducible exact rfl
      | with_reducible apply ih
      | with_reducible apply State.writeCompletion_keeps
      | with_reducible apply Keeps.ite
      | split
      | (intro s' hs'; try dsimp only)
      | dsimp only

theorem State.finish_keeps {s₀ s : State} {g : Nat} {id : Nat} {o : Outc} (h₀ : Keeps s₀ s) : Keeps s₀ (State.finish s g id o) := by
  unfold State.finish
  dsimp only
  repeat' first
    | with_reducible assumption
    | with_reducible exact rfl
    | with_reducible apply State.flushRing_keeps
    | with_reducible apply State.putRing_keeps
    | with_reducible apply Keeps.ite
    | split
    | (intro s' hs'; try dsimp only)
    | dsimp only

theorem State.finishWrite_keeps {s₀ s : State} {g : Nat} {id : Nat} {a : Nat} {bs : List Byte} {o : Outc} (h₀ : Keeps s₀ s) : Keeps s₀ (State.finishWrite s g id a bs o) := by
  unfold State.finishWrite
  repeat' first
    | with_reducible assumption
    | with_reducible exact rfl
    | with_reducible apply State.dmaWrite_keeps
    | with_reducible apply State.finish_keeps
    | (with_reducible apply State.dmaWrite_keeps_eq; with_reducible assumption)
    | with_reducible apply Keeps.ite
    | split
    | (intro s' hs'; try dsimp only)
    | dsimp only

theorem State.take_keeps {s₀ s : State} {g : Nat} {id : Nat} (h₀ : Keeps s₀ s) : Keeps s₀ (State.take s g id) := by
  unfold State.take
  dsimp only
  repeat' first
    | with_reducible assumption
    | with_reducible exact rfl
    | with_reducible apply State.putRing_keeps
    | with_reducible apply Keeps.ite
    | split
    | (intro s' hs'; try dsimp only)
    | dsimp only

theorem State.writeEvent_keeps {s₀ s : State} {f : Nat} {code : Nat} {reason : Nat} (h₀ : Keeps s₀ s) : Keeps s₀ (State.writeEvent s f code reason).1 := by
  unfold State.writeEvent
  dsimp only
  repeat' first
    | with_reducible assumption
    | with_reducible exact rfl
    | with_reducible apply State.writeEntry_keeps
    | with_reducible apply State.putFn_keeps
    | (with_reducible apply State.writeEntry_keeps_eq; with_reducible assumption)
    | with_reducible apply Keeps.ite
    | split
    | (intro s' hs'; try dsimp only)
    | dsimp only

theorem State.writeEvent_keeps_eq {s₀ s t : State} {y : Bool} {f : Nat} {code : Nat} {reason : Nat}  (e : State.writeEvent s f code reason  = (t, y)) (h₀ : Keeps s₀ s) : Keeps s₀ t :=
  Keeps.fst e (State.writeEvent_keeps h₀)

theorem State.writeLost_keeps {s₀ s : State} {f : Nat} (h₀ : Keeps s₀ s) : Keeps s₀ (State.writeLost s f) := by
  unfold State.writeLost
  dsimp only
  repeat' first
    | with_reducible assumption
    | with_reducible exact rfl
    | with_reducible apply State.writeEvent_keeps
    | with_reducible apply State.putFn_keeps
    | (with_reducible apply State.writeEvent_keeps_eq; with_reducible assumption)
    | with_reducible apply Keeps.ite
    | split
    | (intro s' hs'; try dsimp only)
    | dsimp only

theorem State.deliver_keeps {s₀ s : State} {e : Evt} (h₀ : Keeps s₀ s) : Keeps s₀ (State.deliver s e) := by
  unfold State.deliver
  repeat' first
    | with_reducible assumption
    | with_reducible exact rfl
    | with_reducible apply State.writeEvent_keeps
    | with_reducible apply State.putFn_keeps
    | (with_reducible apply State.writeEvent_keeps_eq; with_reducible assumption)
    | with_reducible apply Keeps.ite
    | split
    | (intro s' hs'; try dsimp only)
    | dsimp only

theorem State.flushEvents_keeps {s₀ s : State} (h₀ : Keeps s₀ s) : Keeps s₀ (State.flushEvents s) := by
  unfold State.flushEvents
  dsimp only
  repeat' first
    | with_reducible assumption
    | with_reducible exact rfl
    | with_reducible apply State.writeLost_keeps
    | with_reducible apply State.deliver_keeps
    | with_reducible apply State.setHost_keeps
    | with_reducible refine Keeps.foldl _ (fun s x hs => ?_) ?_
    | with_reducible refine Keeps.foldl1 _ (fun s x hs => ?_) ?_
    | with_reducible apply Keeps.ite
    | split
    | (intro s' hs'; try dsimp only)
    | dsimp only

end Sys2Proof.Machine
end

