-- ==== Sys2Proof/Laws/KeepsUnits.lean ====
section
/-! SUPPORT. Laws/KeepsUnits.lean: what the operations of Machine/Units.lean keep (Laws/Keeps.lean), one lemma each. -/

namespace Sys2Proof.Machine

theorem State.putPort_keeps {s₀ s : State} {c : Nat} {p : Nat} {v : PortSt} (h₀ : Keeps s₀ s) : Keeps s₀ (State.putPort s c p v) := by
  unfold State.putPort
  repeat' first
    | with_reducible assumption
    | with_reducible exact rfl
    | with_reducible apply State.setPorts_keeps
    | with_reducible apply Keeps.ite
    | split
    | (intro s' hs'; try dsimp only)
    | dsimp only

theorem State.putStream_keeps {s₀ s : State} {e : Nat} {v : StreamSt} (h₀ : Keeps s₀ s) : Keeps s₀ (State.putStream s e v) := by
  unfold State.putStream
  repeat' first
    | with_reducible assumption
    | with_reducible exact rfl
    | with_reducible apply State.setHerd_keeps
    | with_reducible apply Keeps.ite
    | split
    | (intro s' hs'; try dsimp only)
    | dsimp only

theorem State.putModel_keeps {s₀ s : State} {m : Nat} {v : ModelSt} (h₀ : Keeps s₀ s) : Keeps s₀ (State.putModel s m v) := by
  unfold State.putModel
  repeat' first
    | with_reducible assumption
    | with_reducible exact rfl
    | with_reducible apply State.setSep_keeps
    | with_reducible apply Keeps.ite
    | split
    | (intro s' hs'; try dsimp only)
    | dsimp only

theorem State.putTile_keeps {s₀ s : State} {t : Nat} {v : TileSt} (h₀ : Keeps s₀ s) : Keeps s₀ (State.putTile s t v) := by
  unfold State.putTile
  repeat' first
    | with_reducible assumption
    | with_reducible exact rfl
    | with_reducible apply State.setSep_keeps
    | with_reducible apply Keeps.ite
    | split
    | (intro s' hs'; try dsimp only)
    | dsimp only

theorem State.assignStep_keeps {s₀ s : State} {m : Nat} {g : Nat} {id : Nat} (h₀ : Keeps s₀ s) : Keeps s₀ (State.assignStep s m g id) := by
  unfold State.assignStep
  dsimp only
  repeat' first
    | with_reducible assumption
    | with_reducible exact rfl
    | with_reducible apply State.putModel_keeps
    | with_reducible apply Keeps.ite
    | split
    | (intro s' hs'; try dsimp only)
    | dsimp only

theorem State.resumeHop_keeps {s₀ s : State} (h₀ : Keeps s₀ s) : Keeps s₀ (State.resumeHop s) := by
  unfold State.resumeHop
  repeat' first
    | with_reducible assumption
    | with_reducible exact rfl
    | with_reducible apply State.setSep_keeps
    | with_reducible apply Keeps.ite
    | split
    | (intro s' hs'; try dsimp only)
    | dsimp only

theorem State.compareUnit_keeps {s₀ s : State} {u : Nat × Nat} (h₀ : Keeps s₀ s) : Keeps s₀ (State.compareUnit s u) := by
  unfold State.compareUnit
  dsimp only
  repeat' first
    | with_reducible assumption
    | with_reducible exact rfl
    | with_reducible apply State.putUnit_keeps
    | with_reducible apply Keeps.ite
    | split
    | (intro s' hs'; try dsimp only)
    | dsimp only

theorem State.compareAll_keeps {s₀ s : State} (h₀ : Keeps s₀ s) : Keeps s₀ (State.compareAll s) := by
  unfold State.compareAll
  repeat' first
    | with_reducible assumption
    | with_reducible exact rfl
    | with_reducible apply State.compareUnit_keeps
    | with_reducible refine Keeps.foldl _ (fun s x hs => ?_) ?_
    | with_reducible refine Keeps.foldl1 _ (fun s x hs => ?_) ?_
    | with_reducible apply Keeps.ite
    | split
    | (intro s' hs'; try dsimp only)
    | dsimp only

end Sys2Proof.Machine
end

