-- ==== Sys2Proof/Laws/KeepsCheck.lean ====
section
/-! SUPPORT. Laws/KeepsCheck.lean: what the operations of Machine/Check.lean keep (Laws/Keeps.lean), one lemma each. -/

namespace Sys2Proof.Machine

theorem State.tryEnable_keeps {s₀ s : State} {g : Nat} (h₀ : Keeps s₀ s) : Keeps s₀ (State.tryEnable s g) := by
  unfold State.tryEnable
  dsimp only
  repeat' first
    | with_reducible assumption
    | with_reducible exact rfl
    | with_reducible apply State.putRing_keeps
    | with_reducible apply Keeps.ite
    | split
    | (intro s' hs'; try dsimp only)
    | dsimp only

end Sys2Proof.Machine
end

