-- ==== Sys2Proof/Laws/KeepsVats.lean ====
section
/-! SUPPORT. Laws/KeepsVats.lean: what the operations of Machine/Vats.lean keep (Laws/Keeps.lean), one lemma each. -/

namespace Sys2Proof.Machine

theorem State.putMarch_keeps {s₀ s : State} {v : MarchSt} (h₀ : Keeps s₀ s) : Keeps s₀ (State.putMarch s v) := by
  unfold State.putMarch
  repeat' first
    | with_reducible assumption
    | with_reducible exact rfl
    | with_reducible apply State.setVat_keeps
    | with_reducible apply Keeps.ite
    | split
    | (intro s' hs'; try dsimp only)
    | dsimp only

theorem State.clearBank_keeps {s₀ s : State} {b : Nat} (h₀ : Keeps s₀ s) : Keeps s₀ (State.clearBank s b) := by
  unfold State.clearBank
  dsimp only
  repeat' first
    | with_reducible assumption
    | with_reducible exact rfl
    | with_reducible apply State.setVat_keeps
    | with_reducible apply State.setMem_keeps
    | exact tableOk_filter _
    | with_reducible apply Keeps.ite
    | split
    | (intro s' hs'; try dsimp only)
    | dsimp only

theorem execScrubWriteBack_keeps {s₀ s t : State} {bank : Nat} (e : execScrubWriteBack bank s = .next t) (h₀ : Keeps s₀ s) : Keeps s₀ t := by
  obtain rfl := Host.Outcome.next.inj e
  clear e
  repeat' first
    | with_reducible assumption
    | with_reducible exact rfl
    | with_reducible apply State.vatStoreWord_keeps
    | (with_reducible apply State.vatStoreWord_keeps_eq; with_reducible assumption)
    | with_reducible apply Keeps.ite
    | split
    | (intro s' hs'; try dsimp only)
    | dsimp only

theorem execBankPowerUpEnd_keeps {s₀ s t : State} {bank : Nat} (e : execBankPowerUpEnd bank s = .next t) (h₀ : Keeps s₀ s) : Keeps s₀ t := by
  obtain rfl := Host.Outcome.next.inj e
  clear e
  repeat' first
    | with_reducible assumption
    | with_reducible exact rfl
    | with_reducible apply State.clearBank_keeps
    | with_reducible apply State.putBank_keeps
    | with_reducible apply Keeps.ite
    | split
    | (intro s' hs'; try dsimp only)
    | dsimp only

theorem execVatMarch_keeps {s₀ s t : State} {ring : Nat} (e : execVatMarch ring s = .next t) (h₀ : Keeps s₀ s) : Keeps s₀ t := by
  obtain rfl := Host.Outcome.next.inj e
  clear e
  repeat' first
    | with_reducible assumption
    | with_reducible exact rfl
    | with_reducible apply State.putMarch_keeps
    | with_reducible apply State.finish_keeps
    | with_reducible apply State.take_keeps
    | with_reducible apply Keeps.ite
    | split
    | (intro s' hs'; try dsimp only)
    | dsimp only

theorem State.rawWord_keeps {s₀ s : State} {a : Nat} {v : BitVec 72} (h₀ : Keeps s₀ s) : Keeps s₀ (State.rawWord s a v) := by
  unfold State.rawWord
  repeat' first
    | with_reducible assumption
    | with_reducible exact rfl
    | with_reducible apply State.setMem_keeps
    | exact wf_memPut _ _
    | with_reducible apply Keeps.ite
    | split
    | (intro s' hs'; try dsimp only)
    | dsimp only

theorem State.marchRelease_keeps {s₀ s : State} (h₀ : Keeps s₀ s) : Keeps s₀ (State.marchRelease s) := by
  unfold State.marchRelease
  dsimp only
  repeat' first
    | with_reducible assumption
    | with_reducible exact rfl
    | with_reducible apply State.vatStoreWord_keeps
    | with_reducible apply State.putMarch_keeps
    | (with_reducible apply State.vatStoreWord_keeps_eq; with_reducible assumption)
    | with_reducible apply Keeps.ite
    | split
    | (intro s' hs'; try dsimp only)
    | dsimp only

theorem State.marchKeep_keeps {s₀ s : State} {res : MarchRes} (h₀ : Keeps s₀ s) : Keeps s₀ (State.marchKeep s res) := by
  unfold State.marchKeep
  dsimp only
  repeat' first
    | with_reducible assumption
    | with_reducible exact rfl
    | with_reducible apply State.marchRelease_keeps
    | with_reducible apply State.vatTouch_keeps
    | with_reducible apply State.putMarch_keeps
    | with_reducible apply State.rawWord_keeps
    | with_reducible apply State.upset_keeps
    | with_reducible apply State.sound_keeps
    | (with_reducible apply State.vatTouch_keeps_eq; with_reducible assumption)
    | with_reducible apply Keeps.ite
    | split
    | (intro s' hs'; try dsimp only)
    | dsimp only

theorem State.marchDestroy_keeps {s₀ s : State} {res : MarchRes} (h₀ : Keeps s₀ s) : Keeps s₀ (State.marchDestroy s res) := by
  unfold State.marchDestroy
  dsimp only
  repeat' first
    | with_reducible assumption
    | with_reducible exact rfl
    | with_reducible apply State.putMarch_keeps
    | with_reducible apply State.rawWord_keeps
    | with_reducible apply State.sound_keeps
    | with_reducible apply State.take_keeps
    | with_reducible apply Keeps.ite
    | split
    | (intro s' hs'; try dsimp only)
    | dsimp only

theorem execMarchWord_keeps {s₀ s t : State} {res : MarchRes} (e : execMarchWord res s = .next t) (h₀ : Keeps s₀ s) : Keeps s₀ t := by
  obtain rfl := Host.Outcome.next.inj e
  clear e
  repeat' first
    | with_reducible assumption
    | with_reducible exact rfl
    | with_reducible apply State.marchDestroy_keeps
    | with_reducible apply State.marchKeep_keeps
    | with_reducible apply State.putMarch_keeps
    | with_reducible apply Keeps.ite
    | split
    | (intro s' hs'; try dsimp only)
    | dsimp only

theorem State.marchFinish_keeps {s₀ s : State} {abort : Bool} {o : Outc} (h₀ : Keeps s₀ s) : Keeps s₀ (State.marchFinish s abort o) := by
  unfold State.marchFinish
  dsimp only
  repeat' first
    | with_reducible assumption
    | with_reducible exact rfl
    | with_reducible apply State.marchRelease_keeps
    | with_reducible apply State.finishWrite_keeps
    | with_reducible apply State.clearBank_keeps
    | with_reducible apply State.putMarch_keeps
    | with_reducible apply Keeps.ite
    | split
    | (intro s' hs'; try dsimp only)
    | dsimp only

theorem State.marchStop_keeps {s₀ s : State} {abort : Bool} (h₀ : Keeps s₀ s) : Keeps s₀ (State.marchStop s abort) := by
  unfold State.marchStop
  repeat' first
    | with_reducible assumption
    | with_reducible exact rfl
    | with_reducible apply State.marchFinish_keeps
    | with_reducible apply Keeps.ite
    | split
    | (intro s' hs'; try dsimp only)
    | dsimp only

theorem execMarchEnd_keeps {s₀ s t : State} {abort : Bool} (e : execMarchEnd abort s = .next t) (h₀ : Keeps s₀ s) : Keeps s₀ t := by
  obtain rfl := Host.Outcome.next.inj e
  clear e
  repeat' first
    | with_reducible assumption
    | with_reducible exact rfl
    | with_reducible apply State.marchStop_keeps
    | with_reducible apply Keeps.ite
    | split
    | (intro s' hs'; try dsimp only)
    | dsimp only

end Sys2Proof.Machine
end

