-- ==== Sys2Proof/Laws/KeepsChurn.lean ====
section
/-! SUPPORT. Laws/KeepsChurn.lean: what the operations of Machine/Churn.lean keep (Laws/Keeps.lean), one lemma each. -/

namespace Sys2Proof.Machine

theorem State.putPu_keeps {s₀ s : State} {p : Nat} {v : PuSt} (h₀ : Keeps s₀ s) : Keeps s₀ (State.putPu s p v) := by
  unfold State.putPu
  repeat' first
    | with_reducible assumption
    | with_reducible exact rfl
    | with_reducible apply State.setChurn_keeps
    | with_reducible apply Keeps.ite
    | split
    | (intro s' hs'; try dsimp only)
    | dsimp only

theorem State.puCount_keeps {s₀ s : State} {p : Nat} {place : Nat} {b : Bool} (h₀ : Keeps s₀ s) : Keeps s₀ (State.puCount s p place b) := by
  unfold State.puCount
  repeat' first
    | with_reducible assumption
    | with_reducible exact rfl
    | with_reducible apply State.bump_keeps
    | with_reducible apply Keeps.ite
    | split
    | (intro s' hs'; try dsimp only)
    | dsimp only

theorem State.puEcc_keeps {s₀ s : State} {p : Nat} {e : Ecc} (h₀ : Keeps s₀ s) : Keeps s₀ (State.puEcc s p e) := by
  unfold State.puEcc
  dsimp only
  repeat' first
    | with_reducible assumption
    | with_reducible exact rfl
    | with_reducible apply State.putPu_keeps
    | with_reducible apply State.post0_keeps
    | with_reducible apply State.bump_keeps
    | with_reducible apply Keeps.ite
    | split
    | (intro s' hs'; try dsimp only)
    | dsimp only

theorem State.inSlot_keeps {s₀ s : State} {pu : BitVec 3} {p : Pred} {f : State → State} (hf : ∀ s, Keeps s₀ s → Keeps s₀ (f s)) (h₀ : Keeps s₀ s) : Keeps s₀ (State.inSlot s pu p f) := by
  unfold State.inSlot
  dsimp only
  repeat' first
    | with_reducible assumption
    | with_reducible exact rfl
    | with_reducible apply hf
    | with_reducible apply State.putPu_keeps
    | with_reducible apply Keeps.ite
    | split
    | (intro s' hs'; try dsimp only)
    | dsimp only

theorem State.sendD_keeps {s₀ s : State} {n : Nat} {lat : Nat} {d : BitVec 6} {v : Word} (h₀ : Keeps s₀ s) : Keeps s₀ (State.sendD s n lat d v) := by
  unfold State.sendD
  repeat' first
    | with_reducible assumption
    | with_reducible exact rfl
    | with_reducible apply State.putPu_keeps
    | with_reducible apply Keeps.ite
    | split
    | (intro s' hs'; try dsimp only)
    | dsimp only

theorem State.sendSat_keeps {s₀ s : State} {n : Nat} {lat : Nat} {d : BitVec 6} {v : Int} (h₀ : Keeps s₀ s) : Keeps s₀ (State.sendSat s n lat d v) := by
  unfold State.sendSat
  repeat' first
    | with_reducible assumption
    | with_reducible exact rfl
    | with_reducible apply State.puCount_keeps
    | with_reducible apply State.sendD_keeps
    | with_reducible apply Keeps.ite
    | split
    | (intro s' hs'; try dsimp only)
    | dsimp only

theorem State.sendPred_keeps {s₀ s : State} {n : Nat} {d : BitVec 3} {v : Bool} (h₀ : Keeps s₀ s) : Keeps s₀ (State.sendPred s n d v) := by
  unfold State.sendPred
  repeat' first
    | with_reducible assumption
    | with_reducible exact rfl
    | with_reducible apply State.putPu_keeps
    | with_reducible apply Keeps.ite
    | split
    | (intro s' hs'; try dsimp only)
    | dsimp only

theorem State.sendAcc_keeps {s₀ s : State} {n : Nat} {a : BitVec 2} {v : Int} (h₀ : Keeps s₀ s) : Keeps s₀ (State.sendAcc s n a v) := by
  unfold State.sendAcc
  dsimp only
  repeat' first
    | with_reducible assumption
    | with_reducible exact rfl
    | with_reducible apply State.puCount_keeps
    | with_reducible apply State.putPu_keeps
    | with_reducible apply Keeps.ite
    | split
    | (intro s' hs'; try dsimp only)
    | dsimp only

theorem State.coefRead_keeps {s₀ s : State} {n : Nat} {k : BitVec 12} {e : Ecc} (h₀ : Keeps s₀ s) : Keeps s₀ (State.coefRead s n k e).1 := by
  unfold State.coefRead
  dsimp only
  repeat' first
    | with_reducible assumption
    | with_reducible exact rfl
    | with_reducible apply State.puEcc_keeps
    | with_reducible apply State.putPu_keeps
    | with_reducible apply Keeps.ite
    | split
    | (intro s' hs'; try dsimp only)
    | dsimp only

theorem State.coefRead_keeps_eq {s₀ s t : State} {y : Word} {n : Nat} {k : BitVec 12} {e : Ecc}  (e : State.coefRead s n k e  = (t, y)) (h₀ : Keeps s₀ s) : Keeps s₀ t :=
  Keeps.fst e (State.coefRead_keeps h₀)

theorem State.churnRead_keeps {s₀ s : State} {n : Nat} {a : Nat} {e : Ecc} (h₀ : Keeps s₀ s) : Keeps s₀ (State.churnRead s n a e).1 := by
  unfold State.churnRead
  dsimp only
  repeat' first
    | with_reducible assumption
    | with_reducible exact rfl
    | with_reducible apply State.portARead_keeps
    | with_reducible apply State.puEcc_keeps
    | (with_reducible apply State.portARead_keeps_eq; with_reducible assumption)
    | with_reducible apply Keeps.ite
    | split
    | (intro s' hs'; try dsimp only)
    | dsimp only

theorem State.churnRead_keeps_eq {s₀ s t : State} {y : Word} {n : Nat} {a : Nat} {e : Ecc}  (e : State.churnRead s n a e  = (t, y)) (h₀ : Keeps s₀ s) : Keeps s₀ t :=
  Keeps.fst e (State.churnRead_keeps h₀)

theorem State.lineRead_keeps {s₀ s : State} {n : Nat} {k : Nat} {d : Nat} {g : Geom} {e : Ecc} (h₀ : Keeps s₀ s) : Keeps s₀ (State.lineRead s n k d g e).1 := by
  unfold State.lineRead
  dsimp only
  repeat' first
    | with_reducible assumption
    | with_reducible exact rfl
    | with_reducible apply State.churnRead_keeps
    | (with_reducible apply State.churnRead_keeps_eq; with_reducible assumption)
    | with_reducible apply Keeps.ite
    | split
    | (intro s' hs'; try dsimp only)
    | dsimp only

theorem State.lineRead_keeps_eq {s₀ s t : State} {y : Word} {n : Nat} {k : Nat} {d : Nat} {g : Geom} {e : Ecc}  (e : State.lineRead s n k d g e  = (t, y)) (h₀ : Keeps s₀ s) : Keeps s₀ t :=
  Keeps.fst e (State.lineRead_keeps h₀)

theorem State.sendFree_keeps {s₀ s : State} {n : Nat} {lat : Nat} {d : BitVec 6} (h₀ : Keeps s₀ s) : Keeps s₀ (State.sendFree s n lat d) := by
  unfold State.sendFree
  dsimp only
  repeat' first
    | with_reducible assumption
    | with_reducible exact rfl
    | with_reducible apply State.sendD_keeps
    | with_reducible apply State.draw_keeps
    | (with_reducible apply State.draw_keeps_eq; with_reducible assumption)
    | with_reducible apply Keeps.ite
    | split
    | (intro s' hs'; try dsimp only)
    | dsimp only

theorem State.opLdc_keeps {s₀ s : State} {pu : BitVec 3} {p : Pred} {d : BitVec 6} {idx : BitVec 12} {e : Ecc} (h₀ : Keeps s₀ s) : Keeps s₀ (State.opLdc s pu p d idx e) := by
  unfold State.opLdc
  dsimp only
  repeat' first
    | with_reducible assumption
    | with_reducible exact rfl
    | with_reducible apply State.coefRead_keeps
    | with_reducible apply State.inSlot_keeps
    | with_reducible apply State.sendD_keeps
    | (with_reducible apply State.coefRead_keeps_eq; with_reducible assumption)
    | with_reducible apply Keeps.ite
    | split
    | (intro s' hs'; try dsimp only)
    | dsimp only

theorem State.opDrd_keeps {s₀ s : State} {pu : BitVec 3} {p : Pred} {d : BitVec 6} {line : BitVec 6} {delay : BitVec 21} {e : Ecc} (h₀ : Keeps s₀ s) : Keeps s₀ (State.opDrd s pu p d line delay e) := by
  unfold State.opDrd
  dsimp only
  repeat' first
    | with_reducible assumption
    | with_reducible exact rfl
    | with_reducible apply State.sendFree_keeps
    | with_reducible apply State.lineRead_keeps
    | with_reducible apply State.inSlot_keeps
    | with_reducible apply State.sendD_keeps
    | (with_reducible apply State.lineRead_keeps_eq; with_reducible assumption)
    | with_reducible apply Keeps.ite
    | split
    | (intro s' hs'; try dsimp only)
    | dsimp only

theorem State.opDrdx_keeps {s₀ s : State} {pu : BitVec 3} {p : Pred} {d : BitVec 6} {b : BitVec 6} {line : BitVec 6} {off : BitVec 21} {e : Ecc} (h₀ : Keeps s₀ s) : Keeps s₀ (State.opDrdx s pu p d b line off e) := by
  unfold State.opDrdx
  dsimp only
  repeat' first
    | with_reducible assumption
    | with_reducible exact rfl
    | with_reducible apply State.sendFree_keeps
    | with_reducible apply State.lineRead_keeps
    | with_reducible apply State.puCount_keeps
    | with_reducible apply State.inSlot_keeps
    | with_reducible apply State.sendD_keeps
    | (with_reducible apply State.lineRead_keeps_eq; with_reducible assumption)
    | with_reducible apply Keeps.ite
    | split
    | (intro s' hs'; try dsimp only)
    | dsimp only

theorem State.opVrd_keeps {s₀ s : State} {pu : BitVec 3} {p : Pred} {d : BitVec 6} {b : BitVec 6} {tab : BitVec 3} {off : BitVec 21} {e : Ecc} (h₀ : Keeps s₀ s) : Keeps s₀ (State.opVrd s pu p d b tab off e) := by
  unfold State.opVrd
  dsimp only
  repeat' first
    | with_reducible assumption
    | with_reducible exact rfl
    | with_reducible apply State.churnRead_keeps
    | with_reducible apply State.sendFree_keeps
    | with_reducible apply State.puCount_keeps
    | with_reducible apply State.inSlot_keeps
    | with_reducible apply State.sendD_keeps
    | (with_reducible apply State.churnRead_keeps_eq; with_reducible assumption)
    | with_reducible apply Keeps.ite
    | split
    | (intro s' hs'; try dsimp only)
    | dsimp only

theorem State.opMacc_keeps {s₀ s : State} {pu : BitVec 3} {p : Pred} {acc : BitVec 2} {a : BitVec 6} {idx : BitVec 12} {e : Ecc} (h₀ : Keeps s₀ s) : Keeps s₀ (State.opMacc s pu p acc a idx e) := by
  unfold State.opMacc
  dsimp only
  repeat' first
    | with_reducible assumption
    | with_reducible exact rfl
    | with_reducible apply State.coefRead_keeps
    | with_reducible apply State.sendAcc_keeps
    | with_reducible apply State.inSlot_keeps
    | (with_reducible apply State.coefRead_keeps_eq; with_reducible assumption)
    | with_reducible apply Keeps.ite
    | split
    | (intro s' hs'; try dsimp only)
    | dsimp only

theorem State.opMpyc_keeps {s₀ s : State} {pu : BitVec 3} {p : Pred} {acc : BitVec 2} {a : BitVec 6} {idx : BitVec 12} {e : Ecc} (h₀ : Keeps s₀ s) : Keeps s₀ (State.opMpyc s pu p acc a idx e) := by
  unfold State.opMpyc
  dsimp only
  repeat' first
    | with_reducible assumption
    | with_reducible exact rfl
    | with_reducible apply State.coefRead_keeps
    | with_reducible apply State.sendAcc_keeps
    | with_reducible apply State.inSlot_keeps
    | (with_reducible apply State.coefRead_keeps_eq; with_reducible assumption)
    | with_reducible apply Keeps.ite
    | split
    | (intro s' hs'; try dsimp only)
    | dsimp only

theorem State.opArith_keeps {s₀ s : State} {pu : BitVec 3} {p : Pred} {lat : Nat} {d : BitVec 6} {f : PuSt → Int} (h₀ : Keeps s₀ s) : Keeps s₀ (State.opArith s pu p lat d f) := by
  unfold State.opArith
  repeat' first
    | with_reducible assumption
    | with_reducible exact rfl
    | with_reducible apply State.sendSat_keeps
    | with_reducible apply State.inSlot_keeps
    | with_reducible apply Keeps.ite
    | split
    | (intro s' hs'; try dsimp only)
    | dsimp only

theorem State.opMove_keeps {s₀ s : State} {pu : BitVec 3} {p : Pred} {d : BitVec 6} {f : PuSt → Word} (h₀ : Keeps s₀ s) : Keeps s₀ (State.opMove s pu p d f) := by
  unfold State.opMove
  repeat' first
    | with_reducible assumption
    | with_reducible exact rfl
    | with_reducible apply State.inSlot_keeps
    | with_reducible apply State.sendD_keeps
    | with_reducible apply Keeps.ite
    | split
    | (intro s' hs'; try dsimp only)
    | dsimp only

theorem State.opPred_keeps {s₀ s : State} {pu : BitVec 3} {p : Pred} {d : BitVec 3} {f : PuSt → Bool} (h₀ : Keeps s₀ s) : Keeps s₀ (State.opPred s pu p d f) := by
  unfold State.opPred
  repeat' first
    | with_reducible assumption
    | with_reducible exact rfl
    | with_reducible apply State.sendPred_keeps
    | with_reducible apply State.inSlot_keeps
    | with_reducible apply Keeps.ite
    | split
    | (intro s' hs'; try dsimp only)
    | dsimp only

theorem State.opAcc_keeps {s₀ s : State} {pu : BitVec 3} {p : Pred} {acc : BitVec 2} {f : PuSt → Int} (h₀ : Keeps s₀ s) : Keeps s₀ (State.opAcc s pu p acc f) := by
  unfold State.opAcc
  repeat' first
    | with_reducible assumption
    | with_reducible exact rfl
    | with_reducible apply State.sendAcc_keeps
    | with_reducible apply State.inSlot_keeps
    | with_reducible apply Keeps.ite
    | split
    | (intro s' hs'; try dsimp only)
    | dsimp only

theorem execChurnNop_keeps {s₀ s t : State} {pu : BitVec 3} {p : Pred} (e : execChurnNop pu p s = .next t) (h₀ : Keeps s₀ s) : Keeps s₀ t := by
  obtain rfl := Host.Outcome.next.inj e
  clear e
  repeat' first
    | with_reducible assumption
    | with_reducible exact rfl
    | with_reducible apply State.inSlot_keeps
    | with_reducible apply Keeps.ite
    | split
    | (intro s' hs'; try dsimp only)
    | dsimp only

theorem execInb_keeps {s₀ s t : State} {pu : BitVec 3} {p : Pred} {d : BitVec 6} {ch : BitVec 8} (e : execInb pu p d ch s = .next t) (h₀ : Keeps s₀ s) : Keeps s₀ t := by
  obtain rfl := Host.Outcome.next.inj e
  clear e
  repeat' first
    | with_reducible assumption
    | with_reducible exact rfl
    | with_reducible apply State.inSlot_keeps
    | with_reducible apply State.sendD_keeps
    | with_reducible apply Keeps.ite
    | split
    | (intro s' hs'; try dsimp only)
    | dsimp only

theorem execOutb_keeps {s₀ s t : State} {pu : BitVec 3} {p : Pred} {a : BitVec 6} {ch : BitVec 8} (e : execOutb pu p a ch s = .next t) (h₀ : Keeps s₀ s) : Keeps s₀ t := by
  obtain rfl := Host.Outcome.next.inj e
  clear e
  repeat' first
    | with_reducible assumption
    | with_reducible exact rfl
    | with_reducible apply State.setChurn_keeps
    | with_reducible apply State.inSlot_keeps
    | exact tableOk_tset _ _
    | with_reducible apply Keeps.ite
    | split
    | (intro s' hs'; try dsimp only)
    | dsimp only

theorem execPbr_keeps {s₀ s t : State} {pu : BitVec 3} {p : Pred} {d : BitVec 6} {reg : BitVec 10} (e : execPbr pu p d reg s = .next t) (h₀ : Keeps s₀ s) : Keeps s₀ t := by
  obtain rfl := Host.Outcome.next.inj e
  clear e
  repeat' first
    | with_reducible assumption
    | with_reducible exact rfl
    | with_reducible apply State.inSlot_keeps
    | with_reducible apply State.sendD_keeps
    | with_reducible apply Keeps.ite
    | split
    | (intro s' hs'; try dsimp only)
    | dsimp only

theorem execPbw_keeps {s₀ s t : State} {pu : BitVec 3} {p : Pred} {a : BitVec 6} {reg : BitVec 10} (e : execPbw pu p a reg s = .next t) (h₀ : Keeps s₀ s) : Keeps s₀ t := by
  obtain rfl := Host.Outcome.next.inj e
  clear e
  repeat' first
    | with_reducible assumption
    | with_reducible exact rfl
    | with_reducible apply State.setChurn_keeps
    | with_reducible apply State.inSlot_keeps
    | with_reducible apply Keeps.ite
    | split
    | (intro s' hs'; try dsimp only)
    | dsimp only

theorem execLdc_keeps {s₀ s t : State} {pu : BitVec 3} {p : Pred} {d : BitVec 6} {idx : BitVec 12} (e : execLdc pu p d idx s = .next t) (h₀ : Keeps s₀ s) : Keeps s₀ t := by
  obtain rfl := Host.Outcome.next.inj e
  clear e
  repeat' first
    | with_reducible assumption
    | with_reducible exact rfl
    | with_reducible apply State.opLdc_keeps
    | with_reducible apply Keeps.ite
    | split
    | (intro s' hs'; try dsimp only)
    | dsimp only

theorem execLdi_keeps {s₀ s t : State} {pu : BitVec 3} {p : Pred} {d : BitVec 6} {imm : BitVec 32} (e : execLdi pu p d imm s = .next t) (h₀ : Keeps s₀ s) : Keeps s₀ t := by
  obtain rfl := Host.Outcome.next.inj e
  clear e
  repeat' first
    | with_reducible assumption
    | with_reducible exact rfl
    | with_reducible apply State.opMove_keeps
    | with_reducible apply Keeps.ite
    | split
    | (intro s' hs'; try dsimp only)
    | dsimp only

theorem execMov_keeps {s₀ s t : State} {pu : BitVec 3} {p : Pred} {d : BitVec 6} {a : BitVec 6} (e : execMov pu p d a s = .next t) (h₀ : Keeps s₀ s) : Keeps s₀ t := by
  obtain rfl := Host.Outcome.next.inj e
  clear e
  repeat' first
    | with_reducible assumption
    | with_reducible exact rfl
    | with_reducible apply State.opMove_keeps
    | with_reducible apply Keeps.ite
    | split
    | (intro s' hs'; try dsimp only)
    | dsimp only

theorem execUnpkl_keeps {s₀ s t : State} {pu : BitVec 3} {p : Pred} {d : BitVec 6} {a : BitVec 6} (e : execUnpkl pu p d a s = .next t) (h₀ : Keeps s₀ s) : Keeps s₀ t := by
  obtain rfl := Host.Outcome.next.inj e
  clear e
  repeat' first
    | with_reducible assumption
    | with_reducible exact rfl
    | with_reducible apply State.opMove_keeps
    | with_reducible apply Keeps.ite
    | split
    | (intro s' hs'; try dsimp only)
    | dsimp only

theorem execUnpkh_keeps {s₀ s t : State} {pu : BitVec 3} {p : Pred} {d : BitVec 6} {a : BitVec 6} (e : execUnpkh pu p d a s = .next t) (h₀ : Keeps s₀ s) : Keeps s₀ t := by
  obtain rfl := Host.Outcome.next.inj e
  clear e
  repeat' first
    | with_reducible assumption
    | with_reducible exact rfl
    | with_reducible apply State.opMove_keeps
    | with_reducible apply Keeps.ite
    | split
    | (intro s' hs'; try dsimp only)
    | dsimp only

theorem execPack_keeps {s₀ s t : State} {pu : BitVec 3} {p : Pred} {d : BitVec 6} {a : BitVec 6} {b : BitVec 6} (e : execPack pu p d a b s = .next t) (h₀ : Keeps s₀ s) : Keeps s₀ t := by
  obtain rfl := Host.Outcome.next.inj e
  clear e
  repeat' first
    | with_reducible assumption
    | with_reducible exact rfl
    | with_reducible apply State.puCount_keeps
    | with_reducible apply State.inSlot_keeps
    | with_reducible apply State.sendD_keeps
    | with_reducible apply Keeps.ite
    | split
    | (intro s' hs'; try dsimp only)
    | dsimp only

theorem execDwr_keeps {s₀ s t : State} {pu : BitVec 3} {p : Pred} {a : BitVec 6} {line : BitVec 6} (e : execDwr pu p a line s = .next t) (h₀ : Keeps s₀ s) : Keeps s₀ t := by
  obtain rfl := Host.Outcome.next.inj e
  clear e
  repeat' first
    | with_reducible assumption
    | with_reducible exact rfl
    | with_reducible apply State.portAWrite_keeps
    | with_reducible apply State.inSlot_keeps
    | with_reducible apply State.putPu_keeps
    | with_reducible apply Keeps.ite
    | split
    | (intro s' hs'; try dsimp only)
    | dsimp only

theorem execDrd_keeps {s₀ s t : State} {pu : BitVec 3} {p : Pred} {d : BitVec 6} {line : BitVec 6} {delay : BitVec 21} {ecc : Ecc} (e : execDrd pu p d line delay ecc s = .next t) (h₀ : Keeps s₀ s) : Keeps s₀ t := by
  obtain rfl := Host.Outcome.next.inj e
  clear e
  repeat' first
    | with_reducible assumption
    | with_reducible exact rfl
    | with_reducible apply State.opDrd_keeps
    | with_reducible apply Keeps.ite
    | split
    | (intro s' hs'; try dsimp only)
    | dsimp only

theorem execDrdx_keeps {s₀ s t : State} {pu : BitVec 3} {p : Pred} {d : BitVec 6} {b : BitVec 6} {line : BitVec 6} {off : BitVec 21} {ecc : Ecc} (e : execDrdx pu p d b line off ecc s = .next t) (h₀ : Keeps s₀ s) : Keeps s₀ t := by
  obtain rfl := Host.Outcome.next.inj e
  clear e
  repeat' first
    | with_reducible assumption
    | with_reducible exact rfl
    | with_reducible apply State.opDrdx_keeps
    | with_reducible apply Keeps.ite
    | split
    | (intro s' hs'; try dsimp only)
    | dsimp only

theorem execVrd_keeps {s₀ s t : State} {pu : BitVec 3} {p : Pred} {d : BitVec 6} {b : BitVec 6} {tab : BitVec 3} {off : BitVec 21} {ecc : Ecc} (e : execVrd pu p d b tab off ecc s = .next t) (h₀ : Keeps s₀ s) : Keeps s₀ t := by
  obtain rfl := Host.Outcome.next.inj e
  clear e
  repeat' first
    | with_reducible assumption
    | with_reducible exact rfl
    | with_reducible apply State.opVrd_keeps
    | with_reducible apply Keeps.ite
    | split
    | (intro s' hs'; try dsimp only)
    | dsimp only

theorem execLut_keeps {s₀ s t : State} {pu : BitVec 3} {p : Pred} {d : BitVec 6} {a : BitVec 6} {tab : BitVec 4} (e : execLut pu p d a tab s = .next t) (h₀ : Keeps s₀ s) : Keeps s₀ t := by
  obtain rfl := Host.Outcome.next.inj e
  clear e
  repeat' first
    | with_reducible assumption
    | with_reducible exact rfl
    | with_reducible apply State.sendFree_keeps
    | with_reducible apply State.sendSat_keeps
    | with_reducible apply State.inSlot_keeps
    | with_reducible apply Keeps.ite
    | split
    | (intro s' hs'; try dsimp only)
    | dsimp only

theorem execAdd_keeps {s₀ s t : State} {pu : BitVec 3} {p : Pred} {d : BitVec 6} {a : BitVec 6} {b : BitVec 6} (e : execAdd pu p d a b s = .next t) (h₀ : Keeps s₀ s) : Keeps s₀ t := by
  obtain rfl := Host.Outcome.next.inj e
  clear e
  repeat' first
    | with_reducible assumption
    | with_reducible exact rfl
    | with_reducible apply State.opArith_keeps
    | with_reducible apply Keeps.ite
    | split
    | (intro s' hs'; try dsimp only)
    | dsimp only

theorem execSub_keeps {s₀ s t : State} {pu : BitVec 3} {p : Pred} {d : BitVec 6} {a : BitVec 6} {b : BitVec 6} (e : execSub pu p d a b s = .next t) (h₀ : Keeps s₀ s) : Keeps s₀ t := by
  obtain rfl := Host.Outcome.next.inj e
  clear e
  repeat' first
    | with_reducible assumption
    | with_reducible exact rfl
    | with_reducible apply State.opArith_keeps
    | with_reducible apply Keeps.ite
    | split
    | (intro s' hs'; try dsimp only)
    | dsimp only

theorem execNeg_keeps {s₀ s t : State} {pu : BitVec 3} {p : Pred} {d : BitVec 6} {a : BitVec 6} (e : execNeg pu p d a s = .next t) (h₀ : Keeps s₀ s) : Keeps s₀ t := by
  obtain rfl := Host.Outcome.next.inj e
  clear e
  repeat' first
    | with_reducible assumption
    | with_reducible exact rfl
    | with_reducible apply State.opArith_keeps
    | with_reducible apply Keeps.ite
    | split
    | (intro s' hs'; try dsimp only)
    | dsimp only

theorem execAbs_keeps {s₀ s t : State} {pu : BitVec 3} {p : Pred} {d : BitVec 6} {a : BitVec 6} (e : execAbs pu p d a s = .next t) (h₀ : Keeps s₀ s) : Keeps s₀ t := by
  obtain rfl := Host.Outcome.next.inj e
  clear e
  repeat' first
    | with_reducible assumption
    | with_reducible exact rfl
    | with_reducible apply State.opArith_keeps
    | with_reducible apply Keeps.ite
    | split
    | (intro s' hs'; try dsimp only)
    | dsimp only

theorem execMin_keeps {s₀ s t : State} {pu : BitVec 3} {p : Pred} {d : BitVec 6} {a : BitVec 6} {b : BitVec 6} (e : execMin pu p d a b s = .next t) (h₀ : Keeps s₀ s) : Keeps s₀ t := by
  obtain rfl := Host.Outcome.next.inj e
  clear e
  repeat' first
    | with_reducible assumption
    | with_reducible exact rfl
    | with_reducible apply State.opMove_keeps
    | with_reducible apply Keeps.ite
    | split
    | (intro s' hs'; try dsimp only)
    | dsimp only

theorem execMax_keeps {s₀ s t : State} {pu : BitVec 3} {p : Pred} {d : BitVec 6} {a : BitVec 6} {b : BitVec 6} (e : execMax pu p d a b s = .next t) (h₀ : Keeps s₀ s) : Keeps s₀ t := by
  obtain rfl := Host.Outcome.next.inj e
  clear e
  repeat' first
    | with_reducible assumption
    | with_reducible exact rfl
    | with_reducible apply State.opMove_keeps
    | with_reducible apply Keeps.ite
    | split
    | (intro s' hs'; try dsimp only)
    | dsimp only

theorem execMulr_keeps {s₀ s t : State} {pu : BitVec 3} {p : Pred} {d : BitVec 6} {a : BitVec 6} {b : BitVec 6} (e : execMulr pu p d a b s = .next t) (h₀ : Keeps s₀ s) : Keeps s₀ t := by
  obtain rfl := Host.Outcome.next.inj e
  clear e
  repeat' first
    | with_reducible assumption
    | with_reducible exact rfl
    | with_reducible apply State.opArith_keeps
    | with_reducible apply Keeps.ite
    | split
    | (intro s' hs'; try dsimp only)
    | dsimp only

theorem execAsh_keeps {s₀ s t : State} {pu : BitVec 3} {p : Pred} {d : BitVec 6} {a : BitVec 6} {sh : BitVec 6} (e : execAsh pu p d a sh s = .next t) (h₀ : Keeps s₀ s) : Keeps s₀ t := by
  obtain rfl := Host.Outcome.next.inj e
  clear e
  repeat' first
    | with_reducible assumption
    | with_reducible exact rfl
    | with_reducible apply State.opArith_keeps
    | with_reducible apply Keeps.ite
    | split
    | (intro s' hs'; try dsimp only)
    | dsimp only

theorem execAnd_keeps {s₀ s t : State} {pu : BitVec 3} {p : Pred} {d : BitVec 6} {a : BitVec 6} {b : BitVec 6} (e : execAnd pu p d a b s = .next t) (h₀ : Keeps s₀ s) : Keeps s₀ t := by
  obtain rfl := Host.Outcome.next.inj e
  clear e
  repeat' first
    | with_reducible assumption
    | with_reducible exact rfl
    | with_reducible apply State.opMove_keeps
    | with_reducible apply Keeps.ite
    | split
    | (intro s' hs'; try dsimp only)
    | dsimp only

theorem execOr_keeps {s₀ s t : State} {pu : BitVec 3} {p : Pred} {d : BitVec 6} {a : BitVec 6} {b : BitVec 6} (e : execOr pu p d a b s = .next t) (h₀ : Keeps s₀ s) : Keeps s₀ t := by
  obtain rfl := Host.Outcome.next.inj e
  clear e
  repeat' first
    | with_reducible assumption
    | with_reducible exact rfl
    | with_reducible apply State.opMove_keeps
    | with_reducible apply Keeps.ite
    | split
    | (intro s' hs'; try dsimp only)
    | dsimp only

theorem execXor_keeps {s₀ s t : State} {pu : BitVec 3} {p : Pred} {d : BitVec 6} {a : BitVec 6} {b : BitVec 6} (e : execXor pu p d a b s = .next t) (h₀ : Keeps s₀ s) : Keeps s₀ t := by
  obtain rfl := Host.Outcome.next.inj e
  clear e
  repeat' first
    | with_reducible assumption
    | with_reducible exact rfl
    | with_reducible apply State.opMove_keeps
    | with_reducible apply Keeps.ite
    | split
    | (intro s' hs'; try dsimp only)
    | dsimp only

theorem execSel_keeps {s₀ s t : State} {pu : BitVec 3} {p : Pred} {d : BitVec 6} {a : BitVec 6} {b : BitVec 6} {pr : BitVec 3} {inv : Bool} (e : execSel pu p d a b pr inv s = .next t) (h₀ : Keeps s₀ s) : Keeps s₀ t := by
  obtain rfl := Host.Outcome.next.inj e
  clear e
  repeat' first
    | with_reducible assumption
    | with_reducible exact rfl
    | with_reducible apply State.opMove_keeps
    | with_reducible apply Keeps.ite
    | split
    | (intro s' hs'; try dsimp only)
    | dsimp only

theorem execCmp_keeps {s₀ s t : State} {pu : BitVec 3} {p : Pred} {pd : BitVec 3} {a : BitVec 6} {b : BitVec 6} {cond : BitVec 3} (e : execCmp pu p pd a b cond s = .next t) (h₀ : Keeps s₀ s) : Keeps s₀ t := by
  obtain rfl := Host.Outcome.next.inj e
  clear e
  repeat' first
    | with_reducible assumption
    | with_reducible exact rfl
    | with_reducible apply State.opPred_keeps
    | with_reducible apply Keeps.ite
    | split
    | (intro s' hs'; try dsimp only)
    | dsimp only

theorem execCmpi_keeps {s₀ s t : State} {pu : BitVec 3} {p : Pred} {pd : BitVec 3} {a : BitVec 6} {cond : BitVec 3} {imm : BitVec 32} (e : execCmpi pu p pd a cond imm s = .next t) (h₀ : Keeps s₀ s) : Keeps s₀ t := by
  obtain rfl := Host.Outcome.next.inj e
  clear e
  repeat' first
    | with_reducible assumption
    | with_reducible exact rfl
    | with_reducible apply State.opPred_keeps
    | with_reducible apply Keeps.ite
    | split
    | (intro s' hs'; try dsimp only)
    | dsimp only

theorem execPlog_keeps {s₀ s t : State} {pu : BitVec 3} {p : Pred} {pd : BitVec 3} {pa : BitVec 3} {pb : BitVec 3} {lop : BitVec 2} (e : execPlog pu p pd pa pb lop s = .next t) (h₀ : Keeps s₀ s) : Keeps s₀ t := by
  obtain rfl := Host.Outcome.next.inj e
  clear e
  repeat' first
    | with_reducible assumption
    | with_reducible exact rfl
    | with_reducible apply State.opPred_keeps
    | with_reducible apply Keeps.ite
    | split
    | (intro s' hs'; try dsimp only)
    | dsimp only

theorem execMac_keeps {s₀ s t : State} {pu : BitVec 3} {p : Pred} {acc : BitVec 2} {a : BitVec 6} {b : BitVec 6} (e : execMac pu p acc a b s = .next t) (h₀ : Keeps s₀ s) : Keeps s₀ t := by
  obtain rfl := Host.Outcome.next.inj e
  clear e
  repeat' first
    | with_reducible assumption
    | with_reducible exact rfl
    | with_reducible apply State.opAcc_keeps
    | with_reducible apply Keeps.ite
    | split
    | (intro s' hs'; try dsimp only)
    | dsimp only

theorem execMsu_keeps {s₀ s t : State} {pu : BitVec 3} {p : Pred} {acc : BitVec 2} {a : BitVec 6} {b : BitVec 6} (e : execMsu pu p acc a b s = .next t) (h₀ : Keeps s₀ s) : Keeps s₀ t := by
  obtain rfl := Host.Outcome.next.inj e
  clear e
  repeat' first
    | with_reducible assumption
    | with_reducible exact rfl
    | with_reducible apply State.opAcc_keeps
    | with_reducible apply Keeps.ite
    | split
    | (intro s' hs'; try dsimp only)
    | dsimp only

theorem execMacc_keeps {s₀ s t : State} {pu : BitVec 3} {p : Pred} {acc : BitVec 2} {a : BitVec 6} {idx : BitVec 12} (e : execMacc pu p acc a idx s = .next t) (h₀ : Keeps s₀ s) : Keeps s₀ t := by
  obtain rfl := Host.Outcome.next.inj e
  clear e
  repeat' first
    | with_reducible assumption
    | with_reducible exact rfl
    | with_reducible apply State.opMacc_keeps
    | with_reducible apply Keeps.ite
    | split
    | (intro s' hs'; try dsimp only)
    | dsimp only

theorem execMpy_keeps {s₀ s t : State} {pu : BitVec 3} {p : Pred} {acc : BitVec 2} {a : BitVec 6} {b : BitVec 6} (e : execMpy pu p acc a b s = .next t) (h₀ : Keeps s₀ s) : Keeps s₀ t := by
  obtain rfl := Host.Outcome.next.inj e
  clear e
  repeat' first
    | with_reducible assumption
    | with_reducible exact rfl
    | with_reducible apply State.opAcc_keeps
    | with_reducible apply Keeps.ite
    | split
    | (intro s' hs'; try dsimp only)
    | dsimp only

theorem execMpyc_keeps {s₀ s t : State} {pu : BitVec 3} {p : Pred} {acc : BitVec 2} {a : BitVec 6} {idx : BitVec 12} (e : execMpyc pu p acc a idx s = .next t) (h₀ : Keeps s₀ s) : Keeps s₀ t := by
  obtain rfl := Host.Outcome.next.inj e
  clear e
  repeat' first
    | with_reducible assumption
    | with_reducible exact rfl
    | with_reducible apply State.opMpyc_keeps
    | with_reducible apply Keeps.ite
    | split
    | (intro s' hs'; try dsimp only)
    | dsimp only

theorem execAccst_keeps {s₀ s t : State} {pu : BitVec 3} {p : Pred} {d : BitVec 6} {acc : BitVec 2} {clear : Bool} {sh : BitVec 5} (e : execAccst pu p d acc clear sh s = .next t) (h₀ : Keeps s₀ s) : Keeps s₀ t := by
  obtain rfl := Host.Outcome.next.inj e
  clear e
  repeat' first
    | with_reducible assumption
    | with_reducible exact rfl
    | with_reducible apply State.sendSat_keeps
    | with_reducible apply State.inSlot_keeps
    | with_reducible apply State.putPu_keeps
    | with_reducible apply Keeps.ite
    | split
    | (intro s' hs'; try dsimp only)
    | dsimp only

theorem execAccld_keeps {s₀ s t : State} {pu : BitVec 3} {p : Pred} {acc : BitVec 2} {a : BitVec 6} (e : execAccld pu p acc a s = .next t) (h₀ : Keeps s₀ s) : Keeps s₀ t := by
  obtain rfl := Host.Outcome.next.inj e
  clear e
  repeat' first
    | with_reducible assumption
    | with_reducible exact rfl
    | with_reducible apply State.opAcc_keeps
    | with_reducible apply Keeps.ite
    | split
    | (intro s' hs'; try dsimp only)
    | dsimp only

theorem execAccadd_keeps {s₀ s t : State} {pu : BitVec 3} {p : Pred} {acc : BitVec 2} {src : BitVec 2} (e : execAccadd pu p acc src s = .next t) (h₀ : Keeps s₀ s) : Keeps s₀ t := by
  obtain rfl := Host.Outcome.next.inj e
  clear e
  repeat' first
    | with_reducible assumption
    | with_reducible exact rfl
    | with_reducible apply State.opAcc_keeps
    | with_reducible apply Keeps.ite
    | split
    | (intro s' hs'; try dsimp only)
    | dsimp only

end Sys2Proof.Machine
end

