-- ==== Sys2Proof/Laws/KeepsStreams.lean ====
section
/-! SUPPORT. Laws/KeepsStreams.lean: what the operations of Machine/Streams.lean keep (Laws/Keeps.lean), one lemma each. -/

namespace Sys2Proof.Machine

theorem State.storeBlk_keeps {s₀ s : State} {e : Nat} {b : Blk} (h₀ : Keeps s₀ s) : Keeps s₀ (State.storeBlk s e b).1 := by
  unfold State.storeBlk
  repeat' first
    | with_reducible assumption
    | with_reducible exact rfl
    | with_reducible apply State.vatStores_keeps
    | with_reducible apply State.capture_keeps
    | (with_reducible apply State.vatStores_keeps_eq; with_reducible assumption)
    | with_reducible apply Keeps.ite
    | split
    | (intro s' hs'; try dsimp only)
    | dsimp only

theorem State.storeBlk_keeps_eq {s₀ s t : State} {y : Option Blk} {e : Nat} {b : Blk}  (e : State.storeBlk s e b  = (t, y)) (h₀ : Keeps s₀ s) : Keeps s₀ t :=
  Keeps.fst e (State.storeBlk_keeps h₀)

theorem State.nextBlock_keeps {s₀ s : State} {e : Nat} (h₀ : Keeps s₀ s) : Keeps s₀ (State.nextBlock s e) := by
  unfold State.nextBlock
  dsimp only
  repeat' first
    | with_reducible assumption
    | with_reducible exact rfl
    | with_reducible apply State.putStream_keeps
    | with_reducible apply State.bump_keeps
    | with_reducible apply Keeps.ite
    | split
    | (intro s' hs'; try dsimp only)
    | dsimp only

theorem State.drawStream_keeps {s₀ s : State} {e : Nat} (h₀ : Keeps s₀ s) : Keeps s₀ (State.drawStream s e).1 := by
  unfold State.drawStream
  dsimp only
  repeat' first
    | with_reducible assumption
    | with_reducible exact rfl
    | with_reducible apply State.nextBlock_keeps
    | with_reducible apply State.putStream_keeps
    | with_reducible apply State.readFrame_keeps
    | with_reducible apply State.take_keeps
    | (with_reducible apply State.readFrame_keeps_eq; with_reducible assumption)
    | with_reducible apply Keeps.ite
    | split
    | (intro s' hs'; try dsimp only)
    | dsimp only

theorem State.drawStream_keeps_eq {s₀ s t : State} {y : Frame} {e : Nat}  (e : State.drawStream s e  = (t, y)) (h₀ : Keeps s₀ s) : Keeps s₀ t :=
  Keeps.fst e (State.drawStream_keeps h₀)

theorem State.handStream_keeps {s₀ s : State} {e : Nat} {f : Frame} (h₀ : Keeps s₀ s) : Keeps s₀ (State.handStream s e f) := by
  unfold State.handStream
  dsimp only
  repeat' first
    | with_reducible assumption
    | with_reducible exact rfl
    | with_reducible apply State.writeFrame_keeps
    | with_reducible apply State.putStream_keeps
    | with_reducible apply State.decimate_keeps
    | with_reducible apply State.take_keeps
    | (with_reducible apply State.decimate_keeps_eq; with_reducible assumption)
    | with_reducible apply Keeps.ite
    | split
    | (intro s' hs'; try dsimp only)
    | dsimp only

theorem State.packetOf_keeps {s₀ s : State} {e : Nat} {k : TxPkt} (h₀ : Keeps s₀ s) : Keeps s₀ (State.packetOf s e k).1 := by
  unfold State.packetOf
  dsimp only
  repeat' first
    | with_reducible assumption
    | with_reducible exact rfl
    | with_reducible apply State.vatTouches_keeps
    | with_reducible apply State.capture_keeps
    | with_reducible apply State.bump_keeps
    | (with_reducible apply State.vatTouches_keeps_eq; with_reducible assumption)
    | with_reducible apply Keeps.ite
    | split
    | (intro s' hs'; try dsimp only)
    | dsimp only

theorem State.packetOf_keeps_eq {s₀ s t : State} {y : Option (List Byte)} {e : Nat} {k : TxPkt}  (e : State.packetOf s e k  = (t, y)) (h₀ : Keeps s₀ s) : Keeps s₀ t :=
  Keeps.fst e (State.packetOf_keeps h₀)

theorem State.flipStream_keeps {s₀ s : State} {e : Nat} (h₀ : Keeps s₀ s) : Keeps s₀ (State.flipStream s e) := by
  unfold State.flipStream
  dsimp only
  repeat' first
    | with_reducible assumption
    | with_reducible exact rfl
    | with_reducible apply State.putStream_keeps
    | with_reducible apply State.bump_keeps
    | with_reducible apply Keeps.ite
    | split
    | (intro s' hs'; try dsimp only)
    | dsimp only

end Sys2Proof.Machine
end

