-- ==== Sys2Proof/Laws/KeepsAudio.lean ====
section
/-! SUPPORT. Laws/KeepsAudio.lean: what the operations of Machine/Audio.lean keep (Laws/Keeps.lean), one lemma each. -/

namespace Sys2Proof.Machine

theorem State.putConv_keeps {s₀ s : State} {e : Nat} {v : ConvSt} (h₀ : Keeps s₀ s) : Keeps s₀ (State.putConv s e v) := by
  unfold State.putConv
  repeat' first
    | with_reducible assumption
    | with_reducible exact rfl
    | with_reducible apply State.setAudio_keeps
    | with_reducible apply Keeps.ite
    | split
    | (intro s' hs'; try dsimp only)
    | dsimp only

theorem State.putGain_keeps {s₀ s : State} {k : Nat} {v : GainSt} (h₀ : Keeps s₀ s) : Keeps s₀ (State.putGain s k v) := by
  unfold State.putGain
  repeat' first
    | with_reducible assumption
    | with_reducible exact rfl
    | with_reducible apply State.setAudio_keeps
    | with_reducible apply Keeps.ite
    | split
    | (intro s' hs'; try dsimp only)
    | dsimp only

theorem State.putHpf_keeps {s₀ s : State} {k : Nat} {v : HpfSt} (h₀ : Keeps s₀ s) : Keeps s₀ (State.putHpf s k v) := by
  unfold State.putHpf
  repeat' first
    | with_reducible assumption
    | with_reducible exact rfl
    | with_reducible apply State.setAudio_keeps
    | with_reducible apply Keeps.ite
    | split
    | (intro s' hs'; try dsimp only)
    | dsimp only

theorem State.putDrc_keeps {s₀ s : State} {i : Nat} {v : DrcSt} (h₀ : Keeps s₀ s) : Keeps s₀ (State.putDrc s i v) := by
  unfold State.putDrc
  repeat' first
    | with_reducible assumption
    | with_reducible exact rfl
    | with_reducible apply State.setAudio_keeps
    | with_reducible apply Keeps.ite
    | split
    | (intro s' hs'; try dsimp only)
    | dsimp only

theorem State.putMeter_keeps {s₀ s : State} {k : Nat} {v : MeterSt} (h₀ : Keeps s₀ s) : Keeps s₀ (State.putMeter s k v) := by
  unfold State.putMeter
  repeat' first
    | with_reducible assumption
    | with_reducible exact rfl
    | with_reducible apply State.setAudio_keeps
    | with_reducible apply Keeps.ite
    | split
    | (intro s' hs'; try dsimp only)
    | dsimp only

theorem State.decimate_keeps {s₀ s : State} {p : Nat} {bits : List Nat} (h₀ : Keeps s₀ s) : Keeps s₀ (State.decimate s p bits).1 := by
  unfold State.decimate
  dsimp only
  repeat' first
    | with_reducible assumption
    | with_reducible exact rfl
    | with_reducible apply State.putPort_keeps
    | with_reducible apply Keeps.ite
    | split
    | (intro s' hs'; try dsimp only)
    | dsimp only

theorem State.decimate_keeps_eq {s₀ s t : State} {y : Frame} {p : Nat} {bits : List Nat}  (e : State.decimate s p bits  = (t, y)) (h₀ : Keeps s₀ s) : Keeps s₀ t :=
  Keeps.fst e (State.decimate_keeps h₀)

theorem State.supply_keeps {s₀ s : State} {e : Nat} (h₀ : Keeps s₀ s) : Keeps s₀ (State.supply s e).1 := by
  unfold State.supply
  dsimp only
  repeat' first
    | with_reducible assumption
    | with_reducible exact rfl
    | with_reducible apply State.decimate_keeps
    | (with_reducible apply State.decimate_keeps_eq; with_reducible assumption)
    | with_reducible apply Keeps.ite
    | split
    | (intro s' hs'; try dsimp only)
    | dsimp only

theorem State.supply_keeps_eq {s₀ s t : State} {y : Frame} {e : Nat}  (e : State.supply s e  = (t, y)) (h₀ : Keeps s₀ s) : Keeps s₀ t :=
  Keeps.fst e (State.supply_keeps h₀)

theorem State.supplies_keeps {s₀ s : State} {e : Nat} {n0 : Nat} (h₀ : Keeps s₀ s) : Keeps s₀ (State.supplies s e n0).1 := by
  induction n0 generalizing s e  with
  | zero =>
    unfold State.supplies
    repeat' first
      | with_reducible assumption
      | with_reducible exact rfl
      | with_reducible apply State.supply_keeps
      | (with_reducible apply State.supply_keeps_eq; with_reducible assumption)
      | with_reducible apply Keeps.ite
      | split
      | (intro s' hs'; try dsimp only)
      | dsimp only
  | succ m ih =>
    unfold State.supplies
    repeat' first
      | with_reducible assumption
      | with_reducible exact rfl
      | with_reducible apply ih
      | with_reducible apply State.supply_keeps
      | (with_reducible apply State.supply_keeps_eq; with_reducible assumption)
      | with_reducible apply Keeps.ite
      | split
      | (intro s' hs'; try dsimp only)
      | dsimp only

theorem State.supplies_keeps_eq {s₀ s t : State} {y : List Frame} {e : Nat} {n0 : Nat} (e : State.supplies s e n0 = (t, y)) (h₀ : Keeps s₀ s) : Keeps s₀ t :=
  Keeps.fst e (State.supplies_keeps h₀)

theorem State.resampled_keeps {s₀ s : State} {e : Nat} {pos : Nat} {fs : List Frame} (h₀ : Keeps s₀ s) : Keeps s₀ (State.resampled s e pos fs).1 := by
  unfold State.resampled
  dsimp only
  repeat' first
    | with_reducible assumption
    | with_reducible exact rfl
    | with_reducible apply State.draw_keeps
    | (with_reducible apply State.draw_keeps_eq; with_reducible assumption)
    | with_reducible apply Keeps.ite
    | split
    | (intro s' hs'; try dsimp only)
    | dsimp only

theorem State.resampled_keeps_eq {s₀ s t : State} {y : Frame} {e : Nat} {pos : Nat} {fs : List Frame}  (e : State.resampled s e pos fs  = (t, y)) (h₀ : Keeps s₀ s) : Keeps s₀ t :=
  Keeps.fst e (State.resampled_keeps h₀)

theorem State.fifoPut_keeps {s₀ s : State} {e : Nat} {used : Nat} {f : Frame} (h₀ : Keeps s₀ s) : Keeps s₀ (State.fifoPut s e used f) := by
  unfold State.fifoPut
  dsimp only
  repeat' first
    | with_reducible assumption
    | with_reducible exact rfl
    | with_reducible apply State.putConv_keeps
    | with_reducible apply State.bump_keeps
    | with_reducible apply Keeps.ite
    | split
    | (intro s' hs'; try dsimp only)
    | dsimp only

theorem State.convPush_keeps {s₀ s : State} {e : Nat} {f : Frame} {cy : Nat} (h₀ : Keeps s₀ s) : Keeps s₀ (State.convPush s e f cy) := by
  unfold State.convPush
  dsimp only
  repeat' first
    | with_reducible assumption
    | with_reducible exact rfl
    | with_reducible apply State.putConv_keeps
    | with_reducible apply State.fifoPut_keeps
    | with_reducible apply Keeps.ite
    | split
    | (intro s' hs'; try dsimp only)
    | dsimp only

theorem State.convTake_keeps {s₀ s : State} {e : Nat} {f : Frame} (h₀ : Keeps s₀ s) : Keeps s₀ (State.convTake s e f) := by
  unfold State.convTake
  dsimp only
  repeat' first
    | with_reducible assumption
    | with_reducible exact rfl
    | with_reducible apply State.resampled_keeps
    | with_reducible apply State.putConv_keeps
    | with_reducible apply State.fifoPut_keeps
    | with_reducible refine Keeps.foldl _ (fun s x hs => ?_) ?_
    | with_reducible refine Keeps.foldl1 _ (fun s x hs => ?_) ?_
    | (with_reducible apply State.resampled_keeps_eq; with_reducible assumption)
    | with_reducible apply Keeps.ite
    | split
    | (intro s' hs'; try dsimp only)
    | dsimp only

theorem State.convShort_keeps {s₀ s : State} {e : Nat} {n : Nat} (h₀ : Keeps s₀ s) : Keeps s₀ (State.convShort s e n) := by
  unfold State.convShort
  repeat' first
    | with_reducible assumption
    | with_reducible exact rfl
    | with_reducible apply State.bumpBy_keeps
    | with_reducible apply Keeps.ite
    | split
    | (intro s' hs'; try dsimp only)
    | dsimp only

theorem State.convDraw_keeps {s₀ s : State} {e : Nat} (h₀ : Keeps s₀ s) : Keeps s₀ (State.convDraw s e).1 := by
  unfold State.convDraw
  dsimp only
  repeat' first
    | with_reducible assumption
    | with_reducible exact rfl
    | with_reducible apply State.convShort_keeps
    | with_reducible apply State.resampled_keeps
    | with_reducible apply State.supplies_keeps
    | with_reducible apply State.putConv_keeps
    | (with_reducible apply State.resampled_keeps_eq; with_reducible assumption)
    | (with_reducible apply State.supplies_keeps_eq; with_reducible assumption)
    | with_reducible apply Keeps.ite
    | split
    | (intro s' hs'; try dsimp only)
    | dsimp only

theorem State.convDraw_keeps_eq {s₀ s t : State} {y : Frame} {e : Nat}  (e : State.convDraw s e  = (t, y)) (h₀ : Keeps s₀ s) : Keeps s₀ t :=
  Keeps.fst e (State.convDraw_keeps h₀)

theorem State.convGive_keeps {s₀ s : State} {e : Nat} (h₀ : Keeps s₀ s) : Keeps s₀ (State.convGive s e).1 := by
  unfold State.convGive
  dsimp only
  repeat' first
    | with_reducible assumption
    | with_reducible exact rfl
    | with_reducible apply State.convShort_keeps
    | with_reducible apply State.putConv_keeps
    | with_reducible apply Keeps.ite
    | split
    | (intro s' hs'; try dsimp only)
    | dsimp only

theorem State.convGive_keeps_eq {s₀ s t : State} {y : Frame} {e : Nat}  (e : State.convGive s e  = (t, y)) (h₀ : Keeps s₀ s) : Keeps s₀ t :=
  Keeps.fst e (State.convGive_keeps h₀)

theorem State.convAge_keeps {s₀ s : State} {e : Nat} (h₀ : Keeps s₀ s) : Keeps s₀ (State.convAge s e) := by
  unfold State.convAge
  dsimp only
  repeat' first
    | with_reducible assumption
    | with_reducible exact rfl
    | with_reducible apply State.putConv_keeps
    | with_reducible apply Keeps.ite
    | split
    | (intro s' hs'; try dsimp only)
    | dsimp only

theorem State.convStart_keeps {s₀ s : State} {e : Nat} (h₀ : Keeps s₀ s) : Keeps s₀ (State.convStart s e) := by
  unfold State.convStart
  dsimp only
  repeat' first
    | with_reducible assumption
    | with_reducible exact rfl
    | with_reducible apply State.putConv_keeps
    | with_reducible apply Keeps.ite
    | split
    | (intro s' hs'; try dsimp only)
    | dsimp only

theorem State.convIdle_keeps {s₀ s : State} {e : Nat} (h₀ : Keeps s₀ s) : Keeps s₀ (State.convIdle s e) := by
  unfold State.convIdle
  repeat' first
    | with_reducible assumption
    | with_reducible exact rfl
    | with_reducible apply State.putConv_keeps
    | with_reducible apply Keeps.ite
    | split
    | (intro s' hs'; try dsimp only)
    | dsimp only

theorem State.convMode_keeps {s₀ s : State} {e : Nat} (h₀ : Keeps s₀ s) : Keeps s₀ (State.convMode s e) := by
  unfold State.convMode
  dsimp only
  repeat' first
    | with_reducible assumption
    | with_reducible exact rfl
    | with_reducible apply State.putConv_keeps
    | with_reducible apply Keeps.ite
    | split
    | (intro s' hs'; try dsimp only)
    | dsimp only

theorem State.convTrack_keeps {s₀ s : State} {e : Nat} (h₀ : Keeps s₀ s) : Keeps s₀ (State.convTrack s e) := by
  unfold State.convTrack
  dsimp only
  repeat' first
    | with_reducible assumption
    | with_reducible exact rfl
    | with_reducible apply State.putConv_keeps
    | with_reducible apply State.draw_keeps
    | with_reducible apply State.take_keeps
    | (with_reducible apply State.draw_keeps_eq; with_reducible assumption)
    | with_reducible apply Keeps.ite
    | split
    | (intro s' hs'; try dsimp only)
    | dsimp only

theorem State.convLock_keeps {s₀ s : State} {e : Nat} (h₀ : Keeps s₀ s) : Keeps s₀ (State.convLock s e) := by
  unfold State.convLock
  repeat' first
    | with_reducible assumption
    | with_reducible exact rfl
    | with_reducible apply State.putConv_keeps
    | with_reducible apply State.post0_keeps
    | with_reducible apply Keeps.ite
    | split
    | (intro s' hs'; try dsimp only)
    | dsimp only

theorem State.convUnlock_keeps {s₀ s : State} {e : Nat} (h₀ : Keeps s₀ s) : Keeps s₀ (State.convUnlock s e) := by
  unfold State.convUnlock
  dsimp only
  repeat' first
    | with_reducible assumption
    | with_reducible exact rfl
    | with_reducible apply State.putConv_keeps
    | with_reducible apply State.post0_keeps
    | with_reducible apply State.bump_keeps
    | with_reducible apply Keeps.ite
    | split
    | (intro s' hs'; try dsimp only)
    | dsimp only

theorem State.convTick_keeps {s₀ s : State} {e : Nat} (h₀ : Keeps s₀ s) : Keeps s₀ (State.convTick s e) := by
  unfold State.convTick
  repeat' first
    | with_reducible assumption
    | with_reducible exact rfl
    | with_reducible apply State.convUnlock_keeps
    | with_reducible apply State.convTrack_keeps
    | with_reducible apply State.convLock_keeps
    | with_reducible apply Keeps.ite
    | split
    | (intro s' hs'; try dsimp only)
    | dsimp only

theorem State.rampUp_keeps {s₀ s : State} {c : Nat} {p : Nat} (h₀ : Keeps s₀ s) : Keeps s₀ (State.rampUp s c p) := by
  unfold State.rampUp
  repeat' first
    | with_reducible assumption
    | with_reducible exact rfl
    | with_reducible apply State.putPort_keeps
    | with_reducible apply State.post0_keeps
    | with_reducible apply Keeps.ite
    | split
    | (intro s' hs'; try dsimp only)
    | dsimp only

theorem State.rampUpFrame_keeps {s₀ s : State} {c : Nat} {p : Nat} (h₀ : Keeps s₀ s) : Keeps s₀ (State.rampUpFrame s c p) := by
  unfold State.rampUpFrame
  dsimp only
  repeat' first
    | with_reducible assumption
    | with_reducible exact rfl
    | with_reducible apply State.putPort_keeps
    | with_reducible apply State.rampUp_keeps
    | with_reducible apply Keeps.ite
    | split
    | (intro s' hs'; try dsimp only)
    | dsimp only

theorem State.enterSettle_keeps {s₀ s : State} {c : Nat} {p : Nat} {t : BitVec 64} (h₀ : Keeps s₀ s) : Keeps s₀ (State.enterSettle s c p t) := by
  unfold State.enterSettle
  dsimp only
  repeat' first
    | with_reducible assumption
    | with_reducible exact rfl
    | with_reducible apply State.convStart_keeps
    | with_reducible apply State.putPort_keeps
    | with_reducible apply State.putConv_keeps
    | with_reducible refine Keeps.foldl _ (fun s x hs => ?_) ?_
    | with_reducible refine Keeps.foldl1 _ (fun s x hs => ?_) ?_
    | with_reducible apply Keeps.ite
    | split
    | (intro s' hs'; try dsimp only)
    | dsimp only

theorem State.settleDue_keeps {s₀ s : State} {c : Nat} {p : Nat} (h₀ : Keeps s₀ s) : Keeps s₀ (State.settleDue s c p) := by
  unfold State.settleDue
  repeat' first
    | with_reducible assumption
    | with_reducible exact rfl
    | with_reducible apply State.enterSettle_keeps
    | with_reducible apply Keeps.ite
    | split
    | (intro s' hs'; try dsimp only)
    | dsimp only

theorem State.rampDownFrame_keeps {s₀ s : State} {c : Nat} {p : Nat} (h₀ : Keeps s₀ s) : Keeps s₀ (State.rampDownFrame s c p) := by
  unfold State.rampDownFrame
  dsimp only
  repeat' first
    | with_reducible assumption
    | with_reducible exact rfl
    | with_reducible apply State.settleDue_keeps
    | with_reducible apply State.convIdle_keeps
    | with_reducible apply State.putPort_keeps
    | with_reducible refine Keeps.foldl _ (fun s x hs => ?_) ?_
    | with_reducible refine Keeps.foldl1 _ (fun s x hs => ?_) ?_
    | with_reducible apply Keeps.ite
    | split
    | (intro s' hs'; try dsimp only)
    | dsimp only

theorem State.portTick_keeps {s₀ s : State} {c : Nat} {p : Nat} (h₀ : Keeps s₀ s) : Keeps s₀ (State.portTick s c p) := by
  unfold State.portTick
  repeat' first
    | with_reducible assumption
    | with_reducible exact rfl
    | with_reducible apply State.rampDownFrame_keeps
    | with_reducible apply State.rampUpFrame_keeps
    | with_reducible apply State.rampUp_keeps
    | with_reducible apply Keeps.ite
    | split
    | (intro s' hs'; try dsimp only)
    | dsimp only

theorem State.hpf1_keeps {s₀ s : State} {e : Nat} {c : Nat} {x : Word} (h₀ : Keeps s₀ s) : Keeps s₀ (State.hpf1 s e c x).1 := by
  unfold State.hpf1
  dsimp only
  repeat' first
    | with_reducible assumption
    | with_reducible exact rfl
    | with_reducible apply State.putHpf_keeps
    | with_reducible apply Keeps.ite
    | split
    | (intro s' hs'; try dsimp only)
    | dsimp only

theorem State.hpf1_keeps_eq {s₀ s t : State} {y : Word} {e : Nat} {c : Nat} {x : Word}  (e : State.hpf1 s e c x  = (t, y)) (h₀ : Keeps s₀ s) : Keeps s₀ t :=
  Keeps.fst e (State.hpf1_keeps h₀)

theorem State.gainStep_keeps {s₀ s : State} {e : Nat} {c : Nat} (h₀ : Keeps s₀ s) : Keeps s₀ (State.gainStep s e c) := by
  unfold State.gainStep
  dsimp only
  repeat' first
    | with_reducible assumption
    | with_reducible exact rfl
    | with_reducible apply State.putGain_keeps
    | with_reducible apply Keeps.ite
    | split
    | (intro s' hs'; try dsimp only)
    | dsimp only

theorem State.gainCross_keeps {s₀ s : State} {e : Nat} {c : Nat} (h₀ : Keeps s₀ s) : Keeps s₀ (State.gainCross s e c) := by
  unfold State.gainCross
  dsimp only
  repeat' first
    | with_reducible assumption
    | with_reducible exact rfl
    | with_reducible apply State.gainStep_keeps
    | with_reducible apply State.putGain_keeps
    | with_reducible refine Keeps.foldl _ (fun s x hs => ?_) ?_
    | with_reducible refine Keeps.foldl1 _ (fun s x hs => ?_) ?_
    | with_reducible apply Keeps.ite
    | split
    | (intro s' hs'; try dsimp only)
    | dsimp only

theorem State.gainTimeout_keeps {s₀ s : State} {e : Nat} {c : Nat} (h₀ : Keeps s₀ s) : Keeps s₀ (State.gainTimeout s e c) := by
  unfold State.gainTimeout
  dsimp only
  repeat' first
    | with_reducible assumption
    | with_reducible exact rfl
    | with_reducible apply State.gainStep_keeps
    | with_reducible apply State.bump_keeps
    | with_reducible refine Keeps.foldl _ (fun s x hs => ?_) ?_
    | with_reducible refine Keeps.foldl1 _ (fun s x hs => ?_) ?_
    | with_reducible apply Keeps.ite
    | split
    | (intro s' hs'; try dsimp only)
    | dsimp only

theorem State.gainTick_keeps {s₀ s : State} {e : Nat} {c : Nat} {x : Word} (h₀ : Keeps s₀ s) : Keeps s₀ (State.gainTick s e c x) := by
  unfold State.gainTick
  dsimp only
  repeat' first
    | with_reducible assumption
    | with_reducible exact rfl
    | with_reducible apply State.gainTimeout_keeps
    | with_reducible apply State.gainCross_keeps
    | with_reducible apply State.putGain_keeps
    | with_reducible apply Keeps.ite
    | split
    | (intro s' hs'; try dsimp only)
    | dsimp only

theorem State.gainFrame_keeps {s₀ s : State} {e : Nat} {f : Frame} (h₀ : Keeps s₀ s) : Keeps s₀ (State.gainFrame s e f).1 := by
  unfold State.gainFrame
  dsimp only
  repeat' first
    | with_reducible assumption
    | with_reducible exact rfl
    | with_reducible apply State.applyGain_keeps
    | with_reducible apply State.gainTick_keeps
    | with_reducible refine Keeps.foldl _ (fun s x hs => ?_) ?_
    | with_reducible refine Keeps.foldl1 _ (fun s x hs => ?_) ?_
    | with_reducible apply Keeps.ite
    | split
    | (intro s' hs'; try dsimp only)
    | dsimp only

theorem State.gainFrame_keeps_eq {s₀ s t : State} {y : Frame} {e : Nat} {f : Frame}  (e : State.gainFrame s e f  = (t, y)) (h₀ : Keeps s₀ s) : Keeps s₀ t :=
  Keeps.fst e (State.gainFrame_keeps h₀)

theorem State.shapeIn_keeps {s₀ s : State} {e : Nat} {f : Frame} (h₀ : Keeps s₀ s) : Keeps s₀ (State.shapeIn s e f).1 := by
  unfold State.shapeIn
  dsimp only
  repeat' first
    | with_reducible assumption
    | with_reducible exact rfl
    | with_reducible apply State.gainFrame_keeps
    | with_reducible apply State.hpf1_keeps
    | with_reducible refine Keeps.foldl _ (fun s x hs => ?_) ?_
    | with_reducible refine Keeps.foldl1 _ (fun s x hs => ?_) ?_
    | (with_reducible apply State.gainFrame_keeps_eq; with_reducible assumption)
    | (with_reducible apply State.hpf1_keeps_eq; with_reducible assumption)
    | with_reducible apply Keeps.ite
    | split
    | (intro s' hs'; try dsimp only)
    | dsimp only

theorem State.shapeIn_keeps_eq {s₀ s t : State} {y : Frame} {e : Nat} {f : Frame}  (e : State.shapeIn s e f  = (t, y)) (h₀ : Keeps s₀ s) : Keeps s₀ t :=
  Keeps.fst e (State.shapeIn_keeps h₀)

theorem State.drcTick_keeps {s₀ s : State} {i : Nat} (h₀ : Keeps s₀ s) : Keeps s₀ (State.drcTick s i) := by
  unfold State.drcTick
  dsimp only
  repeat' first
    | with_reducible assumption
    | with_reducible exact rfl
    | with_reducible apply State.applyGain_keeps
    | with_reducible apply State.setAudio_keeps
    | with_reducible apply State.putDrc_keeps
    | with_reducible apply State.take_keeps
    | with_reducible refine Keeps.foldl _ (fun s x hs => ?_) ?_
    | with_reducible refine Keeps.foldl1 _ (fun s x hs => ?_) ?_
    | exact tableOk_tset _ _
    | with_reducible apply Keeps.ite
    | split
    | (intro s' hs'; try dsimp only)
    | dsimp only

theorem State.outRamp_keeps {s₀ s : State} {e : Nat} (h₀ : Keeps s₀ s) : Keeps s₀ (State.outRamp s e) := by
  unfold State.outRamp
  dsimp only
  repeat' first
    | with_reducible assumption
    | with_reducible exact rfl
    | with_reducible apply State.gainFrame_keeps
    | with_reducible apply State.setAudio_keeps
    | with_reducible refine Keeps.foldl _ (fun s x hs => ?_) ?_
    | with_reducible refine Keeps.foldl1 _ (fun s x hs => ?_) ?_
    | exact tableOk_tset _ _
    | (with_reducible apply State.gainFrame_keeps_eq; with_reducible assumption)
    | with_reducible apply Keeps.ite
    | split
    | (intro s' hs'; try dsimp only)
    | dsimp only

theorem State.noteOut_keeps {s₀ s : State} {e : Nat} {f : Frame} (h₀ : Keeps s₀ s) : Keeps s₀ (State.noteOut s e f) := by
  unfold State.noteOut
  repeat' first
    | with_reducible assumption
    | with_reducible exact rfl
    | with_reducible apply State.setAudio_keeps
    | with_reducible apply Keeps.ite
    | split
    | (intro s' hs'; try dsimp only)
    | dsimp only

theorem State.handPort_keeps {s₀ s : State} {e : Nat} (h₀ : Keeps s₀ s) : Keeps s₀ (State.handPort s e) := by
  unfold State.handPort
  dsimp only
  repeat' first
    | with_reducible assumption
    | with_reducible exact rfl
    | with_reducible apply State.convTake_keeps
    | with_reducible apply State.noteOut_keeps
    | with_reducible apply Keeps.ite
    | split
    | (intro s' hs'; try dsimp only)
    | dsimp only

theorem State.handRing_keeps {s₀ s : State} {g : Nat} (h₀ : Keeps s₀ s) : Keeps s₀ (State.handRing s g) := by
  unfold State.handRing
  dsimp only
  repeat' first
    | with_reducible assumption
    | with_reducible exact rfl
    | with_reducible apply State.writeFrame_keeps
    | with_reducible apply State.putHaudio_keeps
    | with_reducible apply State.noteOut_keeps
    | with_reducible apply Keeps.ite
    | split
    | (intro s' hs'; try dsimp only)
    | dsimp only

theorem State.handHerd_keeps {s₀ s : State} {e : Nat} (h₀ : Keeps s₀ s) : Keeps s₀ (State.handHerd s e) := by
  unfold State.handHerd
  dsimp only
  repeat' first
    | with_reducible assumption
    | with_reducible exact rfl
    | with_reducible apply State.handStream_keeps
    | with_reducible apply State.noteOut_keeps
    | with_reducible apply Keeps.ite
    | split
    | (intro s' hs'; try dsimp only)
    | dsimp only

theorem State.h1Out_keeps {s₀ s : State} (h₀ : Keeps s₀ s) : Keeps s₀ (State.h1Out s) := by
  unfold State.h1Out
  dsimp only
  repeat' first
    | with_reducible assumption
    | with_reducible exact rfl
    | with_reducible apply State.portTick_keeps
    | with_reducible apply State.convTick_keeps
    | with_reducible apply State.handPort_keeps
    | with_reducible apply State.handHerd_keeps
    | with_reducible apply State.handRing_keeps
    | with_reducible apply State.drcTick_keeps
    | with_reducible apply State.outRamp_keeps
    | with_reducible refine Keeps.foldl _ (fun s x hs => ?_) ?_
    | with_reducible refine Keeps.foldl1 _ (fun s x hs => ?_) ?_
    | with_reducible apply Keeps.ite
    | split
    | (intro s' hs'; try dsimp only)
    | dsimp only

theorem State.flipPlay_keeps {s₀ s : State} {g : Nat} (h₀ : Keeps s₀ s) : Keeps s₀ (State.flipPlay s g) := by
  unfold State.flipPlay
  dsimp only
  repeat' first
    | with_reducible assumption
    | with_reducible exact rfl
    | with_reducible apply State.putHaudio_keeps
    | with_reducible apply State.finish_keeps
    | with_reducible apply State.bump_keeps
    | with_reducible apply Keeps.ite
    | split
    | (intro s' hs'; try dsimp only)
    | dsimp only

theorem State.flipCapture_keeps {s₀ s : State} {g : Nat} (h₀ : Keeps s₀ s) : Keeps s₀ (State.flipCapture s g) := by
  unfold State.flipCapture
  dsimp only
  repeat' first
    | with_reducible assumption
    | with_reducible exact rfl
    | with_reducible apply State.putHaudio_keeps
    | with_reducible apply State.bump_keeps
    | with_reducible apply Keeps.ite
    | split
    | (intro s' hs'; try dsimp only)
    | dsimp only

theorem State.blockFlips_keeps {s₀ s : State} (h₀ : Keeps s₀ s) : Keeps s₀ (State.blockFlips s) := by
  unfold State.blockFlips
  dsimp only
  repeat' first
    | with_reducible assumption
    | with_reducible exact rfl
    | with_reducible apply State.flipCapture_keeps
    | with_reducible apply State.flipStream_keeps
    | with_reducible apply State.flipPlay_keeps
    | with_reducible refine Keeps.foldl _ (fun s x hs => ?_) ?_
    | with_reducible refine Keeps.foldl1 _ (fun s x hs => ?_) ?_
    | with_reducible apply Keeps.ite
    | split
    | (intro s' hs'; try dsimp only)
    | dsimp only

theorem State.inFrame_keeps {s₀ s : State} {e : Nat} (h₀ : Keeps s₀ s) : Keeps s₀ (State.inFrame s e).1 := by
  unfold State.inFrame
  dsimp only
  repeat' first
    | with_reducible assumption
    | with_reducible exact rfl
    | with_reducible apply State.drawStream_keeps
    | with_reducible apply State.putHaudio_keeps
    | with_reducible apply State.readFrame_keeps
    | with_reducible apply State.resampled_keeps
    | with_reducible apply State.convDraw_keeps
    | with_reducible apply State.putConv_keeps
    | with_reducible refine Keeps.foldl _ (fun s x hs => ?_) ?_
    | with_reducible refine Keeps.foldl1 _ (fun s x hs => ?_) ?_
    | (with_reducible apply State.drawStream_keeps_eq; with_reducible assumption)
    | (with_reducible apply State.readFrame_keeps_eq; with_reducible assumption)
    | (with_reducible apply State.resampled_keeps_eq; with_reducible assumption)
    | (with_reducible apply State.convDraw_keeps_eq; with_reducible assumption)
    | with_reducible apply Keeps.ite
    | split
    | (intro s' hs'; try dsimp only)
    | dsimp only

theorem State.inFrame_keeps_eq {s₀ s t : State} {y : Frame} {e : Nat}  (e : State.inFrame s e  = (t, y)) (h₀ : Keeps s₀ s) : Keeps s₀ t :=
  Keeps.fst e (State.inFrame_keeps h₀)

theorem State.idleGains_keeps {s₀ s : State} {live : List Nat} (h₀ : Keeps s₀ s) : Keeps s₀ (State.idleGains s live) := by
  unfold State.idleGains
  repeat' first
    | with_reducible assumption
    | with_reducible exact rfl
    | with_reducible apply State.gainTick_keeps
    | with_reducible refine Keeps.foldl _ (fun s x hs => ?_) ?_
    | with_reducible refine Keeps.foldl1 _ (fun s x hs => ?_) ?_
    | with_reducible apply Keeps.ite
    | split
    | (intro s' hs'; try dsimp only)
    | dsimp only

theorem State.h1In_keeps {s₀ s : State} (h₀ : Keeps s₀ s) : Keeps s₀ (State.h1In s) := by
  unfold State.h1In
  dsimp only
  repeat' first
    | with_reducible assumption
    | with_reducible exact rfl
    | with_reducible apply State.idleGains_keeps
    | with_reducible apply State.setAudio_keeps
    | with_reducible apply State.inFrame_keeps
    | with_reducible apply State.shapeIn_keeps
    | with_reducible apply State.convAge_keeps
    | with_reducible refine Keeps.foldl _ (fun s x hs => ?_) ?_
    | with_reducible refine Keeps.foldl1 _ (fun s x hs => ?_) ?_
    | exact tableOk_tset _ _
    | (with_reducible apply State.inFrame_keeps_eq; with_reducible assumption)
    | (with_reducible apply State.shapeIn_keeps_eq; with_reducible assumption)
    | with_reducible apply Keeps.ite
    | split
    | (intro s' hs'; try dsimp only)
    | dsimp only

theorem State.meterTake_keeps {s₀ s : State} {k : Nat} {x : Word} (h₀ : Keeps s₀ s) : Keeps s₀ (State.meterTake s k x) := by
  unfold State.meterTake
  dsimp only
  repeat' first
    | with_reducible assumption
    | with_reducible exact rfl
    | with_reducible apply State.putMeter_keeps
    | with_reducible apply Keeps.ite
    | split
    | (intro s' hs'; try dsimp only)
    | dsimp only

theorem State.h3_keeps {s₀ s : State} (h₀ : Keeps s₀ s) : Keeps s₀ (State.h3 s) := by
  unfold State.h3
  dsimp only
  repeat' first
    | with_reducible assumption
    | with_reducible exact rfl
    | with_reducible apply State.meterTake_keeps
    | with_reducible apply State.putMeter_keeps
    | with_reducible apply State.setAudio_keeps
    | with_reducible refine Keeps.foldl _ (fun s x hs => ?_) ?_
    | with_reducible refine Keeps.foldl1 _ (fun s x hs => ?_) ?_
    | with_reducible apply Keeps.ite
    | split
    | (intro s' hs'; try dsimp only)
    | dsimp only

theorem execMeterSnap_keeps {s₀ s t : State} {ring : Nat} (e : execMeterSnap ring s = .next t) (h₀ : Keeps s₀ s) : Keeps s₀ t := by
  obtain rfl := Host.Outcome.next.inj e
  clear e
  repeat' first
    | with_reducible assumption
    | with_reducible exact rfl
    | with_reducible apply State.dmaWrite_keeps
    | with_reducible apply State.putMeter_keeps
    | with_reducible apply State.finish_keeps
    | with_reducible refine Keeps.foldl _ (fun s x hs => ?_) ?_
    | with_reducible refine Keeps.foldl1 _ (fun s x hs => ?_) ?_
    | (with_reducible apply State.dmaWrite_keeps_eq; with_reducible assumption)
    | with_reducible apply Keeps.ite
    | split
    | (intro s' hs'; try dsimp only)
    | dsimp only

theorem execAsrcLock_keeps {s₀ s t : State} {ep : Nat} (e : execAsrcLock ep s = .next t) (h₀ : Keeps s₀ s) : Keeps s₀ t := by
  obtain rfl := Host.Outcome.next.inj e
  clear e
  repeat' first
    | with_reducible assumption
    | with_reducible exact rfl
    | with_reducible apply State.convLock_keeps
    | with_reducible apply Keeps.ite
    | split
    | (intro s' hs'; try dsimp only)
    | dsimp only

theorem execAsrcUnlock_keeps {s₀ s t : State} {ep : Nat} (e : execAsrcUnlock ep s = .next t) (h₀ : Keeps s₀ s) : Keeps s₀ t := by
  obtain rfl := Host.Outcome.next.inj e
  clear e
  repeat' first
    | with_reducible assumption
    | with_reducible exact rfl
    | with_reducible apply State.convUnlock_keeps
    | with_reducible apply Keeps.ite
    | split
    | (intro s' hs'; try dsimp only)
    | dsimp only

theorem execGainZcStep_keeps {s₀ s t : State} {ep : Nat} {ch : Nat} (e : execGainZcStep ep ch s = .next t) (h₀ : Keeps s₀ s) : Keeps s₀ t := by
  obtain rfl := Host.Outcome.next.inj e
  clear e
  repeat' first
    | with_reducible assumption
    | with_reducible exact rfl
    | with_reducible apply State.gainCross_keeps
    | with_reducible apply Keeps.ite
    | split
    | (intro s' hs'; try dsimp only)
    | dsimp only

theorem execZcTimeout_keeps {s₀ s t : State} {ep : Nat} {ch : Nat} (e : execZcTimeout ep ch s = .next t) (h₀ : Keeps s₀ s) : Keeps s₀ t := by
  obtain rfl := Host.Outcome.next.inj e
  clear e
  repeat' first
    | with_reducible assumption
    | with_reducible exact rfl
    | with_reducible apply State.gainTimeout_keeps
    | with_reducible apply Keeps.ite
    | split
    | (intro s' hs'; try dsimp only)
    | dsimp only

theorem execPeakHoldExpiry_keeps {s₀ s t : State} {meter : Nat} (e : execPeakHoldExpiry meter s = .next t) (h₀ : Keeps s₀ s) : Keeps s₀ t := by
  obtain rfl := Host.Outcome.next.inj e
  clear e
  repeat' first
    | with_reducible assumption
    | with_reducible exact rfl
    | with_reducible apply State.putMeter_keeps
    | with_reducible apply Keeps.ite
    | split
    | (intro s' hs'; try dsimp only)
    | dsimp only

end Sys2Proof.Machine
end

