-- ==== Sys2Proof/Laws/KeepsSeparator.lean ====
section
/-! SUPPORT. Laws/KeepsSeparator.lean: what the operations of Machine/Separator.lean keep (Laws/Keeps.lean), one lemma each. -/

namespace Sys2Proof.Machine

theorem State.stagePut_keeps {s₀ s : State} {a : Nat} {bs : List Byte} (h₀ : Keeps s₀ s) : Keeps s₀ (State.stagePut s a bs) := by
  unfold State.stagePut
  dsimp only
  repeat' first
    | with_reducible assumption
    | with_reducible exact rfl
    | with_reducible apply State.vatStoreWord_keeps
    | with_reducible refine Keeps.foldl _ (fun s x hs => ?_) ?_
    | with_reducible refine Keeps.foldl1 _ (fun s x hs => ?_) ?_
    | (with_reducible apply State.vatStoreWord_keeps_eq; with_reducible assumption)
    | with_reducible apply Keeps.ite
    | split
    | (intro s' hs'; try dsimp only)
    | dsimp only

theorem State.sepNote_keeps {s₀ s : State} {m : Nat} {e : Ecc} (h₀ : Keeps s₀ s) : Keeps s₀ (State.sepNote s m e) := by
  unfold State.sepNote
  dsimp only
  repeat' first
    | with_reducible assumption
    | with_reducible exact rfl
    | with_reducible apply State.putModel_keeps
    | with_reducible apply State.post0_keeps
    | with_reducible apply State.bump_keeps
    | with_reducible apply Keeps.ite
    | split
    | (intro s' hs'; try dsimp only)
    | dsimp only

theorem State.vatRead_keeps {s₀ s : State} {m : Nat} {a : Nat} {n : Nat} (h₀ : Keeps s₀ s) : Keeps s₀ (State.vatRead s m a n).1 := by
  unfold State.vatRead
  dsimp only
  repeat' first
    | with_reducible assumption
    | with_reducible exact rfl
    | with_reducible apply State.vatTouch_keeps
    | with_reducible apply State.sepNote_keeps
    | with_reducible refine Keeps.foldl _ (fun s x hs => ?_) ?_
    | with_reducible refine Keeps.foldl1 _ (fun s x hs => ?_) ?_
    | (with_reducible apply State.vatTouch_keeps_eq; with_reducible assumption)
    | with_reducible apply Keeps.ite
    | split
    | (intro s' hs'; try dsimp only)
    | dsimp only

theorem State.vatRead_keeps_eq {s₀ s t : State} {y : List Byte} {m : Nat} {a : Nat} {n : Nat}  (e : State.vatRead s m a n  = (t, y)) (h₀ : Keeps s₀ s) : Keeps s₀ t :=
  Keeps.fst e (State.vatRead_keeps h₀)

theorem State.stageInts_keeps {s₀ s : State} {m : Nat} {a : Nat} {n : Nat} (h₀ : Keeps s₀ s) : Keeps s₀ (State.stageInts s m a n).1 := by
  unfold State.stageInts
  dsimp only
  repeat' first
    | with_reducible assumption
    | with_reducible exact rfl
    | with_reducible apply State.vatRead_keeps
    | (with_reducible apply State.vatRead_keeps_eq; with_reducible assumption)
    | with_reducible apply Keeps.ite
    | split
    | (intro s' hs'; try dsimp only)
    | dsimp only

theorem State.stageInts_keeps_eq {s₀ s t : State} {y : List Int} {m : Nat} {a : Nat} {n : Nat}  (e : State.stageInts s m a n  = (t, y)) (h₀ : Keeps s₀ s) : Keeps s₀ t :=
  Keeps.fst e (State.stageInts_keeps h₀)

theorem State.putAccRow_keeps {s₀ s : State} {l : Layer} {r : Nat} {h : List Int} (h₀ : Keeps s₀ s) : Keeps s₀ (State.putAccRow s l r h) := by
  unfold State.putAccRow
  dsimp only
  repeat' first
    | with_reducible assumption
    | with_reducible exact rfl
    | with_reducible apply State.putTile_keeps
    | with_reducible refine Keeps.foldl _ (fun s x hs => ?_) ?_
    | with_reducible refine Keeps.foldl1 _ (fun s x hs => ?_) ?_
    | exact tableOk_tset _ _
    | with_reducible apply Keeps.ite
    | split
    | (intro s' hs'; try dsimp only)
    | dsimp only

theorem State.layerRow_keeps {s₀ s : State} {m : Nat} {k : Nat} {l : Layer} {err : SepErr} {st : StepRec} {r : Nat} (h₀ : Keeps s₀ s) : Keeps s₀ (State.layerRow s m k l err st r) := by
  unfold State.layerRow
  dsimp only
  repeat' first
    | with_reducible assumption
    | with_reducible exact rfl
    | with_reducible apply State.putAccRow_keeps
    | with_reducible apply State.putModel_keeps
    | with_reducible apply State.bumpBy_keeps
    | with_reducible apply Keeps.ite
    | split
    | (intro s' hs'; try dsimp only)
    | dsimp only

theorem State.readStep_keeps {s₀ s : State} {m : Nat} {d : ModelDesc} {k : Nat} {st : StepRec} (h₀ : Keeps s₀ s) : Keeps s₀ (State.readStep s m d k st) := by
  unfold State.readStep
  dsimp only
  repeat' first
    | with_reducible assumption
    | with_reducible exact rfl
    | with_reducible apply State.stageInts_keeps
    | with_reducible apply State.putModel_keeps
    | with_reducible apply State.bump_keeps
    | with_reducible refine Keeps.foldl _ (fun s x hs => ?_) ?_
    | with_reducible refine Keeps.foldl1 _ (fun s x hs => ?_) ?_
    | (with_reducible apply State.stageInts_keeps_eq; with_reducible assumption)
    | with_reducible apply Keeps.ite
    | split
    | (intro s' hs'; try dsimp only)
    | dsimp only

theorem State.writeStep_keeps {s₀ s : State} {m : Nat} {d : ModelDesc} {k : Nat} {st : StepRec} (h₀ : Keeps s₀ s) : Keeps s₀ (State.writeStep s m d k st) := by
  unfold State.writeStep
  repeat' first
    | with_reducible assumption
    | with_reducible exact rfl
    | with_reducible apply State.stagePut_keeps
    | with_reducible refine Keeps.foldl _ (fun s x hs => ?_) ?_
    | with_reducible refine Keeps.foldl1 _ (fun s x hs => ?_) ?_
    | with_reducible apply Keeps.ite
    | split
    | (intro s' hs'; try dsimp only)
    | dsimp only

theorem State.sepEcc_keeps {s₀ s : State} {m : Nat} {d : ModelDesc} {err : SepErr} (h₀ : Keeps s₀ s) : Keeps s₀ (State.sepEcc s m d err) := by
  unfold State.sepEcc
  dsimp only
  repeat' first
    | with_reducible assumption
    | with_reducible exact rfl
    | with_reducible apply State.sepNote_keeps
    | with_reducible apply State.upset_keeps
    | with_reducible refine Keeps.foldl _ (fun s x hs => ?_) ?_
    | with_reducible refine Keeps.foldl1 _ (fun s x hs => ?_) ?_
    | with_reducible apply Keeps.ite
    | split
    | (intro s' hs'; try dsimp only)
    | dsimp only

theorem State.modelBeat_keeps {s₀ s : State} {m : Nat} {d : ModelDesc} {err : SepErr} (h₀ : Keeps s₀ s) : Keeps s₀ (State.modelBeat s m d err) := by
  unfold State.modelBeat
  dsimp only
  repeat' first
    | with_reducible assumption
    | with_reducible exact rfl
    | with_reducible apply State.writeStep_keeps
    | with_reducible apply State.layerRow_keeps
    | with_reducible apply State.readStep_keeps
    | with_reducible apply State.putModel_keeps
    | with_reducible apply State.sepEcc_keeps
    | with_reducible refine Keeps.foldl _ (fun s x hs => ?_) ?_
    | with_reducible refine Keeps.foldl1 _ (fun s x hs => ?_) ?_
    | with_reducible apply Keeps.ite
    | split
    | (intro s' hs'; try dsimp only)
    | dsimp only

theorem State.groupBeat_keeps {s₀ s : State} {t : Nat} {err : SepErr} (h₀ : Keeps s₀ s) : Keeps s₀ (State.groupBeat s t err) := by
  unfold State.groupBeat
  dsimp only
  repeat' first
    | with_reducible assumption
    | with_reducible exact rfl
    | with_reducible apply State.modelBeat_keeps
    | with_reducible apply State.putModel_keeps
    | with_reducible apply State.putTile_keeps
    | with_reducible apply Keeps.ite
    | split
    | (intro s' hs'; try dsimp only)
    | dsimp only

theorem execSepBeat_keeps {s₀ s t : State} {tile : Nat} {err : SepErr} (e : execSepBeat tile err s = .next t) (h₀ : Keeps s₀ s) : Keeps s₀ t := by
  obtain rfl := Host.Outcome.next.inj e
  clear e
  repeat' first
    | with_reducible assumption
    | with_reducible exact rfl
    | with_reducible apply State.groupBeat_keeps
    | with_reducible apply Keeps.ite
    | split
    | (intro s' hs'; try dsimp only)
    | dsimp only

theorem State.tickBeats_keeps {s₀ s : State} {env : TickEnv} (h₀ : Keeps s₀ s) : Keeps s₀ (State.tickBeats s env) := by
  unfold State.tickBeats
  dsimp only
  repeat' first
    | with_reducible assumption
    | with_reducible exact rfl
    | with_reducible apply State.groupBeat_keeps
    | with_reducible refine Keeps.foldl _ (fun s x hs => ?_) ?_
    | with_reducible refine Keeps.foldl1 _ (fun s x hs => ?_) ?_
    | with_reducible apply Keeps.ite
    | split
    | (intro s' hs'; try dsimp only)
    | dsimp only

theorem State.cover_keeps {s₀ s : State} {m : Nat} {k : Nat} {c : Nat × Nat × Nat} (h₀ : Keeps s₀ s) : Keeps s₀ (State.cover s m k c) := by
  unfold State.cover
  dsimp only
  repeat' first
    | with_reducible assumption
    | with_reducible exact rfl
    | with_reducible apply State.putModel_keeps
    | with_reducible apply Keeps.ite
    | split
    | (intro s' hs'; try dsimp only)
    | dsimp only

theorem State.captureTap_keeps {s₀ s : State} {t : Tap} (h₀ : Keeps s₀ s) : Keeps s₀ (State.captureTap s t) := by
  unfold State.captureTap
  repeat' first
    | with_reducible assumption
    | with_reducible exact rfl
    | with_reducible apply State.stagePut_keeps
    | with_reducible apply State.cover_keeps
    | with_reducible apply Keeps.ite
    | split
    | (intro s' hs'; try dsimp only)
    | dsimp only

theorem State.captureMask_keeps {s₀ s : State} {m : Nat} {k : Nat} {x : MaskEnt} (h₀ : Keeps s₀ s) : Keeps s₀ (State.captureMask s m k x) := by
  unfold State.captureMask
  dsimp only
  repeat' first
    | with_reducible assumption
    | with_reducible exact rfl
    | with_reducible apply State.putModel_keeps
    | with_reducible apply Keeps.ite
    | split
    | (intro s' hs'; try dsimp only)
    | dsimp only

theorem State.capture0_keeps {s₀ s : State} (h₀ : Keeps s₀ s) : Keeps s₀ (State.capture0 s) := by
  unfold State.capture0
  dsimp only
  repeat' first
    | with_reducible assumption
    | with_reducible exact rfl
    | with_reducible apply State.captureMask_keeps
    | with_reducible apply State.captureTap_keeps
    | with_reducible refine Keeps.foldl _ (fun s x hs => ?_) ?_
    | with_reducible refine Keeps.foldl1 _ (fun s x hs => ?_) ?_
    | with_reducible apply Keeps.ite
    | split
    | (intro s' hs'; try dsimp only)
    | dsimp only

theorem State.publishTap_keeps {s₀ s : State} {t : Tap} {el : List Int} (h₀ : Keeps s₀ s) : Keeps s₀ (State.publishTap s t el) := by
  unfold State.publishTap
  dsimp only
  repeat' first
    | with_reducible assumption
    | with_reducible exact rfl
    | with_reducible apply State.setChurn_keeps
    | with_reducible refine Keeps.foldl _ (fun s x hs => ?_) ?_
    | with_reducible refine Keeps.foldl1 _ (fun s x hs => ?_) ?_
    | exact tableOk_tset _ _
    | with_reducible apply Keeps.ite
    | split
    | (intro s' hs'; try dsimp only)
    | dsimp only

theorem State.publishHold_keeps {s₀ s : State} {m : Nat} {hold : BitVec 16} (h₀ : Keeps s₀ s) : Keeps s₀ (State.publishHold s m hold) := by
  unfold State.publishHold
  repeat' first
    | with_reducible assumption
    | with_reducible exact rfl
    | with_reducible apply State.publishTap_keeps
    | with_reducible refine Keeps.foldl _ (fun s x hs => ?_) ?_
    | with_reducible refine Keeps.foldl1 _ (fun s x hs => ?_) ?_
    | with_reducible apply Keeps.ite
    | split
    | (intro s' hs'; try dsimp only)
    | dsimp only

theorem State.outRow_keeps {s₀ s : State} {m : Nat} {d : ModelDesc} {cur : List StepRec} {k : Nat} {r : Nat} (h₀ : Keeps s₀ s) : Keeps s₀ (State.outRow s m d cur k r).1 := by
  unfold State.outRow
  repeat' first
    | with_reducible assumption
    | with_reducible exact rfl
    | with_reducible apply State.stageInts_keeps
    | (with_reducible apply State.stageInts_keeps_eq; with_reducible assumption)
    | with_reducible apply Keeps.ite
    | split
    | (intro s' hs'; try dsimp only)
    | dsimp only

theorem State.outRow_keeps_eq {s₀ s t : State} {y : List Int} {m : Nat} {d : ModelDesc} {cur : List StepRec} {k : Nat} {r : Nat}  (e : State.outRow s m d cur k r  = (t, y)) (h₀ : Keeps s₀ s) : Keeps s₀ t :=
  Keeps.fst e (State.outRow_keeps h₀)

theorem State.publishTaps_keeps {s₀ s : State} {m : Nat} {d : ModelDesc} {cur : List StepRec} (h₀ : Keeps s₀ s) : Keeps s₀ (State.publishTaps s m d cur) := by
  unfold State.publishTaps
  dsimp only
  repeat' first
    | with_reducible assumption
    | with_reducible exact rfl
    | with_reducible apply State.publishTap_keeps
    | with_reducible apply State.outRow_keeps
    | with_reducible refine Keeps.foldl _ (fun s x hs => ?_) ?_
    | with_reducible refine Keeps.foldl1 _ (fun s x hs => ?_) ?_
    | (with_reducible apply State.outRow_keeps_eq; with_reducible assumption)
    | with_reducible apply Keeps.ite
    | split
    | (intro s' hs'; try dsimp only)
    | dsimp only

theorem State.resultBytes_keeps {s₀ s : State} {m : Nat} {d : ModelDesc} {cur : List StepRec} {hopTick : Nat} (h₀ : Keeps s₀ s) : Keeps s₀ (State.resultBytes s m d cur hopTick).1 := by
  unfold State.resultBytes
  dsimp only
  repeat' first
    | with_reducible assumption
    | with_reducible exact rfl
    | with_reducible apply State.outRow_keeps
    | with_reducible refine Keeps.foldl _ (fun s x hs => ?_) ?_
    | with_reducible refine Keeps.foldl1 _ (fun s x hs => ?_) ?_
    | (with_reducible apply State.outRow_keeps_eq; with_reducible assumption)
    | with_reducible apply Keeps.ite
    | split
    | (intro s' hs'; try dsimp only)
    | dsimp only

theorem State.resultBytes_keeps_eq {s₀ s t : State} {y : List Byte} {m : Nat} {d : ModelDesc} {cur : List StepRec} {hopTick : Nat}  (e : State.resultBytes s m d cur hopTick  = (t, y)) (h₀ : Keeps s₀ s) : Keeps s₀ t :=
  Keeps.fst e (State.resultBytes_keeps h₀)

theorem State.fillResult_keeps {s₀ s : State} {m : Nat} {d : ModelDesc} {cur : List StepRec} (h₀ : Keeps s₀ s) : Keeps s₀ (State.fillResult s m d cur) := by
  unfold State.fillResult
  dsimp only
  repeat' first
    | with_reducible assumption
    | with_reducible exact rfl
    | with_reducible apply State.resultBytes_keeps
    | with_reducible apply State.putModel_keeps
    | with_reducible apply State.bump_keeps
    | (with_reducible apply State.resultBytes_keeps_eq; with_reducible assumption)
    | with_reducible apply Keeps.ite
    | split
    | (intro s' hs'; try dsimp only)
    | dsimp only

theorem State.stopFills_keeps {s₀ s : State} {m : Nat} (h₀ : Keeps s₀ s) : Keeps s₀ (State.stopFills s m) := by
  unfold State.stopFills
  dsimp only
  repeat' first
    | with_reducible assumption
    | with_reducible exact rfl
    | with_reducible apply State.putModel_keeps
    | with_reducible apply State.finish_keeps
    | with_reducible refine Keeps.foldl _ (fun s x hs => ?_) ?_
    | with_reducible refine Keeps.foldl1 _ (fun s x hs => ?_) ?_
    | with_reducible apply Keeps.ite
    | split
    | (intro s' hs'; try dsimp only)
    | dsimp only

theorem State.copyStep_keeps {s₀ s : State} {m : Nat} {d : ModelDesc} {k : Nat} {g : Nat} {q : Req} {ok : Bool} (h₀ : Keeps s₀ s) : Keeps s₀ (State.copyStep s m d k g q ok) := by
  unfold State.copyStep
  dsimp only
  repeat' first
    | with_reducible assumption
    | with_reducible exact rfl
    | with_reducible apply State.putModel_keeps
    | with_reducible apply State.stagePut_keeps
    | with_reducible apply State.dmaRead_keeps
    | with_reducible apply State.finish_keeps
    | with_reducible refine Keeps.foldl _ (fun s x hs => ?_) ?_
    | with_reducible refine Keeps.foldl1 _ (fun s x hs => ?_) ?_
    | (with_reducible apply State.dmaRead_keeps_eq; with_reducible assumption)
    | with_reducible apply Keeps.ite
    | split
    | (intro s' hs'; try dsimp only)
    | dsimp only

theorem execSepStep_keeps {s₀ s t : State} {ring : Nat} {ok : Bool} (e : execSepStep ring ok s = .next t) (h₀ : Keeps s₀ s) : Keeps s₀ t := by
  obtain rfl := Host.Outcome.next.inj e
  clear e
  repeat' first
    | with_reducible assumption
    | with_reducible exact rfl
    | with_reducible apply State.copyStep_keeps
    | with_reducible apply Keeps.ite
    | split
    | (intro s' hs'; try dsimp only)
    | dsimp only

theorem execSepResult_keeps {s₀ s t : State} {ring : Nat} (e : execSepResult ring s = .next t) (h₀ : Keeps s₀ s) : Keeps s₀ t := by
  obtain rfl := Host.Outcome.next.inj e
  clear e
  repeat' first
    | with_reducible assumption
    | with_reducible exact rfl
    | with_reducible apply State.putModel_keeps
    | with_reducible apply State.finish_keeps
    | with_reducible apply State.take_keeps
    | with_reducible apply Keeps.ite
    | split
    | (intro s' hs'; try dsimp only)
    | dsimp only

theorem execSepResultWritten_keeps {s₀ s t : State} {model : Nat} {ok : Bool} (e : execSepResultWritten model ok s = .next t) (h₀ : Keeps s₀ s) : Keeps s₀ t := by
  obtain rfl := Host.Outcome.next.inj e
  clear e
  repeat' first
    | with_reducible assumption
    | with_reducible exact rfl
    | with_reducible apply State.finishWrite_keeps
    | with_reducible apply State.putModel_keeps
    | with_reducible apply State.finish_keeps
    | with_reducible apply Keeps.ite
    | split
    | (intro s' hs'; try dsimp only)
    | dsimp only

theorem State.flipOld_keeps {s₀ s : State} {m : Nat} (h₀ : Keeps s₀ s) : Keeps s₀ (State.flipOld s m) := by
  unfold State.flipOld
  dsimp only
  repeat' first
    | with_reducible assumption
    | with_reducible exact rfl
    | with_reducible apply State.publishTaps_keeps
    | with_reducible apply State.publishHold_keeps
    | with_reducible apply State.putModel_keeps
    | with_reducible apply State.finish_keeps
    | with_reducible apply State.bump_keeps
    | with_reducible refine Keeps.foldl _ (fun s x hs => ?_) ?_
    | with_reducible refine Keeps.foldl1 _ (fun s x hs => ?_) ?_
    | with_reducible apply Keeps.ite
    | split
    | (intro s' hs'; try dsimp only)
    | dsimp only

theorem State.flipModel_keeps {s₀ s : State} {m : Nat} (h₀ : Keeps s₀ s) : Keeps s₀ (State.flipModel s m) := by
  unfold State.flipModel
  dsimp only
  repeat' first
    | with_reducible assumption
    | with_reducible exact rfl
    | with_reducible apply State.publishTaps_keeps
    | with_reducible apply State.publishHold_keeps
    | with_reducible apply State.fillResult_keeps
    | with_reducible apply State.stopFills_keeps
    | with_reducible apply State.putModel_keeps
    | with_reducible apply State.flipOld_keeps
    | with_reducible apply State.bumpBy_keeps
    | with_reducible apply State.finish_keeps
    | with_reducible refine Keeps.foldl _ (fun s x hs => ?_) ?_
    | with_reducible refine Keeps.foldl1 _ (fun s x hs => ?_) ?_
    | with_reducible apply Keeps.ite
    | split
    | (intro s' hs'; try dsimp only)
    | dsimp only

theorem State.refill_keeps {s₀ s : State} {m : Nat} (h₀ : Keeps s₀ s) : Keeps s₀ (State.refill s m) := by
  unfold State.refill
  dsimp only
  repeat' first
    | with_reducible assumption
    | with_reducible exact rfl
    | with_reducible apply State.assignStep_keeps
    | with_reducible apply State.putModel_keeps
    | with_reducible refine Keeps.foldl _ (fun s x hs => ?_) ?_
    | with_reducible refine Keeps.foldl1 _ (fun s x hs => ?_) ?_
    | with_reducible apply Keeps.ite
    | split
    | (intro s' hs'; try dsimp only)
    | dsimp only

theorem State.stagingFlips_keeps {s₀ s : State} (h₀ : Keeps s₀ s) : Keeps s₀ (State.stagingFlips s) := by
  unfold State.stagingFlips
  dsimp only
  repeat' first
    | with_reducible assumption
    | with_reducible exact rfl
    | with_reducible apply State.flipModel_keeps
    | with_reducible apply State.setSep_keeps
    | with_reducible apply State.refill_keeps
    | with_reducible refine Keeps.foldl _ (fun s x hs => ?_) ?_
    | with_reducible refine Keeps.foldl1 _ (fun s x hs => ?_) ?_
    | with_reducible apply Keeps.ite
    | split
    | (intro s' hs'; try dsimp only)
    | dsimp only

end Sys2Proof.Machine
end

