-- ==== Sys2Proof/Laws/KeepsClocks.lean ====
section
/-! SUPPORT. Laws/KeepsClocks.lean: what the operations of Machine/Clocks.lean keep (Laws/Keeps.lean), one lemma each. -/

namespace Sys2Proof.Machine

theorem State.putSrc_keeps {s₀ s : State} {k : Nat} {v : SrcSt} (h₀ : Keeps s₀ s) : Keeps s₀ (State.putSrc s k v) := by
  unfold State.putSrc
  repeat' first
    | with_reducible assumption
    | with_reducible exact rfl
    | with_reducible apply State.setClk_keeps
    | with_reducible apply Keeps.ite
    | split
    | (intro s' hs'; try dsimp only)
    | dsimp only

theorem State.toHoldover_keeps {s₀ s : State} (h₀ : Keeps s₀ s) : Keeps s₀ (State.toHoldover s) := by
  unfold State.toHoldover
  repeat' first
    | with_reducible assumption
    | with_reducible exact rfl
    | with_reducible apply State.setClk_keeps
    | with_reducible apply State.post0_keeps
    | with_reducible apply Keeps.ite
    | split
    | (intro s' hs'; try dsimp only)
    | dsimp only

theorem State.takeSrc_keeps {s₀ s : State} {k : Nat} (h₀ : Keeps s₀ s) : Keeps s₀ (State.takeSrc s k) := by
  unfold State.takeSrc
  repeat' first
    | with_reducible assumption
    | with_reducible exact rfl
    | with_reducible apply State.setClk_keeps
    | with_reducible apply State.post0_keeps
    | with_reducible apply Keeps.ite
    | split
    | (intro s' hs'; try dsimp only)
    | dsimp only

theorem State.h5Source_keeps {s₀ s : State} (h₀ : Keeps s₀ s) : Keeps s₀ (State.h5Source s) := by
  unfold State.h5Source
  dsimp only
  repeat' first
    | with_reducible assumption
    | with_reducible exact rfl
    | with_reducible apply State.toHoldover_keeps
    | with_reducible apply State.takeSrc_keeps
    | with_reducible apply State.setClk_keeps
    | with_reducible apply Keeps.ite
    | split
    | (intro s' hs'; try dsimp only)
    | dsimp only

theorem State.phaseTick_keeps {s₀ s : State} {pull : Int} {base : Int} (h₀ : Keeps s₀ s) : Keeps s₀ (State.phaseTick s pull base) := by
  unfold State.phaseTick
  dsimp only
  repeat' first
    | with_reducible assumption
    | with_reducible exact rfl
    | with_reducible apply State.setClk_keeps
    | with_reducible apply Keeps.ite
    | split
    | (intro s' hs'; try dsimp only)
    | dsimp only

theorem State.lockTick_keeps {s₀ s : State} (h₀ : Keeps s₀ s) : Keeps s₀ (State.lockTick s) := by
  unfold State.lockTick
  dsimp only
  repeat' first
    | with_reducible assumption
    | with_reducible exact rfl
    | with_reducible apply State.setClk_keeps
    | with_reducible apply Keeps.ite
    | split
    | (intro s' hs'; try dsimp only)
    | dsimp only

theorem State.slewTick_keeps {s₀ s : State} (h₀ : Keeps s₀ s) : Keeps s₀ (State.slewTick s) := by
  unfold State.slewTick
  dsimp only
  repeat' first
    | with_reducible assumption
    | with_reducible exact rfl
    | with_reducible apply State.phaseTick_keeps
    | with_reducible apply State.lockTick_keeps
    | with_reducible apply State.setClk_keeps
    | with_reducible apply State.post0_keeps
    | with_reducible apply Keeps.ite
    | split
    | (intro s' hs'; try dsimp only)
    | dsimp only

theorem State.clkTick_keeps {s₀ s : State} (h₀ : Keeps s₀ s) : Keeps s₀ (State.clkTick s) := by
  unfold State.clkTick
  dsimp only
  repeat' first
    | with_reducible assumption
    | with_reducible exact rfl
    | with_reducible apply State.setClk_keeps
    | with_reducible apply State.take_keeps
    | with_reducible apply Keeps.ite
    | split
    | (intro s' hs'; try dsimp only)
    | dsimp only

theorem State.clkOuts_keeps {s₀ s : State} (h₀ : Keeps s₀ s) : Keeps s₀ (State.clkOuts s) := by
  unfold State.clkOuts
  repeat' first
    | with_reducible assumption
    | with_reducible exact rfl
    | with_reducible apply State.setClk_keeps
    | with_reducible apply Keeps.ite
    | split
    | (intro s' hs'; try dsimp only)
    | dsimp only

theorem State.loseSrc_keeps {s₀ s : State} {k : Nat} (h₀ : Keeps s₀ s) : Keeps s₀ (State.loseSrc s k) := by
  unfold State.loseSrc
  dsimp only
  repeat' first
    | with_reducible assumption
    | with_reducible exact rfl
    | with_reducible apply State.putSrc_keeps
    | with_reducible apply State.setClk_keeps
    | with_reducible apply State.post0_keeps
    | with_reducible apply Keeps.ite
    | split
    | (intro s' hs'; try dsimp only)
    | dsimp only

theorem State.loseDisc_keeps {s₀ s : State} (h₀ : Keeps s₀ s) : Keeps s₀ (State.loseDisc s) := by
  unfold State.loseDisc
  dsimp only
  repeat' first
    | with_reducible assumption
    | with_reducible exact rfl
    | with_reducible apply State.setClk_keeps
    | with_reducible apply State.post0_keeps
    | with_reducible apply Keeps.ite
    | split
    | (intro s' hs'; try dsimp only)
    | dsimp only

theorem execRefMeasure_keeps {s₀ s t : State} {src : Nat} {ppb : Int} (e : execRefMeasure src ppb s = .next t) (h₀ : Keeps s₀ s) : Keeps s₀ t := by
  obtain rfl := Host.Outcome.next.inj e
  clear e
  repeat' first
    | with_reducible assumption
    | with_reducible exact rfl
    | with_reducible apply State.putSrc_keeps
    | with_reducible apply State.setClk_keeps
    | with_reducible apply State.post0_keeps
    | with_reducible apply Keeps.ite
    | split
    | (intro s' hs'; try dsimp only)
    | dsimp only

theorem execClkRefLost_keeps {s₀ s t : State} {src : Nat} (e : execClkRefLost src s = .next t) (h₀ : Keeps s₀ s) : Keeps s₀ t := by
  obtain rfl := Host.Outcome.next.inj e
  clear e
  repeat' first
    | with_reducible assumption
    | with_reducible exact rfl
    | with_reducible apply State.loseSrc_keeps
    | with_reducible apply Keeps.ite
    | split
    | (intro s' hs'; try dsimp only)
    | dsimp only

theorem execBuildOutCapture_keeps {s₀ s t : State} {phase : Int} (e : execBuildOutCapture phase s = .next t) (h₀ : Keeps s₀ s) : Keeps s₀ t := by
  obtain rfl := Host.Outcome.next.inj e
  clear e
  repeat' first
    | with_reducible assumption
    | with_reducible exact rfl
    | with_reducible apply State.setClk_keeps
    | with_reducible apply Keeps.ite
    | split
    | (intro s' hs'; try dsimp only)
    | dsimp only

theorem State.lockNow_keeps {s₀ s : State} (h₀ : Keeps s₀ s) : Keeps s₀ (State.lockNow s) := by
  unfold State.lockNow
  dsimp only
  repeat' first
    | with_reducible assumption
    | with_reducible exact rfl
    | with_reducible apply State.resumeHop_keeps
    | with_reducible apply State.setTime_keeps
    | with_reducible apply State.setClk_keeps
    | with_reducible apply State.post0_keeps
    | with_reducible apply Keeps.ite
    | exact Eq.refl _
    | split
    | (intro s' hs'; try dsimp only)
    | dsimp only

theorem execClkLock_keeps {s₀ s t : State}  (e : execClkLock s = .next t) (h₀ : Keeps s₀ s) : Keeps s₀ t := by
  obtain rfl := Host.Outcome.next.inj e
  clear e
  repeat' first
    | with_reducible assumption
    | with_reducible exact rfl
    | with_reducible apply State.lockNow_keeps
    | with_reducible apply Keeps.ite
    | split
    | (intro s' hs'; try dsimp only)
    | dsimp only

theorem execApllLockLoss_keeps {s₀ s t : State} {phaseNs : Int} (e : execApllLockLoss phaseNs s = .next t) (h₀ : Keeps s₀ s) : Keeps s₀ t := by
  obtain rfl := Host.Outcome.next.inj e
  clear e
  repeat' first
    | with_reducible assumption
    | with_reducible exact rfl
    | with_reducible apply State.setClk_keeps
    | with_reducible apply Keeps.ite
    | split
    | (intro s' hs'; try dsimp only)
    | dsimp only

theorem execRevertToPrimary_keeps {s₀ s t : State}  (e : execRevertToPrimary s = .next t) (h₀ : Keeps s₀ s) : Keeps s₀ t := by
  obtain rfl := Host.Outcome.next.inj e
  clear e
  repeat' first
    | with_reducible assumption
    | with_reducible exact rfl
    | with_reducible apply State.takeSrc_keeps
    | with_reducible apply Keeps.ite
    | split
    | (intro s' hs'; try dsimp only)
    | dsimp only

theorem execDiscLost_keeps {s₀ s t : State}  (e : execDiscLost s = .next t) (h₀ : Keeps s₀ s) : Keeps s₀ t := by
  obtain rfl := Host.Outcome.next.inj e
  clear e
  repeat' first
    | with_reducible assumption
    | with_reducible exact rfl
    | with_reducible apply State.loseDisc_keeps
    | with_reducible apply Keeps.ite
    | split
    | (intro s' hs'; try dsimp only)
    | dsimp only

theorem execXoFail_keeps {s₀ s t : State}  (e : execXoFail s = .next t) (h₀ : Keeps s₀ s) : Keeps s₀ t := by
  obtain rfl := Host.Outcome.next.inj e
  clear e
  repeat' first
    | with_reducible assumption
    | with_reducible exact rfl
    | with_reducible apply State.toHoldover_keeps
    | with_reducible apply State.setClk_keeps
    | with_reducible apply State.post0_keeps
    | with_reducible apply Keeps.ite
    | split
    | (intro s' hs'; try dsimp only)
    | dsimp only

theorem execXoRecover_keeps {s₀ s t : State}  (e : execXoRecover s = .next t) (h₀ : Keeps s₀ s) : Keeps s₀ t := by
  obtain rfl := Host.Outcome.next.inj e
  clear e
  repeat' first
    | with_reducible assumption
    | with_reducible exact rfl
    | with_reducible apply State.setClk_keeps
    | with_reducible apply Keeps.ite
    | split
    | (intro s' hs'; try dsimp only)
    | dsimp only

theorem State.sendVdd_keeps {s₀ s : State} {mv : Int} (h₀ : Keeps s₀ s) : Keeps s₀ (State.sendVdd s mv) := by
  unfold State.sendVdd
  dsimp only
  repeat' first
    | with_reducible assumption
    | with_reducible exact rfl
    | with_reducible apply State.setPwr_keeps
    | with_reducible apply Keeps.ite
    | split
    | (intro s' hs'; try dsimp only)
    | dsimp only

theorem State.commandVdd_keeps {s₀ s : State} {mv : Int} (h₀ : Keeps s₀ s) : Keeps s₀ (State.commandVdd s mv) := by
  unfold State.commandVdd
  repeat' first
    | with_reducible assumption
    | with_reducible exact rfl
    | with_reducible apply State.sendVdd_keeps
    | with_reducible apply Keeps.ite
    | split
    | (intro s' hs'; try dsimp only)
    | dsimp only

theorem State.lowerVdd_keeps {s₀ s : State} (h₀ : Keeps s₀ s) : Keeps s₀ (State.lowerVdd s) := by
  unfold State.lowerVdd
  repeat' first
    | with_reducible assumption
    | with_reducible exact rfl
    | with_reducible apply State.commandVdd_keeps
    | with_reducible apply Keeps.ite
    | split
    | (intro s' hs'; try dsimp only)
    | dsimp only

theorem State.beginOpp_keeps {s₀ s : State} {o : Nat} (h₀ : Keeps s₀ s) : Keeps s₀ (State.beginOpp s o) := by
  unfold State.beginOpp
  repeat' first
    | with_reducible assumption
    | with_reducible exact rfl
    | with_reducible apply State.lowerVdd_keeps
    | with_reducible apply State.setClk_keeps
    | with_reducible apply Keeps.ite
    | split
    | (intro s' hs'; try dsimp only)
    | dsimp only

theorem State.startOpp_keeps {s₀ s : State} {o : Nat} (h₀ : Keeps s₀ s) : Keeps s₀ (State.startOpp s o) := by
  unfold State.startOpp
  repeat' first
    | with_reducible assumption
    | with_reducible exact rfl
    | with_reducible apply State.beginOpp_keeps
    | with_reducible apply State.sendVdd_keeps
    | with_reducible apply State.setClk_keeps
    | with_reducible apply State.setPwr_keeps
    | with_reducible apply Keeps.ite
    | split
    | (intro s' hs'; try dsimp only)
    | dsimp only

theorem State.nextOpp_keeps {s₀ s : State} (h₀ : Keeps s₀ s) : Keeps s₀ (State.nextOpp s) := by
  unfold State.nextOpp
  repeat' first
    | with_reducible assumption
    | with_reducible exact rfl
    | with_reducible apply State.startOpp_keeps
    | with_reducible apply State.setClk_keeps
    | with_reducible apply Keeps.ite
    | split
    | (intro s' hs'; try dsimp only)
    | dsimp only

theorem execCpllLock_keeps {s₀ s t : State}  (e : execCpllLock s = .next t) (h₀ : Keeps s₀ s) : Keeps s₀ t := by
  obtain rfl := Host.Outcome.next.inj e
  clear e
  repeat' first
    | with_reducible assumption
    | with_reducible exact rfl
    | with_reducible apply State.lowerVdd_keeps
    | with_reducible apply State.nextOpp_keeps
    | with_reducible apply State.setClk_keeps
    | with_reducible apply Keeps.ite
    | split
    | (intro s' hs'; try dsimp only)
    | dsimp only

theorem State.oppFail_keeps {s₀ s : State} (h₀ : Keeps s₀ s) : Keeps s₀ (State.oppFail s) := by
  unfold State.oppFail
  repeat' first
    | with_reducible assumption
    | with_reducible exact rfl
    | with_reducible apply State.setClk_keeps
    | with_reducible apply State.post0_keeps
    | with_reducible apply Keeps.ite
    | split
    | (intro s' hs'; try dsimp only)
    | dsimp only

theorem execCpllFail_keeps {s₀ s t : State}  (e : execCpllFail s = .next t) (h₀ : Keeps s₀ s) : Keeps s₀ t := by
  obtain rfl := Host.Outcome.next.inj e
  clear e
  repeat' first
    | with_reducible assumption
    | with_reducible exact rfl
    | with_reducible apply State.oppFail_keeps
    | with_reducible apply State.nextOpp_keeps
    | with_reducible apply Keeps.ite
    | split
    | (intro s' hs'; try dsimp only)
    | dsimp only

end Sys2Proof.Machine
end

