-- ==== Sys2Proof/Laws/KeepsPorts.lean ====
section
/-! SUPPORT. Laws/KeepsPorts.lean: what the operations of Machine/Ports.lean keep (Laws/Keeps.lean), one lemma each. -/

namespace Sys2Proof.Machine

theorem State.portStart_keeps {s₀ s : State} {c : Nat} {p : Nat} {t : BitVec 64} (h₀ : Keeps s₀ s) : Keeps s₀ (State.portStart s c p t) := by
  unfold State.portStart
  dsimp only
  repeat' first
    | with_reducible assumption
    | with_reducible exact rfl
    | with_reducible apply State.enterSettle_keeps
    | with_reducible apply State.convIdle_keeps
    | with_reducible apply State.setAudio_keeps
    | with_reducible apply State.putPort_keeps
    | with_reducible refine Keeps.foldl _ (fun s x hs => ?_) ?_
    | with_reducible refine Keeps.foldl1 _ (fun s x hs => ?_) ?_
    | with_reducible apply Keeps.ite
    | split
    | (intro s' hs'; try dsimp only)
    | dsimp only

theorem State.portStop_keeps {s₀ s : State} {c : Nat} {p : Nat} (h₀ : Keeps s₀ s) : Keeps s₀ (State.portStop s c p) := by
  unfold State.portStop
  dsimp only
  repeat' first
    | with_reducible assumption
    | with_reducible exact rfl
    | with_reducible apply State.convIdle_keeps
    | with_reducible apply State.putPort_keeps
    | with_reducible refine Keeps.foldl _ (fun s x hs => ?_) ?_
    | with_reducible refine Keeps.foldl1 _ (fun s x hs => ?_) ?_
    | with_reducible apply Keeps.ite
    | split
    | (intro s' hs'; try dsimp only)
    | dsimp only

theorem State.rxFrame_keeps {s₀ s : State} {c : Nat} {p : Nat} {x : PinFrame} (h₀ : Keeps s₀ s) : Keeps s₀ (State.rxFrame s c p x).1 := by
  unfold State.rxFrame
  dsimp only
  repeat' first
    | with_reducible assumption
    | with_reducible exact rfl
    | with_reducible apply State.decimate_keeps
    | (with_reducible apply State.decimate_keeps_eq; with_reducible assumption)
    | with_reducible apply Keeps.ite
    | split
    | (intro s' hs'; try dsimp only)
    | dsimp only

theorem State.rxFrame_keeps_eq {s₀ s t : State} {y : Frame} {c : Nat} {p : Nat} {x : PinFrame}  (e : State.rxFrame s c p x  = (t, y)) (h₀ : Keeps s₀ s) : Keeps s₀ t :=
  Keeps.fst e (State.rxFrame_keeps h₀)

theorem State.noteBits_keeps {s₀ s : State} {p : Nat} {bits : List Nat} (h₀ : Keeps s₀ s) : Keeps s₀ (State.noteBits s p bits) := by
  unfold State.noteBits
  dsimp only
  repeat' first
    | with_reducible assumption
    | with_reducible exact rfl
    | with_reducible apply State.putPort_keeps
    | with_reducible refine Keeps.foldl _ (fun s x hs => ?_) ?_
    | with_reducible refine Keeps.foldl1 _ (fun s x hs => ?_) ?_
    | with_reducible apply Keeps.ite
    | split
    | (intro s' hs'; try dsimp only)
    | dsimp only

theorem State.txWords_keeps {s₀ s : State} {c : Nat} {p : Nat} {f : Frame} (h₀ : Keeps s₀ s) : Keeps s₀ (State.txWords s c p f).1 := by
  unfold State.txWords
  dsimp only
  repeat' first
    | with_reducible assumption
    | with_reducible exact rfl
    | with_reducible apply State.putPort_keeps
    | with_reducible apply Keeps.ite
    | split
    | (intro s' hs'; try dsimp only)
    | dsimp only

theorem State.txWords_keeps_eq {s₀ s t : State} {y : List (Option Word) × Nat} {c : Nat} {p : Nat} {f : Frame}  (e : State.txWords s c p f  = (t, y)) (h₀ : Keeps s₀ s) : Keeps s₀ t :=
  Keeps.fst e (State.txWords_keeps h₀)

theorem State.txDrive_keeps {s₀ s : State} {c : Nat} {p : Nat} {f : Frame} (h₀ : Keeps s₀ s) : Keeps s₀ (State.txDrive s c p f) := by
  unfold State.txDrive
  dsimp only
  repeat' first
    | with_reducible assumption
    | with_reducible exact rfl
    | with_reducible apply State.txWords_keeps
    | with_reducible apply State.putPort_keeps
    | with_reducible apply State.bumpBy_keeps
    | (with_reducible apply State.txWords_keeps_eq; with_reducible assumption)
    | with_reducible apply Keeps.ite
    | split
    | (intro s' hs'; try dsimp only)
    | dsimp only

theorem State.rxPush_keeps {s₀ s : State} {c : Nat} {p : Nat} {e : Nat} {f : Frame} {cy : Nat} (h₀ : Keeps s₀ s) : Keeps s₀ (State.rxPush s c p e f cy) := by
  unfold State.rxPush
  dsimp only
  repeat' first
    | with_reducible assumption
    | with_reducible exact rfl
    | with_reducible apply State.convPush_keeps
    | with_reducible apply State.putPort_keeps
    | with_reducible apply State.bumpBy_keeps
    | with_reducible refine Keeps.foldl _ (fun s x hs => ?_) ?_
    | with_reducible refine Keeps.foldl1 _ (fun s x hs => ?_) ?_
    | with_reducible apply Keeps.ite
    | split
    | (intro s' hs'; try dsimp only)
    | dsimp only

theorem State.txFetch_keeps {s₀ s : State} {c : Nat} {p : Nat} {e : Nat} (h₀ : Keeps s₀ s) : Keeps s₀ (State.txFetch s c p e) := by
  unfold State.txFetch
  dsimp only
  repeat' first
    | with_reducible assumption
    | with_reducible exact rfl
    | with_reducible apply State.convGive_keeps
    | with_reducible apply State.putPort_keeps
    | with_reducible apply State.bumpBy_keeps
    | (with_reducible apply State.convGive_keeps_eq; with_reducible assumption)
    | with_reducible apply Keeps.ite
    | split
    | (intro s' hs'; try dsimp only)
    | dsimp only

theorem State.txFrame_keeps {s₀ s : State} {c : Nat} {p : Nat} {e : Nat} (h₀ : Keeps s₀ s) : Keeps s₀ (State.txFrame s c p e) := by
  unfold State.txFrame
  dsimp only
  repeat' first
    | with_reducible assumption
    | with_reducible exact rfl
    | with_reducible apply State.txFetch_keeps
    | with_reducible apply State.txDrive_keeps
    | with_reducible apply State.putPort_keeps
    | with_reducible apply State.bumpBy_keeps
    | with_reducible apply Keeps.ite
    | split
    | (intro s' hs'; try dsimp only)
    | dsimp only

theorem State.exchange_keeps {s₀ s : State} {c : Nat} {p : Nat} {x : PinFrame} (h₀ : Keeps s₀ s) : Keeps s₀ (State.exchange s c p x) := by
  unfold State.exchange
  dsimp only
  repeat' first
    | with_reducible assumption
    | with_reducible exact rfl
    | with_reducible apply State.convStart_keeps
    | with_reducible apply State.putPort_keeps
    | with_reducible apply State.rxFrame_keeps
    | with_reducible apply State.txFrame_keeps
    | with_reducible apply State.rxPush_keeps
    | with_reducible refine Keeps.foldl _ (fun s x hs => ?_) ?_
    | with_reducible refine Keeps.foldl1 _ (fun s x hs => ?_) ?_
    | (with_reducible apply State.rxFrame_keeps_eq; with_reducible assumption)
    | with_reducible apply Keeps.ite
    | split
    | (intro s' hs'; try dsimp only)
    | dsimp only

theorem State.freePins_keeps {s₀ s : State} (h₀ : Keeps s₀ s) : Keeps s₀ (State.freePins s).1 := by
  unfold State.freePins
  dsimp only
  repeat' first
    | with_reducible assumption
    | with_reducible exact rfl
    | with_reducible apply State.draw_keeps
    | (with_reducible apply State.draw_keeps_eq; with_reducible assumption)
    | with_reducible apply Keeps.ite
    | split
    | (intro s' hs'; try dsimp only)
    | dsimp only

theorem State.freePins_keeps_eq {s₀ s t : State} {y : PinFrame}   (e : State.freePins s  = (t, y)) (h₀ : Keeps s₀ s) : Keeps s₀ t :=
  Keeps.fst e (State.freePins_keeps h₀)

theorem State.restFrames_keeps {s₀ s : State} {c : Nat} {p : Nat} {n0 : Nat} (h₀ : Keeps s₀ s) : Keeps s₀ (State.restFrames s c p n0) := by
  induction n0 generalizing s c p  with
  | zero =>
    unfold State.restFrames
    repeat' first
      | with_reducible assumption
      | with_reducible exact rfl
      | with_reducible apply State.freePins_keeps
      | with_reducible apply State.exchange_keeps
      | (with_reducible apply State.freePins_keeps_eq; with_reducible assumption)
      | with_reducible apply Keeps.ite
      | split
      | (intro s' hs'; try dsimp only)
      | dsimp only
  | succ m ih =>
    unfold State.restFrames
    repeat' first
      | with_reducible assumption
      | with_reducible exact rfl
      | with_reducible apply ih
      | with_reducible apply State.freePins_keeps
      | with_reducible apply State.exchange_keeps
      | (with_reducible apply State.freePins_keeps_eq; with_reducible assumption)
      | with_reducible apply Keeps.ite
      | split
      | (intro s' hs'; try dsimp only)
      | dsimp only

theorem State.masterFrames_keeps {s₀ s : State} (h₀ : Keeps s₀ s) : Keeps s₀ (State.masterFrames s) := by
  unfold State.masterFrames
  dsimp only
  repeat' first
    | with_reducible assumption
    | with_reducible exact rfl
    | with_reducible apply State.restFrames_keeps
    | with_reducible refine Keeps.foldl _ (fun s x hs => ?_) ?_
    | with_reducible refine Keeps.foldl1 _ (fun s x hs => ?_) ?_
    | with_reducible apply Keeps.ite
    | split
    | (intro s' hs'; try dsimp only)
    | dsimp only

theorem State.portsEnd_keeps {s₀ s : State} (h₀ : Keeps s₀ s) : Keeps s₀ (State.portsEnd s) := by
  unfold State.portsEnd
  repeat' first
    | with_reducible assumption
    | with_reducible exact rfl
    | with_reducible apply State.setPorts_keeps
    | with_reducible apply Keeps.ite
    | split
    | (intro s' hs'; try dsimp only)
    | dsimp only

theorem State.countFrame_keeps {s₀ s : State} {p : Nat} (h₀ : Keeps s₀ s) : Keeps s₀ (State.countFrame s p) := by
  unfold State.countFrame
  dsimp only
  repeat' first
    | with_reducible assumption
    | with_reducible exact rfl
    | with_reducible apply State.settleDue_keeps
    | with_reducible apply State.putPort_keeps
    | with_reducible apply Keeps.ite
    | split
    | (intro s' hs'; try dsimp only)
    | dsimp only

theorem State.portLoss_keeps {s₀ s : State} {c : Nat} {p : Nat} (h₀ : Keeps s₀ s) : Keeps s₀ (State.portLoss s c p) := by
  unfold State.portLoss
  dsimp only
  repeat' first
    | with_reducible assumption
    | with_reducible exact rfl
    | with_reducible apply State.convIdle_keeps
    | with_reducible apply State.loseSrc_keeps
    | with_reducible apply State.putPort_keeps
    | with_reducible apply State.putConv_keeps
    | with_reducible apply State.post0_keeps
    | with_reducible apply State.bump_keeps
    | with_reducible refine Keeps.foldl _ (fun s x hs => ?_) ?_
    | with_reducible refine Keeps.foldl1 _ (fun s x hs => ?_) ?_
    | with_reducible apply Keeps.ite
    | split
    | (intro s' hs'; try dsimp only)
    | dsimp only

theorem State.slipFrame_keeps {s₀ s : State} {p : Nat} {e : Nat} (h₀ : Keeps s₀ s) : Keeps s₀ (State.slipFrame s p e) := by
  unfold State.slipFrame
  dsimp only
  repeat' first
    | with_reducible assumption
    | with_reducible exact rfl
    | with_reducible apply State.txFetch_keeps
    | with_reducible apply State.putPort_keeps
    | with_reducible apply State.supply_keeps
    | with_reducible apply State.rxPush_keeps
    | with_reducible apply State.bump_keeps
    | (with_reducible apply State.supply_keeps_eq; with_reducible assumption)
    | with_reducible apply Keeps.ite
    | split
    | (intro s' hs'; try dsimp only)
    | dsimp only

theorem State.frameErr_keeps {s₀ s : State} {p : Nat} (h₀ : Keeps s₀ s) : Keeps s₀ (State.frameErr s p) := by
  unfold State.frameErr
  dsimp only
  repeat' first
    | with_reducible assumption
    | with_reducible exact rfl
    | with_reducible apply State.slipFrame_keeps
    | with_reducible apply State.portLoss_keeps
    | with_reducible apply State.putPort_keeps
    | with_reducible apply State.post0_keeps
    | with_reducible apply State.bump_keeps
    | with_reducible refine Keeps.foldl _ (fun s x hs => ?_) ?_
    | with_reducible refine Keeps.foldl1 _ (fun s x hs => ?_) ?_
    | with_reducible apply Keeps.ite
    | split
    | (intro s' hs'; try dsimp only)
    | dsimp only

theorem execPortFrame_keeps {s₀ s t : State} {port : PortId} {pins : PinFrame} (e : execPortFrame port pins s = .next t) (h₀ : Keeps s₀ s) : Keeps s₀ t := by
  obtain rfl := Host.Outcome.next.inj e
  clear e
  repeat' first
    | with_reducible assumption
    | with_reducible exact rfl
    | with_reducible apply State.countFrame_keeps
    | with_reducible apply State.noteBits_keeps
    | with_reducible apply State.exchange_keeps
    | with_reducible apply State.frameErr_keeps
    | with_reducible apply State.putPort_keeps
    | with_reducible apply Keeps.ite
    | split
    | (intro s' hs'; try dsimp only)
    | dsimp only

theorem execSettle_keeps {s₀ s t : State} {port : PortId} {periodCy : Nat} {highCy : Nat} (e : execSettle port periodCy highCy s = .next t) (h₀ : Keeps s₀ s) : Keeps s₀ t := by
  obtain rfl := Host.Outcome.next.inj e
  clear e
  repeat' first
    | with_reducible assumption
    | with_reducible exact rfl
    | with_reducible apply State.settleDue_keeps
    | with_reducible apply State.putPort_keeps
    | with_reducible apply State.take_keeps
    | with_reducible apply Keeps.ite
    | split
    | (intro s' hs'; try dsimp only)
    | dsimp only

theorem execPortClkLost_keeps {s₀ s t : State} {port : PortId} (e : execPortClkLost port s = .next t) (h₀ : Keeps s₀ s) : Keeps s₀ t := by
  obtain rfl := Host.Outcome.next.inj e
  clear e
  repeat' first
    | with_reducible assumption
    | with_reducible exact rfl
    | with_reducible apply State.portLoss_keeps
    | with_reducible apply Keeps.ite
    | split
    | (intro s' hs'; try dsimp only)
    | dsimp only

theorem execPortClkOk_keeps {s₀ s t : State} {port : PortId} (e : execPortClkOk port s = .next t) (h₀ : Keeps s₀ s) : Keeps s₀ t := by
  obtain rfl := Host.Outcome.next.inj e
  clear e
  repeat' first
    | with_reducible assumption
    | with_reducible exact rfl
    | with_reducible apply State.rampUp_keeps
    | with_reducible apply Keeps.ite
    | split
    | (intro s' hs'; try dsimp only)
    | dsimp only

theorem execRampUpEnd_keeps {s₀ s t : State} {port : PortId} (e : execRampUpEnd port s = .next t) (h₀ : Keeps s₀ s) : Keeps s₀ t := by
  obtain rfl := Host.Outcome.next.inj e
  clear e
  repeat' first
    | with_reducible assumption
    | with_reducible exact rfl
    | with_reducible apply State.rampUpFrame_keeps
    | with_reducible apply Keeps.ite
    | split
    | (intro s' hs'; try dsimp only)
    | dsimp only

theorem execRampDownEnd_keeps {s₀ s t : State} {port : PortId} (e : execRampDownEnd port s = .next t) (h₀ : Keeps s₀ s) : Keeps s₀ t := by
  obtain rfl := Host.Outcome.next.inj e
  clear e
  repeat' first
    | with_reducible assumption
    | with_reducible exact rfl
    | with_reducible apply State.rampDownFrame_keeps
    | with_reducible apply Keeps.ite
    | split
    | (intro s' hs'; try dsimp only)
    | dsimp only

theorem execPortFrameErr_keeps {s₀ s t : State} {port : PortId} (e : execPortFrameErr port s = .next t) (h₀ : Keeps s₀ s) : Keeps s₀ t := by
  obtain rfl := Host.Outcome.next.inj e
  clear e
  repeat' first
    | with_reducible assumption
    | with_reducible exact rfl
    | with_reducible apply State.frameErr_keeps
    | with_reducible apply Keeps.ite
    | split
    | (intro s' hs'; try dsimp only)
    | dsimp only

theorem execPdmStuck_keeps {s₀ s t : State} {port : PortId} {line : Nat} {odd : Bool} (e : execPdmStuck port line odd s = .next t) (h₀ : Keeps s₀ s) : Keeps s₀ t := by
  obtain rfl := Host.Outcome.next.inj e
  clear e
  repeat' first
    | with_reducible assumption
    | with_reducible exact rfl
    | with_reducible apply State.putPort_keeps
    | with_reducible apply State.post0_keeps
    | with_reducible apply State.bump_keeps
    | with_reducible apply Keeps.ite
    | split
    | (intro s' hs'; try dsimp only)
    | dsimp only

end Sys2Proof.Machine
end

