-- ==== Sys2Proof/Laws/KeepsProfile.lean ====
section
/-! SUPPORT. Laws/KeepsProfile.lean: what the operations of Machine/Profile.lean keep (Laws/Keeps.lean), one lemma each. -/

namespace Sys2Proof.Machine

theorem State.putQueue_keeps {s₀ s : State} {q : List Commit} (h₀ : Keeps s₀ s) : Keeps s₀ (State.putQueue s q) := by
  unfold State.putQueue
  repeat' first
    | with_reducible assumption
    | with_reducible exact rfl
    | with_reducible apply State.setCmt_keeps
    | with_reducible apply Keeps.ite
    | split
    | (intro s' hs'; try dsimp only)
    | dsimp only

theorem State.enterDev_keeps {s₀ s : State} {c : Commit} (h₀ : Keeps s₀ s) : Keeps s₀ (State.enterDev s c) := by
  unfold State.enterDev
  repeat' first
    | with_reducible assumption
    | with_reducible exact rfl
    | with_reducible apply State.putQueue_keeps
    | with_reducible apply State.setCmt_keeps
    | with_reducible apply Keeps.ite
    | split
    | (intro s' hs'; try dsimp only)
    | dsimp only

theorem State.raiseDev_keeps {s₀ s : State} {profile : Nat} {cause : Nat} (h₀ : Keeps s₀ s) : Keeps s₀ (State.raiseDev s profile cause) := by
  unfold State.raiseDev
  repeat' first
    | with_reducible assumption
    | with_reducible exact rfl
    | with_reducible apply State.enterDev_keeps
    | with_reducible apply Keeps.ite
    | split
    | (intro s' hs'; try dsimp only)
    | dsimp only

theorem State.requestProfile_keeps {s₀ s : State} {profile : Nat} (h₀ : Keeps s₀ s) : Keeps s₀ (State.requestProfile s profile) := by
  unfold State.requestProfile
  dsimp only
  repeat' first
    | with_reducible assumption
    | with_reducible exact rfl
    | with_reducible apply State.raiseDev_keeps
    | with_reducible apply Keeps.ite
    | split
    | (intro s' hs'; try dsimp only)
    | dsimp only

theorem State.mainsEvent_keeps {s₀ s : State} {lost : Bool} (h₀ : Keeps s₀ s) : Keeps s₀ (State.mainsEvent s lost) := by
  unfold State.mainsEvent
  repeat' first
    | with_reducible assumption
    | with_reducible exact rfl
    | with_reducible apply State.raiseDev_keeps
    | with_reducible apply Keeps.ite
    | split
    | (intro s' hs'; try dsimp only)
    | dsimp only

theorem State.putDom_keeps {s₀ s : State} {d : Nat} {v : DomState} (h₀ : Keeps s₀ s) : Keeps s₀ (State.putDom s d v) := by
  unfold State.putDom
  repeat' first
    | with_reducible assumption
    | with_reducible exact rfl
    | with_reducible apply State.setPwr_keeps
    | with_reducible apply Keeps.ite
    | split
    | (intro s' hs'; try dsimp only)
    | dsimp only

theorem State.refreshPol_keeps {s₀ s : State} (h₀ : Keeps s₀ s) : Keeps s₀ (State.refreshPol s) := by
  unfold State.refreshPol
  dsimp only
  repeat' first
    | with_reducible assumption
    | with_reducible exact rfl
    | with_reducible apply State.setPwr_keeps
    | with_reducible refine Keeps.foldl _ (fun s x hs => ?_) ?_
    | with_reducible refine Keeps.foldl1 _ (fun s x hs => ?_) ?_
    | exact tableOk_tset _ _
    | with_reducible apply Keeps.ite
    | split
    | (intro s' hs'; try dsimp only)
    | dsimp only

theorem State.wake_keeps {s₀ s : State} {cause : Nat} (h₀ : Keeps s₀ s) : Keeps s₀ (State.wake s cause) := by
  unfold State.wake
  dsimp only
  repeat' first
    | with_reducible assumption
    | with_reducible exact rfl
    | with_reducible apply State.refreshPol_keeps
    | with_reducible apply State.raiseDev_keeps
    | with_reducible apply State.setPwr_keeps
    | with_reducible apply State.putDom_keeps
    | with_reducible apply Keeps.ite
    | split
    | (intro s' hs'; try dsimp only)
    | dsimp only

end Sys2Proof.Machine
end

