-- ==== Sys2Proof/Laws/KeepsRings.lean ====
section
/-! SUPPORT. Laws/KeepsRings.lean: what the operations of Machine/Rings.lean keep (Laws/Keeps.lean), one lemma each. -/

namespace Sys2Proof.Machine

theorem State.dbFault_keeps {s₀ s : State} {f : Nat} (h₀ : Keeps s₀ s) : Keeps s₀ (State.dbFault s f) := by
  unfold State.dbFault
  repeat' first
    | with_reducible assumption
    | with_reducible exact rfl
    | with_reducible apply State.postOwn_keeps
    | with_reducible apply State.putFn_keeps
    | with_reducible apply Keeps.ite
    | split
    | (intro s' hs'; try dsimp only)
    | dsimp only

theorem State.readRecords_keeps {s₀ s : State} {env : SweepEnv} {n0 : List Nat} (h₀ : Keeps s₀ s) : Keeps s₀ (State.readRecords s env n0).1 := by
  induction n0 generalizing s env  with
  | nil =>
    unfold State.readRecords
    repeat' first
      | with_reducible assumption
      | with_reducible exact rfl
      | with_reducible apply State.dbFault_keeps
      | with_reducible apply State.dmaRead_keeps
      | (with_reducible apply State.dmaRead_keeps_eq; with_reducible assumption)
      | with_reducible apply Keeps.ite
      | split
      | (intro s' hs'; try dsimp only)
      | dsimp only
  | cons y m ih =>
    unfold State.readRecords
    repeat' first
      | with_reducible assumption
      | with_reducible exact rfl
      | with_reducible apply ih
      | (apply Keeps.fst; with_reducible assumption; with_reducible apply ih)
      | with_reducible apply State.dbFault_keeps
      | with_reducible apply State.dmaRead_keeps
      | (with_reducible apply State.dmaRead_keeps_eq; with_reducible assumption)
      | with_reducible apply Keeps.ite
      | split
      | (intro s' hs'; try dsimp only)
      | dsimp only

theorem State.readRecords_keeps_eq {s₀ s t : State} {y : List (Nat × List Byte)} {env : SweepEnv} {n0 : List Nat} (e : State.readRecords s env n0 = (t, y)) (h₀ : Keeps s₀ s) : Keeps s₀ t :=
  Keeps.fst e (State.readRecords_keeps h₀)

theorem State.takeHead_keeps {s₀ s : State} {g : Nat} {v : Nat} (h₀ : Keeps s₀ s) : Keeps s₀ (State.takeHead s g v) := by
  unfold State.takeHead
  dsimp only
  repeat' first
    | with_reducible assumption
    | with_reducible exact rfl
    | with_reducible apply State.ringError_keeps
    | with_reducible apply State.putRing_keeps
    | with_reducible apply Keeps.ite
    | split
    | (intro s' hs'; try dsimp only)
    | dsimp only

theorem State.takeRecord_keeps {s₀ s : State} {x : Nat × List Byte} (h₀ : Keeps s₀ s) : Keeps s₀ (State.takeRecord s x) := by
  unfold State.takeRecord
  repeat' first
    | with_reducible assumption
    | with_reducible exact rfl
    | with_reducible apply State.writeLost_keeps
    | with_reducible apply State.takeHead_keeps
    | with_reducible refine Keeps.foldl _ (fun s x hs => ?_) ?_
    | with_reducible refine Keeps.foldl1 _ (fun s x hs => ?_) ?_
    | with_reducible apply Keeps.ite
    | split
    | (intro s' hs'; try dsimp only)
    | dsimp only

theorem State.addReqs_keeps {s₀ s : State} {g : Nat} {ds : List (Desc × Option Outc)} (h₀ : Keeps s₀ s) : Keeps s₀ (State.addReqs s g ds) := by
  unfold State.addReqs
  dsimp only
  repeat' first
    | with_reducible assumption
    | with_reducible exact rfl
    | with_reducible apply State.putRing_keeps
    | with_reducible apply State.bumpBy_keeps
    | with_reducible apply Keeps.ite
    | split
    | (intro s' hs'; try dsimp only)
    | dsimp only

theorem State.fetchRun_keeps {s₀ s : State} {env : SweepEnv} {g : Nat} {n : Nat} (h₀ : Keeps s₀ s) : Keeps s₀ (State.fetchRun s env g n) := by
  unfold State.fetchRun
  dsimp only
  repeat' first
    | with_reducible assumption
    | with_reducible exact rfl
    | with_reducible apply State.dmaRead_keeps
    | with_reducible apply State.addReqs_keeps
    | (with_reducible apply State.dmaRead_keeps_eq; with_reducible assumption)
    | with_reducible apply Keeps.ite
    | split
    | (intro s' hs'; try dsimp only)
    | dsimp only

theorem State.fetchRing_keeps {s₀ s : State} {env : SweepEnv} {g : Nat} {tail : Nat} (h₀ : Keeps s₀ s) : Keeps s₀ (State.fetchRing s env g tail) := by
  unfold State.fetchRing
  dsimp only
  repeat' first
    | with_reducible assumption
    | with_reducible exact rfl
    | with_reducible apply State.fetchRun_keeps
    | with_reducible apply Keeps.ite
    | split
    | (intro s' hs'; try dsimp only)
    | dsimp only

theorem State.beginCommit_keeps {s₀ s : State} {g : Nat} {q : Req} (h₀ : Keeps s₀ s) : Keeps s₀ (State.beginCommit s g q) := by
  unfold State.beginCommit
  dsimp only
  repeat' first
    | with_reducible assumption
    | with_reducible exact rfl
    | with_reducible apply State.finish_keeps
    | with_reducible apply State.setCmt_keeps
    | with_reducible apply State.take_keeps
    | with_reducible apply Keeps.ite
    | split
    | (intro s' hs'; try dsimp only)
    | dsimp only

theorem State.dispatchReq_keeps {s₀ s : State} {g : Nat} {q : Req} (h₀ : Keeps s₀ s) : Keeps s₀ (State.dispatchReq s g q) := by
  unfold State.dispatchReq
  dsimp only
  repeat' first
    | with_reducible assumption
    | with_reducible exact rfl
    | with_reducible apply State.beginCommit_keeps
    | with_reducible apply State.assignStep_keeps
    | with_reducible apply State.putRing_keeps
    | with_reducible apply State.finish_keeps
    | with_reducible apply Keeps.ite
    | split
    | (intro s' hs'; try dsimp only)
    | dsimp only

theorem State.dispatchRing_keeps {s₀ s : State} {g : Nat} {n0 : Nat} (h₀ : Keeps s₀ s) : Keeps s₀ (State.dispatchRing s g n0) := by
  induction n0 generalizing s g  with
  | zero =>
    unfold State.dispatchRing
    repeat' first
      | with_reducible assumption
      | with_reducible exact rfl
      | with_reducible apply State.dispatchReq_keeps
      | with_reducible apply Keeps.ite
      | split
      | (intro s' hs'; try dsimp only)
      | dsimp only
  | succ m ih =>
    unfold State.dispatchRing
    repeat' first
      | with_reducible assumption
      | with_reducible exact rfl
      | with_reducible apply ih
      | with_reducible apply State.dispatchReq_keeps
      | with_reducible apply Keeps.ite
      | split
      | (intro s' hs'; try dsimp only)
      | dsimp only

theorem State.checkReq_keeps {s₀ s : State} {g : Nat} {id : Nat} (h₀ : Keeps s₀ s) : Keeps s₀ (State.checkReq s g id) := by
  unfold State.checkReq
  repeat' first
    | with_reducible assumption
    | with_reducible exact rfl
    | with_reducible apply State.finish_keeps
    | with_reducible apply Keeps.ite
    | split
    | (intro s' hs'; try dsimp only)
    | dsimp only

theorem State.checkRing_keeps {s₀ s : State} {g : Nat} {first : Nat} (h₀ : Keeps s₀ s) : Keeps s₀ (State.checkRing s g first) := by
  unfold State.checkRing
  dsimp only
  repeat' first
    | with_reducible assumption
    | with_reducible exact rfl
    | with_reducible apply State.dispatchRing_keeps
    | with_reducible apply State.flushRing_keeps
    | with_reducible apply State.checkReq_keeps
    | with_reducible refine Keeps.foldl _ (fun s x hs => ?_) ?_
    | with_reducible refine Keeps.foldl1 _ (fun s x hs => ?_) ?_
    | with_reducible apply Keeps.ite
    | split
    | (intro s' hs'; try dsimp only)
    | dsimp only

theorem State.sweepOnce_keeps {s₀ s : State} {env : SweepEnv} (h₀ : Keeps s₀ s) : Keeps s₀ (State.sweepOnce s env) := by
  unfold State.sweepOnce
  dsimp only
  repeat' first
    | with_reducible assumption
    | with_reducible exact rfl
    | with_reducible apply State.readRecords_keeps
    | with_reducible apply State.takeRecord_keeps
    | with_reducible apply State.tryEnable_keeps
    | with_reducible apply State.fetchRing_keeps
    | with_reducible apply State.checkRing_keeps
    | with_reducible apply State.setHost_keeps
    | with_reducible apply State.bump_keeps
    | with_reducible refine Keeps.foldl _ (fun s x hs => ?_) ?_
    | with_reducible refine Keeps.foldl1 _ (fun s x hs => ?_) ?_
    | (with_reducible apply State.readRecords_keeps_eq; with_reducible assumption)
    | with_reducible apply Keeps.ite
    | split
    | (intro s' hs'; try dsimp only)
    | dsimp only

theorem execSweep_keeps {s₀ s t : State} {env : SweepEnv} (e : execSweep env s = .next t) (h₀ : Keeps s₀ s) : Keeps s₀ t := by
  obtain rfl := Host.Outcome.next.inj e
  clear e
  repeat' first
    | with_reducible assumption
    | with_reducible exact rfl
    | with_reducible apply State.sweepOnce_keeps
    | with_reducible apply Keeps.ite
    | split
    | (intro s' hs'; try dsimp only)
    | dsimp only

theorem execFenceRelease_keeps {s₀ s t : State} {ring : Nat} (e : execFenceRelease ring s = .next t) (h₀ : Keeps s₀ s) : Keeps s₀ t := by
  obtain rfl := Host.Outcome.next.inj e
  clear e
  repeat' first
    | with_reducible assumption
    | with_reducible exact rfl
    | with_reducible apply State.dispatchRing_keeps
    | with_reducible apply Keeps.ite
    | split
    | (intro s' hs'; try dsimp only)
    | dsimp only

theorem State.plicSet_keeps {s₀ s : State} {src : Nat} (h₀ : Keeps s₀ s) : Keeps s₀ (State.plicSet s src) := by
  unfold State.plicSet
  repeat' first
    | with_reducible assumption
    | with_reducible exact rfl
    | with_reducible apply State.setCc_keeps
    | with_reducible apply Keeps.ite
    | split
    | (intro s' hs'; try dsimp only)
    | dsimp only

theorem State.sendVec_keeps {s₀ s : State} {f : Nat} {v : Nat} (h₀ : Keeps s₀ s) : Keeps s₀ (State.sendVec s f v) := by
  unfold State.sendVec
  dsimp only
  repeat' first
    | with_reducible assumption
    | with_reducible exact rfl
    | with_reducible apply State.setHostMem_keeps
    | with_reducible apply State.plicSet_keeps
    | with_reducible apply State.putVec_keeps
    | exact wf_memPut _ _
    | with_reducible apply Keeps.ite
    | split
    | (intro s' hs'; try dsimp only)
    | dsimp only

theorem execVectorMessage_keeps {s₀ s t : State} {fn : Nat} {vec : Nat} (e : execVectorMessage fn vec s = .next t) (h₀ : Keeps s₀ s) : Keeps s₀ t := by
  obtain rfl := Host.Outcome.next.inj e
  clear e
  repeat' first
    | with_reducible assumption
    | with_reducible exact rfl
    | with_reducible apply State.sendVec_keeps
    | with_reducible apply Keeps.ite
    | split
    | (intro s' hs'; try dsimp only)
    | dsimp only

theorem execNop_keeps {s₀ s t : State} {ring : Nat} (e : execNop ring s = .next t) (h₀ : Keeps s₀ s) : Keeps s₀ t := by
  obtain rfl := Host.Outcome.next.inj e
  clear e
  repeat' first
    | with_reducible assumption
    | with_reducible exact rfl
    | with_reducible apply State.finish_keeps
    | with_reducible apply Keeps.ite
    | split
    | (intro s' hs'; try dsimp only)
    | dsimp only

theorem execAudioIn_keeps {s₀ s t : State} {ring : Nat} (e : execAudioIn ring s = .next t) (h₀ : Keeps s₀ s) : Keeps s₀ t := by
  obtain rfl := Host.Outcome.next.inj e
  clear e
  repeat' first
    | with_reducible assumption
    | with_reducible exact rfl
    | with_reducible apply State.putHaudio_keeps
    | with_reducible apply State.take_keeps
    | with_reducible apply Keeps.ite
    | split
    | (intro s' hs'; try dsimp only)
    | dsimp only

theorem execAudioOut_keeps {s₀ s t : State} {ring : Nat} {ok : Bool} (e : execAudioOut ring ok s = .next t) (h₀ : Keeps s₀ s) : Keeps s₀ t := by
  obtain rfl := Host.Outcome.next.inj e
  clear e
  repeat' first
    | with_reducible assumption
    | with_reducible exact rfl
    | with_reducible apply State.stageWrite_keeps
    | with_reducible apply State.putHaudio_keeps
    | with_reducible apply State.dmaRead_keeps
    | with_reducible apply State.finish_keeps
    | with_reducible apply State.take_keeps
    | (with_reducible apply State.stageWrite_keeps_eq; with_reducible assumption)
    | (with_reducible apply State.dmaRead_keeps_eq; with_reducible assumption)
    | with_reducible apply Keeps.ite
    | split
    | (intro s' hs'; try dsimp only)
    | dsimp only

theorem execCaptureBlockWritten_keeps {s₀ s t : State} {ring : Nat} {ok : Bool} (e : execCaptureBlockWritten ring ok s = .next t) (h₀ : Keeps s₀ s) : Keeps s₀ t := by
  obtain rfl := Host.Outcome.next.inj e
  clear e
  repeat' first
    | with_reducible assumption
    | with_reducible exact rfl
    | with_reducible apply State.finishWrite_keeps
    | with_reducible apply State.putHaudio_keeps
    | with_reducible apply State.stageRead_keeps
    | with_reducible apply State.finish_keeps
    | (with_reducible apply State.stageRead_keeps_eq; with_reducible assumption)
    | with_reducible apply Keeps.ite
    | split
    | (intro s' hs'; try dsimp only)
    | dsimp only

theorem State.clearStats_keeps {s₀ s : State} {c : Nat} {i : Nat} {n : Nat} (h₀ : Keeps s₀ s) : Keeps s₀ (State.clearStats s c i n) := by
  unfold State.clearStats
  repeat' first
    | with_reducible assumption
    | with_reducible exact rfl
    | with_reducible apply State.setCnt_keeps
    | with_reducible refine Keeps.foldl _ (fun s x hs => ?_) ?_
    | with_reducible refine Keeps.foldl1 _ (fun s x hs => ?_) ?_
    | exact tableOk_tset _ _
    | with_reducible apply Keeps.ite
    | split
    | (intro s' hs'; try dsimp only)
    | dsimp only

theorem execStatsSnap_keeps {s₀ s t : State} {ring : Nat} (e : execStatsSnap ring s = .next t) (h₀ : Keeps s₀ s) : Keeps s₀ t := by
  obtain rfl := Host.Outcome.next.inj e
  clear e
  repeat' first
    | with_reducible assumption
    | with_reducible exact rfl
    | with_reducible apply State.clearStats_keeps
    | with_reducible apply State.dmaWrite_keeps
    | with_reducible apply State.finish_keeps
    | (with_reducible apply State.dmaWrite_keeps_eq; with_reducible assumption)
    | with_reducible apply Keeps.ite
    | split
    | (intro s' hs'; try dsimp only)
    | dsimp only

end Sys2Proof.Machine
end

