-- ==== Sys2Proof/Laws/KeepsFrames.lean ====
section
/-! SUPPORT. Laws/KeepsFrames.lean: what the operations of Machine/Frames.lean keep (Laws/Keeps.lean), one lemma each. -/

namespace Sys2Proof.Machine

theorem State.macBump_keeps {s₀ s : State} {c : Nat} {p : Nat} {k : MacCnt} (h₀ : Keeps s₀ s) : Keeps s₀ (State.macBump s c p k) := by
  unfold State.macBump
  repeat' first
    | with_reducible assumption
    | with_reducible exact rfl
    | with_reducible apply State.bump_keeps
    | with_reducible apply Keeps.ite
    | split
    | (intro s' hs'; try dsimp only)
    | dsimp only

theorem State.putNet_keeps {s₀ s : State} {p : Nat} {v : NetPort} (h₀ : Keeps s₀ s) : Keeps s₀ (State.putNet s p v) := by
  unfold State.putNet
  repeat' first
    | with_reducible assumption
    | with_reducible exact rfl
    | with_reducible apply State.setNet_keeps
    | with_reducible apply Keeps.ite
    | split
    | (intro s' hs'; try dsimp only)
    | dsimp only

theorem State.putHerd_keeps {s₀ s : State} {p : Nat} {v : HerdPort} (h₀ : Keeps s₀ s) : Keeps s₀ (State.putHerd s p v) := by
  unfold State.putHerd
  repeat' first
    | with_reducible assumption
    | with_reducible exact rfl
    | with_reducible apply State.setHerd_keeps
    | with_reducible apply Keeps.ite
    | split
    | (intro s' hs'; try dsimp only)
    | dsimp only

theorem State.putTx_keeps {s₀ s : State} {c : Nat} {p : Nat} {v : TxSide} (h₀ : Keeps s₀ s) : Keeps s₀ (State.putTx s c p v) := by
  unfold State.putTx
  repeat' first
    | with_reducible assumption
    | with_reducible exact rfl
    | with_reducible apply State.putHerd_keeps
    | with_reducible apply State.putNet_keeps
    | with_reducible apply Keeps.ite
    | split
    | (intro s' hs'; try dsimp only)
    | dsimp only

theorem State.boundary_keeps {s₀ s : State} {c : Nat} {p : Nat} (h₀ : Keeps s₀ s) : Keeps s₀ (State.boundary s c p) := by
  unfold State.boundary
  dsimp only
  repeat' first
    | with_reducible assumption
    | with_reducible exact rfl
    | with_reducible apply State.putNet_keeps
    | with_reducible apply State.bumpBy_keeps
    | with_reducible apply Keeps.ite
    | split
    | (intro s' hs'; try dsimp only)
    | dsimp only

theorem State.putRxBufs_keeps {s₀ s : State} {c : Nat} {p : Nat} {v : List RxBuf} (h₀ : Keeps s₀ s) : Keeps s₀ (State.putRxBufs s c p v) := by
  unfold State.putRxBufs
  repeat' first
    | with_reducible assumption
    | with_reducible exact rfl
    | with_reducible apply State.putHerd_keeps
    | with_reducible apply State.putNet_keeps
    | with_reducible apply Keeps.ite
    | split
    | (intro s' hs'; try dsimp only)
    | dsimp only

theorem State.countJudge_keeps {s₀ s : State} {c : Nat} {p : Nat} {j : Judge} (h₀ : Keeps s₀ s) : Keeps s₀ (State.countJudge s c p j) := by
  unfold State.countJudge
  dsimp only
  repeat' first
    | with_reducible assumption
    | with_reducible exact rfl
    | with_reducible apply State.macBump_keeps
    | with_reducible apply Keeps.ite
    | split
    | (intro s' hs'; try dsimp only)
    | dsimp only

theorem State.macStore_keeps {s₀ s : State} {c : Nat} {p : Nat} {a : Nat} {o : Nat} {bs : List Byte} (h₀ : Keeps s₀ s) : Keeps s₀ (State.macStore s c p a o bs).1 := by
  unfold State.macStore
  repeat' first
    | with_reducible assumption
    | with_reducible exact rfl
    | with_reducible apply State.vatStores_keeps
    | with_reducible apply State.capture_keeps
    | with_reducible apply State.take_keeps
    | (with_reducible apply State.vatStores_keeps_eq; with_reducible assumption)
    | with_reducible apply Keeps.ite
    | split
    | (intro s' hs'; try dsimp only)
    | dsimp only

theorem State.macStore_keeps_eq {s₀ s t : State} {y : Bool} {c : Nat} {p : Nat} {a : Nat} {o : Nat} {bs : List Byte}  (e : State.macStore s c p a o bs  = (t, y)) (h₀ : Keeps s₀ s) : Keeps s₀ t :=
  Keeps.fst e (State.macStore_keeps h₀)

theorem State.macLoad_keeps {s₀ s : State} {c : Nat} {p : Nat} {a : Nat} {o : Nat} {n : Nat} (h₀ : Keeps s₀ s) : Keeps s₀ (State.macLoad s c p a o n).1 := by
  unfold State.macLoad
  dsimp only
  repeat' first
    | with_reducible assumption
    | with_reducible exact rfl
    | with_reducible apply State.vatTouches_keeps
    | with_reducible apply State.capture_keeps
    | (with_reducible apply State.vatTouches_keeps_eq; with_reducible assumption)
    | with_reducible apply Keeps.ite
    | split
    | (intro s' hs'; try dsimp only)
    | dsimp only

theorem State.macLoad_keeps_eq {s₀ s t : State} {y : Option (List Byte × Bool)} {c : Nat} {p : Nat} {a : Nat} {o : Nat} {n : Nat}  (e : State.macLoad s c p a o n  = (t, y)) (h₀ : Keeps s₀ s) : Keeps s₀ t :=
  Keeps.fst e (State.macLoad_keeps h₀)

theorem State.putRxHeld_keeps {s₀ s : State} {c : Nat} {p : Nat} {v : List RxHeld} {o : Nat} (h₀ : Keeps s₀ s) : Keeps s₀ (State.putRxHeld s c p v o) := by
  unfold State.putRxHeld
  repeat' first
    | with_reducible assumption
    | with_reducible exact rfl
    | with_reducible apply State.putHerd_keeps
    | with_reducible apply State.putNet_keeps
    | with_reducible apply Keeps.ite
    | split
    | (intro s' hs'; try dsimp only)
    | dsimp only

theorem State.holdFrameRx_keeps {s₀ s : State} {c : Nat} {p : Nat} {f : Nat} {k : Nat} {fr : List Byte} {j : Judge} {frac : BitVec 32} (h₀ : Keeps s₀ s) : Keeps s₀ (State.holdFrameRx s c p f k fr j frac) := by
  unfold State.holdFrameRx
  dsimp only
  repeat' first
    | with_reducible assumption
    | with_reducible exact rfl
    | with_reducible apply State.putRxHeld_keeps
    | with_reducible apply State.macStore_keeps
    | with_reducible apply State.macBump_keeps
    | with_reducible apply State.take_keeps
    | (with_reducible apply State.macStore_keeps_eq; with_reducible assumption)
    | with_reducible apply Keeps.ite
    | split
    | (intro s' hs'; try dsimp only)
    | dsimp only

theorem State.rxHandOver_keeps {s₀ s : State} {c : Nat} {p : Nat} {h : RxHeld} {fr : List Byte} {bad : Bool} (h₀ : Keeps s₀ s) : Keeps s₀ (State.rxHandOver s c p h fr bad) := by
  unfold State.rxHandOver
  dsimp only
  repeat' first
    | with_reducible assumption
    | with_reducible exact rfl
    | with_reducible apply State.finishWrite_keeps
    | with_reducible apply State.putRxBufs_keeps
    | with_reducible apply State.dmaWrite_keeps
    | with_reducible apply State.macBump_keeps
    | with_reducible apply State.finish_keeps
    | (with_reducible apply State.dmaWrite_keeps_eq; with_reducible assumption)
    | with_reducible apply Keeps.ite
    | split
    | (intro s' hs'; try dsimp only)
    | dsimp only

theorem State.deliverHeld_keeps {s₀ s : State} {c : Nat} {p : Nat} {h : RxHeld} (h₀ : Keeps s₀ s) : Keeps s₀ (State.deliverHeld s c p h) := by
  unfold State.deliverHeld
  dsimp only
  repeat' first
    | with_reducible assumption
    | with_reducible exact rfl
    | with_reducible apply State.rxHandOver_keeps
    | with_reducible apply State.macLoad_keeps
    | with_reducible apply State.macBump_keeps
    | (with_reducible apply State.macLoad_keeps_eq; with_reducible assumption)
    | with_reducible apply Keeps.ite
    | split
    | (intro s' hs'; try dsimp only)
    | dsimp only

theorem State.deliverAll_keeps {s₀ s : State} {c : Nat} {p : Nat} (h₀ : Keeps s₀ s) : Keeps s₀ (State.deliverAll s c p) := by
  unfold State.deliverAll
  repeat' first
    | with_reducible assumption
    | with_reducible exact rfl
    | with_reducible apply State.deliverHeld_keeps
    | with_reducible apply State.putRxHeld_keeps
    | with_reducible refine Keeps.foldl _ (fun s x hs => ?_) ?_
    | with_reducible refine Keeps.foldl1 _ (fun s x hs => ?_) ?_
    | with_reducible apply Keeps.ite
    | split
    | (intro s' hs'; try dsimp only)
    | dsimp only

theorem State.sieve_keeps {s₀ s : State} {c : Nat} {p : Nat} {fr : List Byte} {j : Judge} (h₀ : Keeps s₀ s) : Keeps s₀ (State.sieve s c p fr j).1 := by
  unfold State.sieve
  repeat' first
    | with_reducible assumption
    | with_reducible exact rfl
    | with_reducible apply State.macBump_keeps
    | with_reducible apply Keeps.ite
    | split
    | (intro s' hs'; try dsimp only)
    | dsimp only

theorem State.sieve_keeps_eq {s₀ s t : State} {y : Option (Nat × Nat)} {c : Nat} {p : Nat} {fr : List Byte} {j : Judge}  (e : State.sieve s c p fr j  = (t, y)) (h₀ : Keeps s₀ s) : Keeps s₀ t :=
  Keeps.fst e (State.sieve_keeps h₀)

theorem State.enqueue_keeps {s₀ s : State} {c : Nat} {p : Nat} {q : Nat} {e : TxEnt} (h₀ : Keeps s₀ s) : Keeps s₀ (State.enqueue s c p q e) := by
  unfold State.enqueue
  dsimp only
  repeat' first
    | with_reducible assumption
    | with_reducible exact rfl
    | with_reducible apply State.putTx_keeps
    | with_reducible apply Keeps.ite
    | split
    | (intro s' hs'; try dsimp only)
    | dsimp only

theorem State.fetchFrame_keeps {s₀ s : State} {e : TxEnt} (h₀ : Keeps s₀ s) : Keeps s₀ (State.fetchFrame s e).1 := by
  unfold State.fetchFrame
  repeat' first
    | with_reducible assumption
    | with_reducible exact rfl
    | with_reducible apply State.dmaRead_keeps
    | (with_reducible apply State.dmaRead_keeps_eq; with_reducible assumption)
    | with_reducible apply Keeps.ite
    | split
    | (intro s' hs'; try dsimp only)
    | dsimp only

theorem State.fetchFrame_keeps_eq {s₀ s t : State} {y : Except Nat (List Byte)} {e : TxEnt}  (e : State.fetchFrame s e  = (t, y)) (h₀ : Keeps s₀ s) : Keeps s₀ t :=
  Keeps.fst e (State.fetchFrame_keeps h₀)

theorem State.startFrame_keeps {s₀ s : State} {c : Nat} {p : Nat} {q : Nat} {e : TxEnt} {b : List Byte} (h₀ : Keeps s₀ s) : Keeps s₀ (State.startFrame s c p q e b) := by
  unfold State.startFrame
  dsimp only
  repeat' first
    | with_reducible assumption
    | with_reducible exact rfl
    | with_reducible apply State.macStore_keeps
    | with_reducible apply State.finish_keeps
    | with_reducible apply State.putTx_keeps
    | (with_reducible apply State.macStore_keeps_eq; with_reducible assumption)
    | with_reducible apply Keeps.ite
    | split
    | (intro s' hs'; try dsimp only)
    | dsimp only

theorem State.endBroken_keeps {s₀ s : State} {c : Nat} {p : Nat} {e : TxEnt} (h₀ : Keeps s₀ s) : Keeps s₀ (State.endBroken s c p e) := by
  unfold State.endBroken
  dsimp only
  repeat' first
    | with_reducible assumption
    | with_reducible exact rfl
    | with_reducible apply State.boundary_keeps
    | with_reducible apply State.finish_keeps
    | with_reducible apply State.putTx_keeps
    | with_reducible apply Keeps.ite
    | split
    | (intro s' hs'; try dsimp only)
    | dsimp only

theorem State.lineEnd_keeps {s₀ s : State} {c : Nat} {p : Nat} (h₀ : Keeps s₀ s) : Keeps s₀ (State.lineEnd s c p).1 := by
  unfold State.lineEnd
  dsimp only
  repeat' first
    | with_reducible assumption
    | with_reducible exact rfl
    | with_reducible apply State.endBroken_keeps
    | with_reducible apply State.boundary_keeps
    | with_reducible apply State.macLoad_keeps
    | with_reducible apply State.putTx_keeps
    | with_reducible apply State.bump_keeps
    | (with_reducible apply State.macLoad_keeps_eq; with_reducible assumption)
    | with_reducible apply Keeps.ite
    | split
    | (intro s' hs'; try dsimp only)
    | dsimp only

theorem State.lineEnd_keeps_eq {s₀ s t : State} {y : Option (TxEnt × List Byte)} {c : Nat} {p : Nat}  (e : State.lineEnd s c p  = (t, y)) (h₀ : Keeps s₀ s) : Keeps s₀ t :=
  Keeps.fst e (State.lineEnd_keeps h₀)

theorem State.endUnsent_keeps {s₀ s : State} {c : Nat} {p : Nat} {e : TxEnt} (h₀ : Keeps s₀ s) : Keeps s₀ (State.endUnsent s c p e) := by
  unfold State.endUnsent
  repeat' first
    | with_reducible assumption
    | with_reducible exact rfl
    | with_reducible apply State.finishWrite_keeps
    | with_reducible apply State.putHerd_keeps
    | with_reducible apply State.finish_keeps
    | with_reducible apply Keeps.ite
    | split
    | (intro s' hs'; try dsimp only)
    | dsimp only

theorem State.collide_keeps {s₀ s : State} {c : Nat} {p : Nat} {late : Bool} (h₀ : Keeps s₀ s) : Keeps s₀ (State.collide s c p late) := by
  unfold State.collide
  dsimp only
  repeat' first
    | with_reducible assumption
    | with_reducible exact rfl
    | with_reducible apply State.endUnsent_keeps
    | with_reducible apply State.macBump_keeps
    | with_reducible apply State.putTx_keeps
    | with_reducible apply State.draw_keeps
    | (with_reducible apply State.draw_keeps_eq; with_reducible assumption)
    | with_reducible apply Keeps.ite
    | split
    | (intro s' hs'; try dsimp only)
    | dsimp only

theorem State.dropTraffic_keeps {s₀ s : State} {c : Nat} {p : Nat} {o : Outc} {posted : Bool} (h₀ : Keeps s₀ s) : Keeps s₀ (State.dropTraffic s c p o posted) := by
  unfold State.dropTraffic
  dsimp only
  repeat' first
    | with_reducible assumption
    | with_reducible exact rfl
    | with_reducible apply State.putRxBufs_keeps
    | with_reducible apply State.putRxHeld_keeps
    | with_reducible apply State.boundary_keeps
    | with_reducible apply State.finish_keeps
    | with_reducible apply State.putTx_keeps
    | with_reducible refine Keeps.foldl _ (fun s x hs => ?_) ?_
    | with_reducible refine Keeps.foldl1 _ (fun s x hs => ?_) ?_
    | with_reducible apply Keeps.ite
    | split
    | (intro s' hs'; try dsimp only)
    | dsimp only

theorem State.macFlr_keeps {s₀ s : State} {c : Nat} {p : Nat} {f : Nat} (h₀ : Keeps s₀ s) : Keeps s₀ (State.macFlr s c p f) := by
  unfold State.macFlr
  dsimp only
  repeat' first
    | with_reducible assumption
    | with_reducible exact rfl
    | with_reducible apply State.putRxBufs_keeps
    | with_reducible apply State.putRxHeld_keeps
    | with_reducible apply State.putTx_keeps
    | with_reducible apply Keeps.ite
    | split
    | (intro s' hs'; try dsimp only)
    | dsimp only

end Sys2Proof.Machine
end

