-- ==== Sys2Proof/Laws/KeepsNet.lean ====
section
/-! SUPPORT. Laws/KeepsNet.lean: what the operations of Machine/Net.lean keep (Laws/Keeps.lean), one lemma each. -/

namespace Sys2Proof.Machine

theorem State.netCut_keeps {s₀ s : State} {p : Nat} (h₀ : Keeps s₀ s) : Keeps s₀ (State.netCut s p) := by
  unfold State.netCut
  repeat' first
    | with_reducible assumption
    | with_reducible exact rfl
    | with_reducible apply State.dropTraffic_keeps
    | with_reducible apply Keeps.ite
    | split
    | (intro s' hs'; try dsimp only)
    | dsimp only

theorem State.netDown_keeps {s₀ s : State} {p : Nat} (h₀ : Keeps s₀ s) : Keeps s₀ (State.netDown s p) := by
  unfold State.netDown
  repeat' first
    | with_reducible assumption
    | with_reducible exact rfl
    | with_reducible apply State.putNet_keeps
    | with_reducible apply State.netCut_keeps
    | with_reducible apply Keeps.ite
    | split
    | (intro s' hs'; try dsimp only)
    | dsimp only

theorem State.linkRestart_keeps {s₀ s : State} {p : Nat} {adv : Nat} (h₀ : Keeps s₀ s) : Keeps s₀ (State.linkRestart s p adv) := by
  unfold State.linkRestart
  dsimp only
  repeat' first
    | with_reducible assumption
    | with_reducible exact rfl
    | with_reducible apply State.netDown_keeps
    | with_reducible apply State.putNet_keeps
    | with_reducible apply Keeps.ite
    | split
    | (intro s' hs'; try dsimp only)
    | dsimp only

theorem State.netStart_keeps {s₀ s : State} {p : Nat} (h₀ : Keeps s₀ s) : Keeps s₀ (State.netStart s p) := by
  unfold State.netStart
  dsimp only
  repeat' first
    | with_reducible assumption
    | with_reducible exact rfl
    | with_reducible apply State.linkRestart_keeps
    | with_reducible apply State.putNet_keeps
    | with_reducible apply Keeps.ite
    | split
    | (intro s' hs'; try dsimp only)
    | dsimp only

theorem State.netStop_keeps {s₀ s : State} {p : Nat} (h₀ : Keeps s₀ s) : Keeps s₀ (State.netStop s p) := by
  unfold State.netStop
  dsimp only
  repeat' first
    | with_reducible assumption
    | with_reducible exact rfl
    | with_reducible apply State.dropTraffic_keeps
    | with_reducible apply State.putNet_keeps
    | with_reducible apply Keeps.ite
    | split
    | (intro s' hs'; try dsimp only)
    | dsimp only

theorem State.linkUpAs_keeps {s₀ s : State} {p : Nat} {speed : Nat} {pause : Bool × Bool} (h₀ : Keeps s₀ s) : Keeps s₀ (State.linkUpAs s p speed pause) := by
  unfold State.linkUpAs
  dsimp only
  repeat' first
    | with_reducible assumption
    | with_reducible exact rfl
    | with_reducible apply State.putNet_keeps
    | with_reducible apply Keeps.ite
    | split
    | (intro s' hs'; try dsimp only)
    | dsimp only

theorem State.linkFell_keeps {s₀ s : State} {p : Nat} (h₀ : Keeps s₀ s) : Keeps s₀ (State.linkFell s p) := by
  unfold State.linkFell
  dsimp only
  repeat' first
    | with_reducible assumption
    | with_reducible exact rfl
    | with_reducible apply State.netDown_keeps
    | with_reducible apply State.putNet_keeps
    | with_reducible apply Keeps.ite
    | split
    | (intro s' hs'; try dsimp only)
    | dsimp only

theorem execLinkPoll_keeps {s₀ s t : State} {port : Nat} {reg1 : BitVec 16} {reg5 : BitVec 16} {reg10 : BitVec 16} (e : execLinkPoll port reg1 reg5 reg10 s = .next t) (h₀ : Keeps s₀ s) : Keeps s₀ t := by
  obtain rfl := Host.Outcome.next.inj e
  clear e
  repeat' first
    | with_reducible assumption
    | with_reducible exact rfl
    | with_reducible apply State.linkFell_keeps
    | with_reducible apply State.linkUpAs_keeps
    | with_reducible apply State.putNet_keeps
    | with_reducible apply Keeps.ite
    | split
    | (intro s' hs'; try dsimp only)
    | dsimp only

theorem execSgmiiStatus_keeps {s₀ s t : State} {port : Nat} {up : Bool} {speed : BitVec 2} {full : Bool} (e : execSgmiiStatus port up speed full s = .next t) (h₀ : Keeps s₀ s) : Keeps s₀ t := by
  obtain rfl := Host.Outcome.next.inj e
  clear e
  repeat' first
    | with_reducible assumption
    | with_reducible exact rfl
    | with_reducible apply State.linkFell_keeps
    | with_reducible apply State.linkUpAs_keeps
    | with_reducible apply Keeps.ite
    | split
    | (intro s' hs'; try dsimp only)
    | dsimp only

theorem execNetDownshift_keeps {s₀ s t : State} {port : Nat} (e : execNetDownshift port s = .next t) (h₀ : Keeps s₀ s) : Keeps s₀ t := by
  obtain rfl := Host.Outcome.next.inj e
  clear e
  repeat' first
    | with_reducible assumption
    | with_reducible exact rfl
    | with_reducible apply State.linkRestart_keeps
    | with_reducible apply State.putNet_keeps
    | with_reducible apply State.post0_keeps
    | with_reducible apply State.bump_keeps
    | with_reducible apply Keeps.ite
    | split
    | (intro s' hs'; try dsimp only)
    | dsimp only

theorem State.writeMdioCmd_keeps {s₀ s : State} {v : BitVec 32} (h₀ : Keeps s₀ s) : Keeps s₀ (State.writeMdioCmd s v) := by
  unfold State.writeMdioCmd
  dsimp only
  repeat' first
    | with_reducible assumption
    | with_reducible exact rfl
    | with_reducible apply State.setNet_keeps
    | with_reducible apply Keeps.ite
    | split
    | (intro s' hs'; try dsimp only)
    | dsimp only

theorem State.writeMdioData_keeps {s₀ s : State} {v : BitVec 32} (h₀ : Keeps s₀ s) : Keeps s₀ (State.writeMdioData s v) := by
  unfold State.writeMdioData
  repeat' first
    | with_reducible assumption
    | with_reducible exact rfl
    | with_reducible apply State.setNet_keeps
    | with_reducible apply Keeps.ite
    | split
    | (intro s' hs'; try dsimp only)
    | dsimp only

theorem execMdioGo_keeps {s₀ s t : State} {cmd : BitVec 32} (e : execMdioGo cmd s = .next t) (h₀ : Keeps s₀ s) : Keeps s₀ t := by
  obtain rfl := Host.Outcome.next.inj e
  clear e
  repeat' first
    | with_reducible assumption
    | with_reducible exact rfl
    | with_reducible apply State.writeMdioCmd_keeps
    | with_reducible apply Keeps.ite
    | split
    | (intro s' hs'; try dsimp only)
    | dsimp only

theorem execMdioDone_keeps {s₀ s t : State} {ack : Bool} {rdata : BitVec 16} (e : execMdioDone ack rdata s = .next t) (h₀ : Keeps s₀ s) : Keeps s₀ t := by
  obtain rfl := Host.Outcome.next.inj e
  clear e
  repeat' first
    | with_reducible assumption
    | with_reducible exact rfl
    | with_reducible apply State.plicSet_keeps
    | with_reducible apply State.setNet_keeps
    | with_reducible apply Keeps.ite
    | split
    | (intro s' hs'; try dsimp only)
    | dsimp only

theorem State.sendPause_keeps {s₀ s : State} {p : Nat} {quanta : Nat} (h₀ : Keeps s₀ s) : Keeps s₀ (State.sendPause s p quanta) := by
  unfold State.sendPause
  dsimp only
  repeat' first
    | with_reducible assumption
    | with_reducible exact rfl
    | with_reducible apply State.boundary_keeps
    | with_reducible apply State.putNet_keeps
    | with_reducible apply Keeps.ite
    | split
    | (intro s' hs'; try dsimp only)
    | dsimp only

theorem State.rxFills_keeps {s₀ s : State} {p : Nat} {n : Nat} (h₀ : Keeps s₀ s) : Keeps s₀ (State.rxFills s p n) := by
  unfold State.rxFills
  dsimp only
  repeat' first
    | with_reducible assumption
    | with_reducible exact rfl
    | with_reducible apply State.sendPause_keeps
    | with_reducible apply Keeps.ite
    | split
    | (intro s' hs'; try dsimp only)
    | dsimp only

theorem State.rxDrains_keeps {s₀ s : State} {p : Nat} (h₀ : Keeps s₀ s) : Keeps s₀ (State.rxDrains s p) := by
  unfold State.rxDrains
  dsimp only
  repeat' first
    | with_reducible assumption
    | with_reducible exact rfl
    | with_reducible apply State.sendPause_keeps
    | with_reducible apply Keeps.ite
    | split
    | (intro s' hs'; try dsimp only)
    | dsimp only

theorem State.deliverPorts_keeps {s₀ s : State} (h₀ : Keeps s₀ s) : Keeps s₀ (State.deliverPorts s) := by
  unfold State.deliverPorts
  dsimp only
  repeat' first
    | with_reducible assumption
    | with_reducible exact rfl
    | with_reducible apply State.deliverAll_keeps
    | with_reducible apply State.rxDrains_keeps
    | with_reducible refine Keeps.foldl _ (fun s x hs => ?_) ?_
    | with_reducible refine Keeps.foldl1 _ (fun s x hs => ?_) ?_
    | with_reducible apply Keeps.ite
    | split
    | (intro s' hs'; try dsimp only)
    | dsimp only

theorem State.takePause_keeps {s₀ s : State} {p : Nat} {fr : List Byte} (h₀ : Keeps s₀ s) : Keeps s₀ (State.takePause s p fr) := by
  unfold State.takePause
  dsimp only
  repeat' first
    | with_reducible assumption
    | with_reducible exact rfl
    | with_reducible apply State.putNet_keeps
    | with_reducible apply State.bump_keeps
    | with_reducible apply Keeps.ite
    | split
    | (intro s' hs'; try dsimp only)
    | dsimp only

theorem execPauseRefresh_keeps {s₀ s t : State} {port : Nat} (e : execPauseRefresh port s = .next t) (h₀ : Keeps s₀ s) : Keeps s₀ t := by
  obtain rfl := Host.Outcome.next.inj e
  clear e
  repeat' first
    | with_reducible assumption
    | with_reducible exact rfl
    | with_reducible apply State.sendPause_keeps
    | with_reducible apply Keeps.ite
    | split
    | (intro s' hs'; try dsimp only)
    | dsimp only

theorem execPauseExpiry_keeps {s₀ s t : State} {port : Nat} (e : execPauseExpiry port s = .next t) (h₀ : Keeps s₀ s) : Keeps s₀ t := by
  obtain rfl := Host.Outcome.next.inj e
  clear e
  repeat' first
    | with_reducible assumption
    | with_reducible exact rfl
    | with_reducible apply State.putNet_keeps
    | with_reducible apply Keeps.ite
    | split
    | (intro s' hs'; try dsimp only)
    | dsimp only

theorem State.netPatterns_keeps {s₀ s : State} {p : Nat} {fr : List Byte} {j : Judge} (h₀ : Keeps s₀ s) : Keeps s₀ (State.netPatterns s p fr j) := by
  unfold State.netPatterns
  dsimp only
  repeat' first
    | with_reducible assumption
    | with_reducible exact rfl
    | with_reducible apply State.macBump_keeps
    | with_reducible apply State.putNet_keeps
    | with_reducible apply State.wake_keeps
    | with_reducible refine Keeps.foldl _ (fun s x hs => ?_) ?_
    | with_reducible refine Keeps.foldl1 _ (fun s x hs => ?_) ?_
    | with_reducible apply Keeps.ite
    | split
    | (intro s' hs'; try dsimp only)
    | dsimp only

theorem execNetRxFrame_keeps {s₀ s t : State} {port : Nat} {frame : List Byte} {rx : RxCheck} {frac : BitVec 32} (e : execNetRxFrame port frame rx frac s = .next t) (h₀ : Keeps s₀ s) : Keeps s₀ t := by
  obtain rfl := Host.Outcome.next.inj e
  clear e
  repeat' first
    | with_reducible assumption
    | with_reducible exact rfl
    | with_reducible apply State.netPatterns_keeps
    | with_reducible apply State.holdFrameRx_keeps
    | with_reducible apply State.countJudge_keeps
    | with_reducible apply State.deliverAll_keeps
    | with_reducible apply State.takePause_keeps
    | with_reducible apply State.rxDrains_keeps
    | with_reducible apply State.macBump_keeps
    | with_reducible apply State.rxFills_keeps
    | with_reducible apply State.sieve_keeps
    | (with_reducible apply State.sieve_keeps_eq; with_reducible assumption)
    | with_reducible apply Keeps.ite
    | split
    | (intro s' hs'; try dsimp only)
    | dsimp only

theorem execNetRxPost_keeps {s₀ s t : State} {ring : Nat} (e : execNetRxPost ring s = .next t) (h₀ : Keeps s₀ s) : Keeps s₀ t := by
  obtain rfl := Host.Outcome.next.inj e
  clear e
  repeat' first
    | with_reducible assumption
    | with_reducible exact rfl
    | with_reducible apply State.putRxBufs_keeps
    | with_reducible apply State.take_keeps
    | with_reducible apply Keeps.ite
    | split
    | (intro s' hs'; try dsimp only)
    | dsimp only

theorem execNetTx_keeps {s₀ s t : State} {ring : Nat} (e : execNetTx ring s = .next t) (h₀ : Keeps s₀ s) : Keeps s₀ t := by
  obtain rfl := Host.Outcome.next.inj e
  clear e
  repeat' first
    | with_reducible assumption
    | with_reducible exact rfl
    | with_reducible apply State.enqueue_keeps
    | with_reducible apply State.finish_keeps
    | with_reducible apply State.take_keeps
    | with_reducible apply Keeps.ite
    | split
    | (intro s' hs'; try dsimp only)
    | dsimp only

theorem execNetTxStart_keeps {s₀ s t : State} {port : Nat} {ok : Bool} (e : execNetTxStart port ok s = .next t) (h₀ : Keeps s₀ s) : Keeps s₀ t := by
  obtain rfl := Host.Outcome.next.inj e
  clear e
  repeat' first
    | with_reducible assumption
    | with_reducible exact rfl
    | with_reducible apply State.fetchFrame_keeps
    | with_reducible apply State.startFrame_keeps
    | with_reducible apply State.finish_keeps
    | with_reducible apply State.putTx_keeps
    | (with_reducible apply State.fetchFrame_keeps_eq; with_reducible assumption)
    | with_reducible apply Keeps.ite
    | split
    | (intro s' hs'; try dsimp only)
    | dsimp only

theorem State.netSent_keeps {s₀ s : State} {p : Nat} {frac : BitVec 32} (h₀ : Keeps s₀ s) : Keeps s₀ (State.netSent s p frac) := by
  unfold State.netSent
  dsimp only
  repeat' first
    | with_reducible assumption
    | with_reducible exact rfl
    | with_reducible apply State.finishWrite_keeps
    | with_reducible apply State.lineEnd_keeps
    | with_reducible apply State.macBump_keeps
    | with_reducible apply State.finish_keeps
    | (with_reducible apply State.lineEnd_keeps_eq; with_reducible assumption)
    | with_reducible apply Keeps.ite
    | split
    | (intro s' hs'; try dsimp only)
    | dsimp only

theorem execTxUnderrun_keeps {s₀ s t : State} {port : Nat} (e : execTxUnderrun port s = .next t) (h₀ : Keeps s₀ s) : Keeps s₀ t := by
  obtain rfl := Host.Outcome.next.inj e
  clear e
  repeat' first
    | with_reducible assumption
    | with_reducible exact rfl
    | with_reducible apply State.boundary_keeps
    | with_reducible apply State.putNet_keeps
    | with_reducible apply State.putTx_keeps
    | with_reducible apply State.bump_keeps
    | with_reducible apply Keeps.ite
    | split
    | (intro s' hs'; try dsimp only)
    | dsimp only

theorem execCollision_keeps {s₀ s t : State} {port : Nat} {late : Bool} (e : execCollision port late s = .next t) (h₀ : Keeps s₀ s) : Keeps s₀ t := by
  obtain rfl := Host.Outcome.next.inj e
  clear e
  repeat' first
    | with_reducible assumption
    | with_reducible exact rfl
    | with_reducible apply State.collide_keeps
    | with_reducible apply Keeps.ite
    | split
    | (intro s' hs'; try dsimp only)
    | dsimp only

theorem execBackoffExpiry_keeps {s₀ s t : State} {port : Nat} (e : execBackoffExpiry port s = .next t) (h₀ : Keeps s₀ s) : Keeps s₀ t := by
  obtain rfl := Host.Outcome.next.inj e
  clear e
  repeat' first
    | with_reducible assumption
    | with_reducible exact rfl
    | with_reducible apply State.putTx_keeps
    | with_reducible apply Keeps.ite
    | split
    | (intro s' hs'; try dsimp only)
    | dsimp only

theorem execNetWake_keeps {s₀ s t : State} {port : Nat} (e : execNetWake port s = .next t) (h₀ : Keeps s₀ s) : Keeps s₀ t := by
  obtain rfl := Host.Outcome.next.inj e
  clear e
  repeat' first
    | with_reducible assumption
    | with_reducible exact rfl
    | with_reducible apply State.putNet_keeps
    | with_reducible apply State.post0_keeps
    | with_reducible apply State.wake_keeps
    | with_reducible apply Keeps.ite
    | split
    | (intro s' hs'; try dsimp only)
    | dsimp only

end Sys2Proof.Machine
end

