-- ==== Sys2Proof/Laws/KeepsHerd.lean ====
section
/-! SUPPORT. Laws/KeepsHerd.lean: what the operations of Machine/Herd.lean keep (Laws/Keeps.lean), one lemma each. -/

namespace Sys2Proof.Machine

theorem State.putCow_keeps {s₀ s : State} {p : Nat} {v : CowSt} (h₀ : Keeps s₀ s) : Keeps s₀ (State.putCow s p v) := by
  unfold State.putCow
  repeat' first
    | with_reducible assumption
    | with_reducible exact rfl
    | with_reducible apply State.putHerd_keeps
    | with_reducible apply Keeps.ite
    | split
    | (intro s' hs'; try dsimp only)
    | dsimp only

theorem State.putPeer_keeps {s₀ s : State} {p : Nat} {k : Nat} {v : Peer} (h₀ : Keeps s₀ s) : Keeps s₀ (State.putPeer s p k v) := by
  unfold State.putPeer
  repeat' first
    | with_reducible assumption
    | with_reducible exact rfl
    | with_reducible apply State.putHerd_keeps
    | with_reducible apply Keeps.ite
    | split
    | (intro s' hs'; try dsimp only)
    | dsimp only

theorem State.putRcRx_keeps {s₀ s : State} {p : Nat} {k : Nat} {v : RcPeer} (h₀ : Keeps s₀ s) : Keeps s₀ (State.putRcRx s p k v) := by
  unfold State.putRcRx
  repeat' first
    | with_reducible assumption
    | with_reducible exact rfl
    | with_reducible apply State.putHerd_keeps
    | with_reducible apply Keeps.ite
    | split
    | (intro s' hs'; try dsimp only)
    | dsimp only

theorem execHelloSend_keeps {s₀ s t : State} {port : Nat} (e : execHelloSend port s = .next t) (h₀ : Keeps s₀ s) : Keeps s₀ t := by
  obtain rfl := Host.Outcome.next.inj e
  clear e
  repeat' first
    | with_reducible assumption
    | with_reducible exact rfl
    | with_reducible apply State.putHerd_keeps
    | with_reducible apply Keeps.ite
    | split
    | (intro s' hs'; try dsimp only)
    | dsimp only

theorem State.releaseHeld_keeps {s₀ s : State} {p : Nat} {pick : HeldFrame → Bool} (h₀ : Keeps s₀ s) : Keeps s₀ (State.releaseHeld s p pick) := by
  unfold State.releaseHeld
  dsimp only
  repeat' first
    | with_reducible assumption
    | with_reducible exact rfl
    | with_reducible apply State.putHerd_keeps
    | with_reducible apply State.pick_keeps
    | (with_reducible apply State.pick_keeps_eq; with_reducible assumption)
    | with_reducible apply Keeps.ite
    | split
    | (intro s' hs'; try dsimp only)
    | dsimp only

theorem State.heardNode_keeps {s₀ s : State} {p : Nat} {src : Nat} (h₀ : Keeps s₀ s) : Keeps s₀ (State.heardNode s p src) := by
  unfold State.heardNode
  repeat' first
    | with_reducible assumption
    | with_reducible exact rfl
    | with_reducible apply State.releaseHeld_keeps
    | with_reducible apply Keeps.ite
    | split
    | (intro s' hs'; try dsimp only)
    | dsimp only

theorem State.holdFrame_keeps {s₀ s : State} {p : Nat} {q : Nat} {da : List Byte} {e : TxEnt} (h₀ : Keeps s₀ s) : Keeps s₀ (State.holdFrame s p q da e) := by
  unfold State.holdFrame
  dsimp only
  repeat' first
    | with_reducible assumption
    | with_reducible exact rfl
    | with_reducible apply State.putHerd_keeps
    | with_reducible apply Keeps.ite
    | split
    | (intro s' hs'; try dsimp only)
    | dsimp only

theorem State.cowStart_keeps {s₀ s : State} {p : Nat} (h₀ : Keeps s₀ s) : Keeps s₀ (State.cowStart s p) := by
  unfold State.cowStart
  dsimp only
  repeat' first
    | with_reducible assumption
    | with_reducible exact rfl
    | with_reducible apply State.releaseHeld_keeps
    | with_reducible apply State.putCow_keeps
    | with_reducible apply Keeps.ite
    | split
    | (intro s' hs'; try dsimp only)
    | dsimp only

theorem State.setFormats_keeps {s₀ s : State} {p : Nat} {auto_ : Nat} (h₀ : Keeps s₀ s) : Keeps s₀ (State.setFormats s p auto_) := by
  unfold State.setFormats
  repeat' first
    | with_reducible assumption
    | with_reducible exact rfl
    | with_reducible apply State.putStream_keeps
    | with_reducible refine Keeps.foldl _ (fun s x hs => ?_) ?_
    | with_reducible refine Keeps.foldl1 _ (fun s x hs => ?_) ?_
    | with_reducible apply Keeps.ite
    | split
    | (intro s' hs'; try dsimp only)
    | dsimp only

theorem State.herdStart_keeps {s₀ s : State} {p : Nat} (h₀ : Keeps s₀ s) : Keeps s₀ (State.herdStart s p) := by
  unfold State.herdStart
  dsimp only
  repeat' first
    | with_reducible assumption
    | with_reducible exact rfl
    | with_reducible apply State.setFormats_keeps
    | with_reducible apply State.cowStart_keeps
    | with_reducible apply State.putHerd_keeps
    | with_reducible apply State.draw_keeps
    | (with_reducible apply State.draw_keeps_eq; with_reducible assumption)
    | with_reducible apply Keeps.ite
    | split
    | (intro s' hs'; try dsimp only)
    | dsimp only

theorem State.herdDrop_keeps {s₀ s : State} {p : Nat} (h₀ : Keeps s₀ s) : Keeps s₀ (State.herdDrop s p) := by
  unfold State.herdDrop
  dsimp only
  repeat' first
    | with_reducible assumption
    | with_reducible exact rfl
    | with_reducible apply State.dropTraffic_keeps
    | with_reducible apply State.putHerd_keeps
    | with_reducible apply State.finish_keeps
    | with_reducible refine Keeps.foldl _ (fun s x hs => ?_) ?_
    | with_reducible refine Keeps.foldl1 _ (fun s x hs => ?_) ?_
    | with_reducible apply Keeps.ite
    | split
    | (intro s' hs'; try dsimp only)
    | dsimp only

theorem State.herdStop_keeps {s₀ s : State} {p : Nat} (h₀ : Keeps s₀ s) : Keeps s₀ (State.herdStop s p) := by
  unfold State.herdStop
  dsimp only
  repeat' first
    | with_reducible assumption
    | with_reducible exact rfl
    | with_reducible apply State.herdDrop_keeps
    | with_reducible apply State.putHerd_keeps
    | with_reducible apply Keeps.ite
    | split
    | (intro s' hs'; try dsimp only)
    | dsimp only

theorem State.herdFlr_keeps {s₀ s : State} {p : Nat} {f : Nat} (h₀ : Keeps s₀ s) : Keeps s₀ (State.herdFlr s p f) := by
  unfold State.herdFlr
  dsimp only
  repeat' first
    | with_reducible assumption
    | with_reducible exact rfl
    | with_reducible apply State.putHerd_keeps
    | with_reducible apply State.macFlr_keeps
    | with_reducible apply Keeps.ite
    | split
    | (intro s' hs'; try dsimp only)
    | dsimp only

theorem State.cowSwitch_keeps {s₀ s : State} {p : Nat} {on : Bool} (h₀ : Keeps s₀ s) : Keeps s₀ (State.cowSwitch s p on) := by
  unfold State.cowSwitch
  dsimp only
  repeat' first
    | with_reducible assumption
    | with_reducible exact rfl
    | with_reducible apply State.releaseHeld_keeps
    | with_reducible apply State.putCow_keeps
    | with_reducible apply Keeps.ite
    | split
    | (intro s' hs'; try dsimp only)
    | dsimp only

theorem execHerdMode_keeps {s₀ s t : State} {port : Nat} (e : execHerdMode port s = .next t) (h₀ : Keeps s₀ s) : Keeps s₀ t := by
  obtain rfl := Host.Outcome.next.inj e
  clear e
  repeat' first
    | with_reducible assumption
    | with_reducible exact rfl
    | with_reducible apply State.setFormats_keeps
    | with_reducible apply State.cowSwitch_keeps
    | with_reducible apply State.putHerd_keeps
    | with_reducible apply State.post0_keeps
    | with_reducible apply Keeps.ite
    | split
    | (intro s' hs'; try dsimp only)
    | dsimp only

theorem execPlcaLoss_keeps {s₀ s t : State} {port : Nat} (e : execPlcaLoss port s = .next t) (h₀ : Keeps s₀ s) : Keeps s₀ t := by
  obtain rfl := Host.Outcome.next.inj e
  clear e
  repeat' first
    | with_reducible assumption
    | with_reducible exact rfl
    | with_reducible apply State.putHerd_keeps
    | with_reducible apply State.bump_keeps
    | with_reducible apply Keeps.ite
    | split
    | (intro s' hs'; try dsimp only)
    | dsimp only

theorem execPlcaBeacon_keeps {s₀ s t : State} {port : Nat} (e : execPlcaBeacon port s = .next t) (h₀ : Keeps s₀ s) : Keeps s₀ t := by
  obtain rfl := Host.Outcome.next.inj e
  clear e
  repeat' first
    | with_reducible assumption
    | with_reducible exact rfl
    | with_reducible apply State.putHerd_keeps
    | with_reducible apply Keeps.ite
    | split
    | (intro s' hs'; try dsimp only)
    | dsimp only

theorem State.takeHello_keeps {s₀ s : State} {p : Nat} {src : Nat} {pay : List Byte} (h₀ : Keeps s₀ s) : Keeps s₀ (State.takeHello s p src pay) := by
  unfold State.takeHello
  dsimp only
  repeat' first
    | with_reducible assumption
    | with_reducible exact rfl
    | with_reducible apply State.releaseHeld_keeps
    | with_reducible apply State.putPeer_keeps
    | with_reducible apply State.post0_keeps
    | with_reducible apply State.bump_keeps
    | with_reducible apply Keeps.ite
    | split
    | (intro s' hs'; try dsimp only)
    | dsimp only

theorem execPeerExpire_keeps {s₀ s t : State} {port : Nat} {src : Nat} (e : execPeerExpire port src s = .next t) (h₀ : Keeps s₀ s) : Keeps s₀ t := by
  obtain rfl := Host.Outcome.next.inj e
  clear e
  repeat' first
    | with_reducible assumption
    | with_reducible exact rfl
    | with_reducible apply State.putHerd_keeps
    | with_reducible apply Keeps.ite
    | split
    | (intro s' hs'; try dsimp only)
    | dsimp only

theorem State.herdWakes_keeps {s₀ s : State} {p : Nat} {code : Nat} (h₀ : Keeps s₀ s) : Keeps s₀ (State.herdWakes s p code) := by
  unfold State.herdWakes
  dsimp only
  repeat' first
    | with_reducible assumption
    | with_reducible exact rfl
    | with_reducible apply State.putHerd_keeps
    | with_reducible apply State.wake_keeps
    | with_reducible apply Keeps.ite
    | split
    | (intro s' hs'; try dsimp only)
    | dsimp only

theorem State.takeBeacon_keeps {s₀ s : State} {p : Nat} {pay : List Byte} (h₀ : Keeps s₀ s) : Keeps s₀ (State.takeBeacon s p pay) := by
  unfold State.takeBeacon
  dsimp only
  repeat' first
    | with_reducible assumption
    | with_reducible exact rfl
    | with_reducible apply State.herdWakes_keeps
    | with_reducible apply State.putHerd_keeps
    | with_reducible apply State.putCow_keeps
    | with_reducible apply State.post0_keeps
    | with_reducible apply State.bump_keeps
    | with_reducible apply Keeps.ite
    | split
    | (intro s' hs'; try dsimp only)
    | dsimp only

theorem execListenWindowOpen_keeps {s₀ s t : State} {port : Nat} (e : execListenWindowOpen port s = .next t) (h₀ : Keeps s₀ s) : Keeps s₀ t := by
  obtain rfl := Host.Outcome.next.inj e
  clear e
  repeat' first
    | with_reducible assumption
    | with_reducible exact rfl
    | with_reducible apply State.putCow_keeps
    | with_reducible apply Keeps.ite
    | split
    | (intro s' hs'; try dsimp only)
    | dsimp only

theorem execListenWindowClose_keeps {s₀ s t : State} {port : Nat} (e : execListenWindowClose port s = .next t) (h₀ : Keeps s₀ s) : Keeps s₀ t := by
  obtain rfl := Host.Outcome.next.inj e
  clear e
  repeat' first
    | with_reducible assumption
    | with_reducible exact rfl
    | with_reducible apply State.herdWakes_keeps
    | with_reducible apply State.putCow_keeps
    | with_reducible apply State.post0_keeps
    | with_reducible apply State.bump_keeps
    | with_reducible apply Keeps.ite
    | split
    | (intro s' hs'; try dsimp only)
    | dsimp only

theorem execAwakeWindowEnd_keeps {s₀ s t : State} {port : Nat} (e : execAwakeWindowEnd port s = .next t) (h₀ : Keeps s₀ s) : Keeps s₀ t := by
  obtain rfl := Host.Outcome.next.inj e
  clear e
  repeat' first
    | with_reducible assumption
    | with_reducible exact rfl
    | with_reducible apply State.putCow_keeps
    | with_reducible apply Keeps.ite
    | split
    | (intro s' hs'; try dsimp only)
    | dsimp only

theorem execHerdWake_keeps {s₀ s t : State} {port : Nat} (e : execHerdWake port s = .next t) (h₀ : Keeps s₀ s) : Keeps s₀ t := by
  obtain rfl := Host.Outcome.next.inj e
  clear e
  repeat' first
    | with_reducible assumption
    | with_reducible exact rfl
    | with_reducible apply State.putHerd_keeps
    | with_reducible apply State.post0_keeps
    | with_reducible apply State.wake_keeps
    | with_reducible apply Keeps.ite
    | split
    | (intro s' hs'; try dsimp only)
    | dsimp only

theorem State.rcDeliver_keeps {s₀ s : State} {p : Nat} {src : Nat} {seq : Nat} {msg : List Byte} (h₀ : Keeps s₀ s) : Keeps s₀ (State.rcDeliver s p src seq msg).1 := by
  unfold State.rcDeliver
  dsimp only
  repeat' first
    | with_reducible assumption
    | with_reducible exact rfl
    | with_reducible apply State.finishWrite_keeps
    | with_reducible apply State.putHerd_keeps
    | with_reducible apply State.bump_keeps
    | with_reducible apply Keeps.ite
    | split
    | (intro s' hs'; try dsimp only)
    | dsimp only

theorem State.rcDeliver_keeps_eq {s₀ s t : State} {y : Bool} {p : Nat} {src : Nat} {seq : Nat} {msg : List Byte}  (e : State.rcDeliver s p src seq msg  = (t, y)) (h₀ : Keeps s₀ s) : Keeps s₀ t :=
  Keeps.fst e (State.rcDeliver_keeps h₀)

theorem State.takeData_keeps {s₀ s : State} {p : Nat} {src : Nat} {pay : List Byte} (h₀ : Keeps s₀ s) : Keeps s₀ (State.takeData s p src pay) := by
  unfold State.takeData
  dsimp only
  repeat' first
    | with_reducible assumption
    | with_reducible exact rfl
    | with_reducible apply State.rcDeliver_keeps
    | with_reducible apply State.putRcRx_keeps
    | with_reducible apply State.bump_keeps
    | (with_reducible apply State.rcDeliver_keeps_eq; with_reducible assumption)
    | with_reducible apply Keeps.ite
    | split
    | (intro s' hs'; try dsimp only)
    | dsimp only

theorem State.dropMsg_keeps {s₀ s : State} {p : Nat} {m : RcMsg} (h₀ : Keeps s₀ s) : Keeps s₀ (State.dropMsg s p m) := by
  unfold State.dropMsg
  dsimp only
  repeat' first
    | with_reducible assumption
    | with_reducible exact rfl
    | with_reducible apply State.putHerd_keeps
    | with_reducible apply Keeps.ite
    | split
    | (intro s' hs'; try dsimp only)
    | dsimp only

theorem State.endMsg_keeps {s₀ s : State} {p : Nat} {m : RcMsg} {result : Nat} (h₀ : Keeps s₀ s) : Keeps s₀ (State.endMsg s p m result) := by
  unfold State.endMsg
  repeat' first
    | with_reducible assumption
    | with_reducible exact rfl
    | with_reducible apply State.dropMsg_keeps
    | with_reducible apply State.finish_keeps
    | with_reducible apply Keeps.ite
    | split
    | (intro s' hs'; try dsimp only)
    | dsimp only

theorem State.takeAck_keeps {s₀ s : State} {p : Nat} {src : Nat} {pay : List Byte} (h₀ : Keeps s₀ s) : Keeps s₀ (State.takeAck s p src pay) := by
  unfold State.takeAck
  dsimp only
  repeat' first
    | with_reducible assumption
    | with_reducible exact rfl
    | with_reducible apply State.macBump_keeps
    | with_reducible apply State.endMsg_keeps
    | with_reducible refine Keeps.foldl _ (fun s x hs => ?_) ?_
    | with_reducible refine Keeps.foldl1 _ (fun s x hs => ?_) ?_
    | with_reducible apply Keeps.ite
    | split
    | (intro s' hs'; try dsimp only)
    | dsimp only

theorem execRcRetransmit_keeps {s₀ s t : State} {port : Nat} {dst : Nat} {seq : BitVec 16} (e : execRcRetransmit port dst seq s = .next t) (h₀ : Keeps s₀ s) : Keeps s₀ t := by
  obtain rfl := Host.Outcome.next.inj e
  clear e
  repeat' first
    | with_reducible assumption
    | with_reducible exact rfl
    | with_reducible apply State.putHerd_keeps
    | with_reducible apply State.endMsg_keeps
    | with_reducible apply State.bump_keeps
    | with_reducible apply Keeps.ite
    | split
    | (intro s' hs'; try dsimp only)
    | dsimp only

theorem State.blockDone_keeps {s₀ s : State} {e : Nat} {b : Blk} (h₀ : Keeps s₀ s) : Keeps s₀ (State.blockDone s e b) := by
  unfold State.blockDone
  dsimp only
  repeat' first
    | with_reducible assumption
    | with_reducible exact rfl
    | with_reducible apply State.putStream_keeps
    | with_reducible apply State.storeBlk_keeps
    | with_reducible apply State.putConv_keeps
    | with_reducible apply State.bump_keeps
    | (with_reducible apply State.storeBlk_keeps_eq; with_reducible assumption)
    | with_reducible apply Keeps.ite
    | split
    | (intro s' hs'; try dsimp only)
    | dsimp only

theorem State.takePacket_keeps {s₀ s : State} {e : Nat} {src : Nat} {pay : List Byte} (h₀ : Keeps s₀ s) : Keeps s₀ (State.takePacket s e src pay) := by
  unfold State.takePacket
  dsimp only
  repeat' first
    | with_reducible assumption
    | with_reducible exact rfl
    | with_reducible apply State.putStream_keeps
    | with_reducible apply State.blockDone_keeps
    | with_reducible apply State.complete_keeps
    | with_reducible apply State.bump_keeps
    | with_reducible apply Keeps.ite
    | split
    | (intro s' hs'; try dsimp only)
    | dsimp only

theorem State.takeStream_keeps {s₀ s : State} {p : Nat} {src : Nat} {pay : List Byte} (h₀ : Keeps s₀ s) : Keeps s₀ (State.takeStream s p src pay) := by
  unfold State.takeStream
  repeat' first
    | with_reducible assumption
    | with_reducible exact rfl
    | with_reducible apply State.takePacket_keeps
    | with_reducible refine Keeps.foldl _ (fun s x hs => ?_) ?_
    | with_reducible refine Keeps.foldl1 _ (fun s x hs => ?_) ?_
    | with_reducible apply Keeps.ite
    | split
    | (intro s' hs'; try dsimp only)
    | dsimp only

theorem execStreamSilence_keeps {s₀ s t : State} {ep : Nat} (e : execStreamSilence ep s = .next t) (h₀ : Keeps s₀ s) : Keeps s₀ t := by
  obtain rfl := Host.Outcome.next.inj e
  clear e
  repeat' first
    | with_reducible assumption
    | with_reducible exact rfl
    | with_reducible apply State.putStream_keeps
    | with_reducible apply State.convIdle_keeps
    | with_reducible apply Keeps.ite
    | split
    | (intro s' hs'; try dsimp only)
    | dsimp only

theorem State.service_keeps {s₀ s : State} {p : Nat} {fr : List Byte} (h₀ : Keeps s₀ s) : Keeps s₀ (State.service s p fr) := by
  unfold State.service
  dsimp only
  repeat' first
    | with_reducible assumption
    | with_reducible exact rfl
    | with_reducible apply State.takeBeacon_keeps
    | with_reducible apply State.takeStream_keeps
    | with_reducible apply State.heardNode_keeps
    | with_reducible apply State.takeHello_keeps
    | with_reducible apply State.takeData_keeps
    | with_reducible apply State.takeAck_keeps
    | with_reducible apply State.bump_keeps
    | with_reducible apply Keeps.ite
    | split
    | (intro s' hs'; try dsimp only)
    | dsimp only

theorem State.herdPatterns_keeps {s₀ s : State} {p : Nat} {fr : List Byte} {j : Judge} (h₀ : Keeps s₀ s) : Keeps s₀ (State.herdPatterns s p fr j) := by
  unfold State.herdPatterns
  dsimp only
  repeat' first
    | with_reducible assumption
    | with_reducible exact rfl
    | with_reducible apply State.herdWakes_keeps
    | with_reducible apply State.macBump_keeps
    | with_reducible apply State.wake_keeps
    | with_reducible refine Keeps.foldl _ (fun s x hs => ?_) ?_
    | with_reducible refine Keeps.foldl1 _ (fun s x hs => ?_) ?_
    | with_reducible apply Keeps.ite
    | split
    | (intro s' hs'; try dsimp only)
    | dsimp only

theorem State.rawFrame_keeps {s₀ s : State} {p : Nat} {fr : List Byte} {rx : RxCheck} (h₀ : Keeps s₀ s) : Keeps s₀ (State.rawFrame s p fr rx) := by
  unfold State.rawFrame
  dsimp only
  repeat' first
    | with_reducible assumption
    | with_reducible exact rfl
    | with_reducible apply State.herdPatterns_keeps
    | with_reducible apply State.holdFrameRx_keeps
    | with_reducible apply State.countJudge_keeps
    | with_reducible apply State.deliverAll_keeps
    | with_reducible apply State.macBump_keeps
    | with_reducible apply State.sieve_keeps
    | (with_reducible apply State.sieve_keeps_eq; with_reducible assumption)
    | with_reducible apply Keeps.ite
    | split
    | (intro s' hs'; try dsimp only)
    | dsimp only

theorem execHerdRxFrame_keeps {s₀ s t : State} {port : Nat} {frame : List Byte} {rx : RxCheck} (e : execHerdRxFrame port frame rx s = .next t) (h₀ : Keeps s₀ s) : Keeps s₀ t := by
  obtain rfl := Host.Outcome.next.inj e
  clear e
  repeat' first
    | with_reducible assumption
    | with_reducible exact rfl
    | with_reducible apply State.heardNode_keeps
    | with_reducible apply State.rawFrame_keeps
    | with_reducible apply State.service_keeps
    | with_reducible apply State.bump_keeps
    | with_reducible apply Keeps.ite
    | split
    | (intro s' hs'; try dsimp only)
    | dsimp only

theorem State.serve_keeps {s₀ s : State} {p : Nat} {fr : List Byte} {ty : Nat} {kind : Nat} (h₀ : Keeps s₀ s) : Keeps s₀ (State.serve s p fr ty kind) := by
  unfold State.serve
  repeat' first
    | with_reducible assumption
    | with_reducible exact rfl
    | with_reducible apply State.service_keeps
    | with_reducible apply Keeps.ite
    | split
    | (intro s' hs'; try dsimp only)
    | dsimp only

theorem execHello_keeps {s₀ s t : State} {port : Nat} {frame : List Byte} (e : execHello port frame s = .next t) (h₀ : Keeps s₀ s) : Keeps s₀ t := by
  obtain rfl := Host.Outcome.next.inj e
  clear e
  repeat' first
    | with_reducible assumption
    | with_reducible exact rfl
    | with_reducible apply State.serve_keeps
    | with_reducible apply Keeps.ite
    | split
    | (intro s' hs'; try dsimp only)
    | dsimp only

theorem execBeacon_keeps {s₀ s t : State} {port : Nat} {frame : List Byte} (e : execBeacon port frame s = .next t) (h₀ : Keeps s₀ s) : Keeps s₀ t := by
  obtain rfl := Host.Outcome.next.inj e
  clear e
  repeat' first
    | with_reducible assumption
    | with_reducible exact rfl
    | with_reducible apply State.serve_keeps
    | with_reducible apply Keeps.ite
    | split
    | (intro s' hs'; try dsimp only)
    | dsimp only

theorem execData_keeps {s₀ s t : State} {port : Nat} {frame : List Byte} (e : execData port frame s = .next t) (h₀ : Keeps s₀ s) : Keeps s₀ t := by
  obtain rfl := Host.Outcome.next.inj e
  clear e
  repeat' first
    | with_reducible assumption
    | with_reducible exact rfl
    | with_reducible apply State.serve_keeps
    | with_reducible apply Keeps.ite
    | split
    | (intro s' hs'; try dsimp only)
    | dsimp only

theorem execAck_keeps {s₀ s t : State} {port : Nat} {frame : List Byte} (e : execAck port frame s = .next t) (h₀ : Keeps s₀ s) : Keeps s₀ t := by
  obtain rfl := Host.Outcome.next.inj e
  clear e
  repeat' first
    | with_reducible assumption
    | with_reducible exact rfl
    | with_reducible apply State.serve_keeps
    | with_reducible apply Keeps.ite
    | split
    | (intro s' hs'; try dsimp only)
    | dsimp only

theorem execStreamPacket_keeps {s₀ s t : State} {port : Nat} {frame : List Byte} (e : execStreamPacket port frame s = .next t) (h₀ : Keeps s₀ s) : Keeps s₀ t := by
  obtain rfl := Host.Outcome.next.inj e
  clear e
  repeat' first
    | with_reducible assumption
    | with_reducible exact rfl
    | with_reducible apply State.serve_keeps
    | with_reducible apply Keeps.ite
    | split
    | (intro s' hs'; try dsimp only)
    | dsimp only

theorem execHerdRxPost_keeps {s₀ s t : State} {ring : Nat} (e : execHerdRxPost ring s = .next t) (h₀ : Keeps s₀ s) : Keeps s₀ t := by
  obtain rfl := Host.Outcome.next.inj e
  clear e
  repeat' first
    | with_reducible assumption
    | with_reducible exact rfl
    | with_reducible apply State.putRxBufs_keeps
    | with_reducible apply State.putHerd_keeps
    | with_reducible apply State.finish_keeps
    | with_reducible apply State.take_keeps
    | with_reducible apply Keeps.ite
    | split
    | (intro s' hs'; try dsimp only)
    | dsimp only

theorem State.holdDrop_keeps {s₀ s : State} {p : Nat} {ring : Nat} {id : Nat} (h₀ : Keeps s₀ s) : Keeps s₀ (State.holdDrop s p ring id) := by
  unfold State.holdDrop
  repeat' first
    | with_reducible assumption
    | with_reducible exact rfl
    | with_reducible apply State.finish_keeps
    | with_reducible apply State.bump_keeps
    | with_reducible apply Keeps.ite
    | split
    | (intro s' hs'; try dsimp only)
    | dsimp only

theorem State.takeMessage_keeps {s₀ s : State} {p : Nat} {ring : Nat} {q : Req} (h₀ : Keeps s₀ s) : Keeps s₀ (State.takeMessage s p ring q) := by
  unfold State.takeMessage
  dsimp only
  repeat' first
    | with_reducible assumption
    | with_reducible exact rfl
    | with_reducible apply State.holdFrame_keeps
    | with_reducible apply State.holdDrop_keeps
    | with_reducible apply State.dmaRead_keeps
    | with_reducible apply State.putHerd_keeps
    | with_reducible apply State.finish_keeps
    | with_reducible apply State.take_keeps
    | exact tableOk_tset _ _
    | (with_reducible apply State.dmaRead_keeps_eq; with_reducible assumption)
    | with_reducible apply Keeps.ite
    | split
    | (intro s' hs'; try dsimp only)
    | dsimp only

theorem execHerdTx_keeps {s₀ s t : State} {ring : Nat} (e : execHerdTx ring s = .next t) (h₀ : Keeps s₀ s) : Keeps s₀ t := by
  obtain rfl := Host.Outcome.next.inj e
  clear e
  repeat' first
    | with_reducible assumption
    | with_reducible exact rfl
    | with_reducible apply State.takeMessage_keeps
    | with_reducible apply State.holdFrame_keeps
    | with_reducible apply State.holdDrop_keeps
    | with_reducible apply State.enqueue_keeps
    | with_reducible apply State.dmaRead_keeps
    | with_reducible apply State.finish_keeps
    | with_reducible apply State.take_keeps
    | (with_reducible apply State.dmaRead_keeps_eq; with_reducible assumption)
    | with_reducible apply Keeps.ite
    | split
    | (intro s' hs'; try dsimp only)
    | dsimp only

theorem State.sendMsg_keeps {s₀ s : State} {p : Nat} {m : RcMsg} (h₀ : Keeps s₀ s) : Keeps s₀ (State.sendMsg s p m) := by
  unfold State.sendMsg
  dsimp only
  repeat' first
    | with_reducible assumption
    | with_reducible exact rfl
    | with_reducible apply State.putHerd_keeps
    | with_reducible apply Keeps.ite
    | split
    | (intro s' hs'; try dsimp only)
    | dsimp only

theorem State.readEnt_keeps {s₀ s : State} {e : TxEnt} {ok : Bool} (h₀ : Keeps s₀ s) : Keeps s₀ (State.readEnt s e ok).1 := by
  unfold State.readEnt
  repeat' first
    | with_reducible assumption
    | with_reducible exact rfl
    | with_reducible apply State.fetchFrame_keeps
    | with_reducible apply State.finish_keeps
    | (with_reducible apply State.fetchFrame_keeps_eq; with_reducible assumption)
    | with_reducible apply Keeps.ite
    | split
    | (intro s' hs'; try dsimp only)
    | dsimp only

theorem State.readEnt_keeps_eq {s₀ s t : State} {y : Option (TxEnt × List Byte)} {e : TxEnt} {ok : Bool}  (e : State.readEnt s e ok  = (t, y)) (h₀ : Keeps s₀ s) : Keeps s₀ t :=
  Keeps.fst e (State.readEnt_keeps h₀)

theorem State.takeCand_keeps {s₀ s : State} {p : Nat} {c : Cand} {ok : Bool} (h₀ : Keeps s₀ s) : Keeps s₀ (State.takeCand s p c ok).1 := by
  unfold State.takeCand
  dsimp only
  repeat' first
    | with_reducible assumption
    | with_reducible exact rfl
    | with_reducible apply State.putStream_keeps
    | with_reducible apply State.packetOf_keeps
    | with_reducible apply State.dropMsg_keeps
    | with_reducible apply State.sendMsg_keeps
    | with_reducible apply State.putHerd_keeps
    | with_reducible apply State.readEnt_keeps
    | with_reducible apply State.putRcRx_keeps
    | with_reducible apply State.finish_keeps
    | with_reducible apply State.putTx_keeps
    | with_reducible apply State.bump_keeps
    | (with_reducible apply State.packetOf_keeps_eq; with_reducible assumption)
    | (with_reducible apply State.readEnt_keeps_eq; with_reducible assumption)
    | with_reducible apply Keeps.ite
    | split
    | (intro s' hs'; try dsimp only)
    | dsimp only

theorem State.takeCand_keeps_eq {s₀ s t : State} {y : Option (TxEnt × List Byte)} {p : Nat} {c : Cand} {ok : Bool}  (e : State.takeCand s p c ok  = (t, y)) (h₀ : Keeps s₀ s) : Keeps s₀ t :=
  Keeps.fst e (State.takeCand_keeps h₀)

theorem execHerdTxStart_keeps {s₀ s t : State} {port : Nat} {ok : Bool} (e : execHerdTxStart port ok s = .next t) (h₀ : Keeps s₀ s) : Keeps s₀ t := by
  obtain rfl := Host.Outcome.next.inj e
  clear e
  repeat' first
    | with_reducible assumption
    | with_reducible exact rfl
    | with_reducible apply State.startFrame_keeps
    | with_reducible apply State.takeCand_keeps
    | with_reducible apply State.putTx_keeps
    | (with_reducible apply State.takeCand_keeps_eq; with_reducible assumption)
    | with_reducible apply Keeps.ite
    | split
    | (intro s' hs'; try dsimp only)
    | dsimp only

theorem execBeaconSend_keeps {s₀ s t : State} {port : Nat} {txOffset : BitVec 32} (e : execBeaconSend port txOffset s = .next t) (h₀ : Keeps s₀ s) : Keeps s₀ t := by
  obtain rfl := Host.Outcome.next.inj e
  clear e
  repeat' first
    | with_reducible assumption
    | with_reducible exact rfl
    | with_reducible apply State.releaseHeld_keeps
    | with_reducible apply State.putHerd_keeps
    | with_reducible apply State.putCow_keeps
    | with_reducible apply State.bump_keeps
    | with_reducible apply Keeps.ite
    | split
    | (intro s' hs'; try dsimp only)
    | dsimp only

theorem State.herdSent_keeps {s₀ s : State} {p : Nat} (h₀ : Keeps s₀ s) : Keeps s₀ (State.herdSent s p) := by
  unfold State.herdSent
  repeat' first
    | with_reducible assumption
    | with_reducible exact rfl
    | with_reducible apply State.lineEnd_keeps
    | with_reducible apply State.macBump_keeps
    | with_reducible apply State.endMsg_keeps
    | with_reducible apply State.finish_keeps
    | (with_reducible apply State.lineEnd_keeps_eq; with_reducible assumption)
    | with_reducible apply Keeps.ite
    | split
    | (intro s' hs'; try dsimp only)
    | dsimp only

theorem State.txGone_keeps {s₀ s : State} {g : Nat} {id : Nat} {w : Nat × Nat × Bool} (h₀ : Keeps s₀ s) : Keeps s₀ (State.txGone s g id w) := by
  unfold State.txGone
  dsimp only
  repeat' first
    | with_reducible assumption
    | with_reducible exact rfl
    | with_reducible apply State.boundary_keeps
    | with_reducible apply State.putTx_keeps
    | with_reducible apply Keeps.ite
    | split
    | (intro s' hs'; try dsimp only)
    | dsimp only

theorem State.voidStep_keeps {s₀ s : State} {m : Nat} {g : Nat} {id : Nat} (h₀ : Keeps s₀ s) : Keeps s₀ (State.voidStep s m g id) := by
  unfold State.voidStep
  dsimp only
  repeat' first
    | with_reducible assumption
    | with_reducible exact rfl
    | with_reducible apply State.putModel_keeps
    | with_reducible apply Keeps.ite
    | split
    | (intro s' hs'; try dsimp only)
    | dsimp only

theorem execDmaTimeout_keeps {s₀ s t : State} {ring : Nat} {id : Nat} (e : execDmaTimeout ring id s = .next t) (h₀ : Keeps s₀ s) : Keeps s₀ t := by
  obtain rfl := Host.Outcome.next.inj e
  clear e
  repeat' first
    | with_reducible assumption
    | with_reducible exact rfl
    | with_reducible apply State.voidStep_keeps
    | with_reducible apply State.txGone_keeps
    | with_reducible apply State.finish_keeps
    | with_reducible apply State.setCmt_keeps
    | with_reducible apply Keeps.ite
    | split
    | (intro s' hs'; try dsimp only)
    | dsimp only

theorem execNetTxDone_keeps {s₀ s t : State} {port : Nat} {frac : BitVec 32} (e : execNetTxDone port frac s = .next t) (h₀ : Keeps s₀ s) : Keeps s₀ t := by
  obtain rfl := Host.Outcome.next.inj e
  clear e
  repeat' first
    | with_reducible assumption
    | with_reducible exact rfl
    | with_reducible apply State.herdSent_keeps
    | with_reducible apply State.netSent_keeps
    | with_reducible apply Keeps.ite
    | split
    | (intro s' hs'; try dsimp only)
    | dsimp only

end Sys2Proof.Machine
end

