-- ==== Sys2Proof/Laws/KeepsCores.lean ====
section
/-! SUPPORT. Laws/KeepsCores.lean: what the operations of Machine/Cores.lean keep (Laws/Keeps.lean), one lemma each. -/

namespace Sys2Proof.Machine

theorem State.ddrUncorr_keeps {s₀ s : State} {a : Nat} (h₀ : Keeps s₀ s) : Keeps s₀ (State.ddrUncorr s a) := by
  unfold State.ddrUncorr
  dsimp only
  repeat' first
    | with_reducible assumption
    | with_reducible exact rfl
    | with_reducible apply State.plicGates_keeps
    | with_reducible apply State.setCc_keeps
    | with_reducible apply State.post0_keeps
    | with_reducible apply Keeps.ite
    | split
    | (intro s' hs'; try dsimp only)
    | dsimp only

theorem State.ddrCorr_keeps {s₀ s : State} (h₀ : Keeps s₀ s) : Keeps s₀ (State.ddrCorr s) := by
  unfold State.ddrCorr
  repeat' first
    | with_reducible assumption
    | with_reducible exact rfl
    | with_reducible apply State.plicGates_keeps
    | with_reducible apply State.setCc_keeps
    | with_reducible apply Keeps.ite
    | split
    | (intro s' hs'; try dsimp only)
    | dsimp only

theorem State.l2Uncorr_keeps {s₀ s : State} {slice : Nat} (h₀ : Keeps s₀ s) : Keeps s₀ (State.l2Uncorr s slice) := by
  unfold State.l2Uncorr
  dsimp only
  repeat' first
    | with_reducible assumption
    | with_reducible exact rfl
    | with_reducible apply State.plicGates_keeps
    | with_reducible apply State.setCc_keeps
    | with_reducible apply State.post0_keeps
    | with_reducible apply Keeps.ite
    | split
    | (intro s' hs'; try dsimp only)
    | dsimp only

theorem State.lineCheck_keeps {s₀ s : State} {line : Nat} {e : Ecc} (h₀ : Keeps s₀ s) : Keeps s₀ (State.lineCheck s line e) := by
  unfold State.lineCheck
  dsimp only
  repeat' first
    | with_reducible assumption
    | with_reducible exact rfl
    | with_reducible apply State.ddrUncorr_keeps
    | with_reducible apply State.l2Uncorr_keeps
    | with_reducible apply State.putLineC_keeps
    | with_reducible apply State.ddrCorr_keeps
    | with_reducible apply State.setCc_keeps
    | with_reducible apply Keeps.ite
    | split
    | (intro s' hs'; try dsimp only)
    | dsimp only

theorem State.coreFault_keeps {s₀ s : State} {c : Nat} {cause : Nat} (h₀ : Keeps s₀ s) : Keeps s₀ (State.coreFault s c cause) := by
  unfold State.coreFault
  repeat' first
    | with_reducible assumption
    | with_reducible exact rfl
    | with_reducible apply State.putCore_keeps
    | with_reducible apply Keeps.ite
    | split
    | (intro s' hs'; try dsimp only)
    | dsimp only

theorem State.coreRefused_keeps {s₀ s : State} {master : Nat} {func : Nat} {a : Nat} {kind : Nat} {cause : Nat} {write : Bool} (h₀ : Keeps s₀ s) : Keeps s₀ (State.coreRefused s master func a kind cause write) := by
  unfold State.coreRefused
  dsimp only
  repeat' first
    | with_reducible assumption
    | with_reducible exact rfl
    | with_reducible apply State.coreFault_keeps
    | with_reducible apply State.capture_keeps
    | with_reducible apply Keeps.ite
    | split
    | (intro s' hs'; try dsimp only)
    | dsimp only

theorem State.pick_keeps {s₀ s : State} {held : List Nat} {ways : Nat} {victim : Option Nat} (h₀ : Keeps s₀ s) : Keeps s₀ (State.pick s held ways victim).1 := by
  unfold State.pick
  dsimp only
  repeat' first
    | with_reducible assumption
    | with_reducible exact rfl
    | with_reducible apply State.draw_keeps
    | (with_reducible apply State.draw_keeps_eq; with_reducible assumption)
    | with_reducible apply Keeps.ite
    | split
    | (intro s' hs'; try dsimp only)
    | dsimp only

theorem State.pick_keeps_eq {s₀ s t : State} {y : Option Nat} {held : List Nat} {ways : Nat} {victim : Option Nat}  (e : State.pick s held ways victim  = (t, y)) (h₀ : Keeps s₀ s) : Keeps s₀ t :=
  Keeps.fst e (State.pick_keeps h₀)

theorem State.l2Evict_keeps {s₀ s : State} {line : Nat} (h₀ : Keeps s₀ s) : Keeps s₀ (State.l2Evict s line) := by
  unfold State.l2Evict
  dsimp only
  repeat' first
    | with_reducible assumption
    | with_reducible exact rfl
    | with_reducible apply State.absorbWb_keeps
    | with_reducible apply State.loseResv_keeps
    | with_reducible apply State.putLineC_keeps
    | with_reducible apply State.setMem_keeps
    | with_reducible apply State.snoop_keeps
    | exact wf_memPut _ _
    | with_reducible apply Keeps.ite
    | split
    | (intro s' hs'; try dsimp only)
    | dsimp only

theorem State.l2Room_keeps {s₀ s : State} {line : Nat} (h₀ : Keeps s₀ s) : Keeps s₀ (State.l2Room s line) := by
  unfold State.l2Room
  repeat' first
    | with_reducible assumption
    | with_reducible exact rfl
    | with_reducible apply State.l2Evict_keeps
    | with_reducible apply State.pick_keeps
    | (with_reducible apply State.pick_keeps_eq; with_reducible assumption)
    | with_reducible apply Keeps.ite
    | split
    | (intro s' hs'; try dsimp only)
    | dsimp only

theorem State.evict_keeps {s₀ s t : State} {c line : Nat} {victim : Option Nat} (e : s.evict c line victim = some t)
 (h₀ : Keeps s₀ s) : Keeps s₀ t := by
  unfold State.evict at e
  have hp := State.pick_keeps (held := s.dLines c line) (ways := 8) (victim := victim) h₀
  generalize s.pick (s.dLines c line) 8 victim = p at e hp
  obtain ⟨u, _ | v⟩ := p
  · exact Option.some.inj e ▸ hp
  · dsimp only at e hp
    repeat' split at e
    all_goals first
      | contradiction
      | (obtain rfl := Option.some.inj e
         repeat' first
          | with_reducible assumption
          | with_reducible apply State.putCore_keeps
          | with_reducible apply State.putLineC_keeps)

theorem State.ievict_keeps {s₀ s : State} {c : Nat} {line : Nat} {victim : Option Nat} (h₀ : Keeps s₀ s) : Keeps s₀ (State.ievict s c line victim) := by
  unfold State.ievict
  repeat' first
    | with_reducible assumption
    | with_reducible exact rfl
    | with_reducible apply State.putLineC_keeps
    | with_reducible apply State.pick_keeps
    | (with_reducible apply State.pick_keeps_eq; with_reducible assumption)
    | with_reducible apply Keeps.ite
    | split
    | (intro s' hs'; try dsimp only)
    | dsimp only

theorem State.fillL2_keeps {s₀ s : State} {line : Nat} (h₀ : Keeps s₀ s) : Keeps s₀ (State.fillL2 s line) := by
  unfold State.fillL2
  dsimp only
  repeat' first
    | with_reducible assumption
    | with_reducible exact rfl
    | with_reducible apply State.absorbWb_keeps
    | with_reducible apply State.putLineC_keeps
    | with_reducible apply State.l2Room_keeps
    | with_reducible apply Keeps.ite
    | split
    | (intro s' hs'; try dsimp only)
    | dsimp only

theorem State.poisonTrap_keeps {s₀ s : State} {c : Nat} {line : Nat} {cause : Nat} (h₀ : Keeps s₀ s) : Keeps s₀ (State.poisonTrap s c line cause) := by
  unfold State.poisonTrap
  repeat' first
    | with_reducible assumption
    | with_reducible exact rfl
    | with_reducible apply State.coreFault_keeps
    | with_reducible apply Keeps.ite
    | split
    | (intro s' hs'; try dsimp only)
    | dsimp only

theorem State.readShared_keeps {s₀ s : State} {c : Nat} {line : Nat} {kind : ReadKind} {e : Ecc} (h₀ : Keeps s₀ s) : Keeps s₀ (State.readShared s c line kind e) := by
  unfold State.readShared
  dsimp only
  repeat' first
    | with_reducible assumption
    | with_reducible exact rfl
    | with_reducible apply State.poisonTrap_keeps
    | with_reducible apply State.lineCheck_keeps
    | with_reducible apply State.putLineC_keeps
    | with_reducible apply State.putCore_keeps
    | with_reducible apply State.fillL2_keeps
    | with_reducible apply State.hpm_keeps
    | with_reducible refine Keeps.foldl _ (fun s x hs => ?_) ?_
    | with_reducible refine Keeps.foldl1 _ (fun s x hs => ?_) ?_
    | with_reducible apply Keeps.ite
    | split
    | (intro s' hs'; try dsimp only)
    | dsimp only

theorem State.storeM_keeps {s₀ s : State} {c : Nat} {line : Nat} {off : Nat} {bytes : List Byte} {kind : StoreKind} (h₀ : Keeps s₀ s) : Keeps s₀ (State.storeM s c line off bytes kind) := by
  unfold State.storeM
  dsimp only
  repeat' first
    | with_reducible assumption
    | with_reducible exact rfl
    | with_reducible apply State.coreFault_keeps
    | with_reducible apply State.putLineC_keeps
    | with_reducible apply State.putCore_keeps
    | exact tableOk_tset _ _
    | with_reducible apply Keeps.ite
    | split
    | (intro s' hs'; try dsimp only)
    | dsimp only

theorem State.grantM_keeps {s₀ s : State} {c : Nat} {line : Nat} {off : Nat} {bytes : List Byte} {kind : StoreKind} (h₀ : Keeps s₀ s) : Keeps s₀ (State.grantM s c line off bytes kind) := by
  unfold State.grantM
  dsimp only
  repeat' first
    | with_reducible assumption
    | with_reducible exact rfl
    | with_reducible apply State.loseResv_keeps
    | with_reducible apply State.putLineC_keeps
    | with_reducible apply State.fillL2_keeps
    | with_reducible apply State.storeM_keeps
    | with_reducible apply State.snoop_keeps
    | exact tableOk_tset _ _
    | with_reducible apply Keeps.ite
    | split
    | (intro s' hs'; try dsimp only)
    | dsimp only

theorem State.grantOwner_keeps {s₀ s : State} {line : Nat} {r : Rival} (h₀ : Keeps s₀ s) : Keeps s₀ (State.grantOwner s line r) := by
  unfold State.grantOwner
  repeat' first
    | with_reducible assumption
    | with_reducible exact rfl
    | with_reducible apply State.busWrite_keeps
    | with_reducible apply State.grantM_keeps
    | with_reducible apply Keeps.ite
    | split
    | (intro s' hs'; try dsimp only)
    | dsimp only

theorem State.arbitrate_keeps {s₀ s : State} {line : Nat} {rs : List Rival} (h₀ : Keeps s₀ s) : Keeps s₀ (State.arbitrate s line rs) := by
  unfold State.arbitrate
  dsimp only
  repeat' first
    | with_reducible assumption
    | with_reducible exact rfl
    | with_reducible apply State.grantOwner_keeps
    | with_reducible apply State.putLineC_keeps
    | with_reducible apply State.setCc_keeps
    | exact tableOk_tset _ _
    | with_reducible apply Keeps.ite
    | split
    | (intro s' hs'; try dsimp only)
    | dsimp only

theorem State.replay_keeps {s₀ s : State} {line : Nat} (h₀ : Keeps s₀ s) : Keeps s₀ (State.replay s line) := by
  unfold State.replay
  dsimp only
  repeat' first
    | with_reducible assumption
    | with_reducible exact rfl
    | with_reducible apply State.grantOwner_keeps
    | with_reducible apply State.putLineC_keeps
    | with_reducible apply State.hpm_keeps
    | with_reducible apply Keeps.ite
    | split
    | (intro s' hs'; try dsimp only)
    | dsimp only

theorem State.replays_keeps {s₀ s : State} {line : Nat} (h₀ : Keeps s₀ s) : Keeps s₀ (State.replays s line) := by
  unfold State.replays
  repeat' first
    | with_reducible assumption
    | with_reducible exact rfl
    | with_reducible apply State.replay_keeps
    | with_reducible refine Keeps.foldl _ (fun s x hs => ?_) ?_
    | with_reducible refine Keeps.foldl1 _ (fun s x hs => ?_) ?_
    | with_reducible apply Keeps.ite
    | split
    | (intro s' hs'; try dsimp only)
    | dsimp only

theorem State.ownRefused_keeps {s₀ s : State} {line : Nat} {kind : Nat} {rs : List Rival} (h₀ : Keeps s₀ s) : Keeps s₀ (State.ownRefused s line kind rs) := by
  unfold State.ownRefused
  repeat' first
    | with_reducible assumption
    | with_reducible exact rfl
    | with_reducible apply State.coreRefused_keeps
    | with_reducible refine Keeps.foldl _ (fun s x hs => ?_) ?_
    | with_reducible refine Keeps.foldl1 _ (fun s x hs => ?_) ?_
    | with_reducible apply Keeps.ite
    | split
    | (intro s' hs'; try dsimp only)
    | dsimp only

theorem execReadShared_keeps {s₀ s t : State} {core : Nat} {loc : LineLoc} {kind : ReadKind} {ecc : Ecc} {victim : Option Nat}
    (e : execReadShared core loc kind ecc victim s = .next t) (h₀ : Keeps s₀ s) : Keeps s₀ t := by
  obtain rfl := Host.Outcome.next.inj e
  have hk : ∀ u, (if kind = .fetch then some (s.ievict core loc.line victim) else s.evict core loc.line victim) = some u → Keeps s₀ u := by
    intro u hu
    split at hu
    · exact Option.some.inj hu ▸ State.ievict_keeps h₀
    · exact State.evict_keeps hu h₀
  repeat' first
    | with_reducible assumption
    | with_reducible apply State.readShared_keeps
    | with_reducible apply State.coreRefused_keeps
    | with_reducible apply State.coreFault_keeps
    | with_reducible apply State.replays_keeps
    | with_reducible apply Keeps.ite
    | (with_reducible apply hk; with_reducible assumption)
    | split

theorem execReadUnique_keeps {s₀ s t : State} {core : Nat} {loc : LineLoc} {bytes : List Byte} {kind : StoreKind} {ecc : Ecc} {victim : Option Nat} {rivals : List Rival} (e : execReadUnique core loc bytes kind ecc victim rivals s = .next t) (h₀ : Keeps s₀ s) : Keeps s₀ t := by
  obtain rfl := Host.Outcome.next.inj e
  clear e
  repeat' first
    | with_reducible assumption
    | with_reducible exact rfl
    | with_reducible apply State.ownRefused_keeps
    | with_reducible apply State.coreFault_keeps
    | with_reducible apply State.lineCheck_keeps
    | with_reducible apply State.arbitrate_keeps
    | (with_reducible apply State.evict_keeps; with_reducible assumption)
    | with_reducible apply State.hpm_keeps
    | with_reducible apply Keeps.ite
    | split
    | (intro s' hs'; try dsimp only)
    | dsimp only

theorem State.storeHit_keeps {s₀ s : State} {c : Nat} {line : Nat} {off : Nat} {bytes : List Byte} {kind : StoreKind} (h₀ : Keeps s₀ s) : Keeps s₀ (State.storeHit s c line off bytes kind) := by
  unfold State.storeHit
  dsimp only
  repeat' first
    | with_reducible assumption
    | with_reducible exact rfl
    | with_reducible apply State.putLineC_keeps
    | with_reducible apply State.storeM_keeps
    | with_reducible apply Keeps.ite
    | split
    | (intro s' hs'; try dsimp only)
    | dsimp only

theorem execUpgrade_keeps {s₀ s t : State} {core : Nat} {loc : LineLoc} {bytes : List Byte} {kind : StoreKind} {ecc : Ecc} {rivals : List Rival} (e : execUpgrade core loc bytes kind ecc rivals s = .next t) (h₀ : Keeps s₀ s) : Keeps s₀ t := by
  obtain rfl := Host.Outcome.next.inj e
  clear e
  repeat' first
    | with_reducible assumption
    | with_reducible exact rfl
    | with_reducible apply State.ownRefused_keeps
    | with_reducible apply State.coreFault_keeps
    | with_reducible apply State.arbitrate_keeps
    | with_reducible apply State.lineCheck_keeps
    | with_reducible apply State.storeHit_keeps
    | with_reducible apply Keeps.ite
    | split
    | (intro s' hs'; try dsimp only)
    | dsimp only

theorem execReplay_keeps {s₀ s t : State} {line : Nat} (e : execReplay line s = .next t) (h₀ : Keeps s₀ s) : Keeps s₀ t := by
  obtain rfl := Host.Outcome.next.inj e
  clear e
  repeat' first
    | with_reducible assumption
    | with_reducible exact rfl
    | with_reducible apply State.replay_keeps
    | with_reducible apply Keeps.ite
    | split
    | (intro s' hs'; try dsimp only)
    | dsimp only

theorem execCleanEvict_keeps {s₀ s t : State} {core : Nat} {line : Nat} (e : execCleanEvict core line s = .next t) (h₀ : Keeps s₀ s) : Keeps s₀ t := by
  obtain rfl := Host.Outcome.next.inj e
  clear e
  repeat' first
    | with_reducible assumption
    | with_reducible exact rfl
    | with_reducible apply State.putLineC_keeps
    | with_reducible apply Keeps.ite
    | split
    | (intro s' hs'; try dsimp only)
    | dsimp only

theorem State.writeBack_keeps {s₀ s : State} {c : Nat} {k : Nat} (h₀ : Keeps s₀ s) : Keeps s₀ (State.writeBack s c k) := by
  unfold State.writeBack
  dsimp only
  repeat' first
    | with_reducible assumption
    | with_reducible exact rfl
    | with_reducible apply State.putLineC_keeps
    | with_reducible apply State.putCore_keeps
    | with_reducible apply State.setCc_keeps
    | with_reducible apply State.hpm_keeps
    | with_reducible apply Keeps.ite
    | split
    | (intro s' hs'; try dsimp only)
    | dsimp only

theorem execWriteBack_keeps {s₀ s t : State} {core : Nat} {entry : Nat} (e : execWriteBack core entry s = .next t) (h₀ : Keeps s₀ s) : Keeps s₀ t := by
  obtain rfl := Host.Outcome.next.inj e
  clear e
  repeat' first
    | with_reducible assumption
    | with_reducible exact rfl
    | with_reducible apply State.writeBack_keeps
    | with_reducible apply Keeps.ite
    | split
    | (intro s' hs'; try dsimp only)
    | dsimp only

theorem State.evictWait_keeps {s₀ s : State} {c : Nat} {line : Nat} (h₀ : Keeps s₀ s) : Keeps s₀ (State.evictWait s c line) := by
  unfold State.evictWait
  dsimp only
  repeat' first
    | with_reducible assumption
    | with_reducible exact rfl
    | with_reducible apply State.writeBack_keeps
    | (with_reducible apply State.evict_keeps; with_reducible assumption)
    | with_reducible apply Keeps.ite
    | split
    | (intro s' hs'; try dsimp only)
    | dsimp only

theorem State.coreLoad_keeps {s₀ s : State} {c : Nat} {line : Nat} {lr : Bool} {e : Ecc} (h₀ : Keeps s₀ s) : Keeps s₀ (State.coreLoad s c line lr e) := by
  unfold State.coreLoad
  dsimp only
  repeat' first
    | with_reducible assumption
    | with_reducible exact rfl
    | with_reducible apply State.readShared_keeps
    | with_reducible apply State.poisonTrap_keeps
    | with_reducible apply State.evictWait_keeps
    | with_reducible apply State.putLineC_keeps
    | with_reducible apply State.replays_keeps
    | with_reducible apply State.putCore_keeps
    | with_reducible apply Keeps.ite
    | split
    | (intro s' hs'; try dsimp only)
    | dsimp only

theorem State.coreFetch_keeps {s₀ s : State} {c : Nat} {line : Nat} {e : Ecc} (h₀ : Keeps s₀ s) : Keeps s₀ (State.coreFetch s c line e) := by
  unfold State.coreFetch
  dsimp only
  repeat' first
    | with_reducible assumption
    | with_reducible exact rfl
    | with_reducible apply State.poisonTrap_keeps
    | with_reducible apply State.readShared_keeps
    | with_reducible apply State.putCore_keeps
    | with_reducible apply State.replays_keeps
    | with_reducible apply State.ievict_keeps
    | with_reducible apply Keeps.ite
    | split
    | (intro s' hs'; try dsimp only)
    | dsimp only

theorem State.coreStore_keeps {s₀ s : State} {c : Nat} {line : Nat} {off : Nat} {bytes : List Byte} {kind : StoreKind} {e : Ecc} (h₀ : Keeps s₀ s) : Keeps s₀ (State.coreStore s c line off bytes kind e) := by
  unfold State.coreStore
  dsimp only
  repeat' first
    | with_reducible assumption
    | with_reducible exact rfl
    | with_reducible apply State.evictWait_keeps
    | with_reducible apply State.lineCheck_keeps
    | with_reducible apply State.storeHit_keeps
    | with_reducible apply State.replays_keeps
    | with_reducible apply State.grantM_keeps
    | with_reducible apply State.hpm_keeps
    | with_reducible apply Keeps.ite
    | split
    | (intro s' hs'; try dsimp only)
    | dsimp only

theorem execIoRead_keeps {s₀ s t : State} {port : IoMaster} {line : Nat} {ecc : Ecc} (e : execIoRead port line ecc s = .next t) (h₀ : Keeps s₀ s) : Keeps s₀ t := by
  obtain rfl := Host.Outcome.next.inj e
  clear e
  repeat' first
    | with_reducible assumption
    | with_reducible exact rfl
    | with_reducible apply State.lineCheck_keeps
    | with_reducible apply State.absorbWb_keeps
    | with_reducible apply State.putLineC_keeps
    | with_reducible apply State.capture_keeps
    | with_reducible apply State.replays_keeps
    | with_reducible apply State.setCc_keeps
    | with_reducible apply State.hpm_keeps
    | with_reducible apply Keeps.ite
    | split
    | (intro s' hs'; try dsimp only)
    | dsimp only

theorem execIoWrite_keeps {s₀ s t : State} {port : IoMaster} {line : Nat} {off : Nat} {bytes : List Byte} (e : execIoWrite port line off bytes s = .next t) (h₀ : Keeps s₀ s) : Keeps s₀ t := by
  obtain rfl := Host.Outcome.next.inj e
  clear e
  repeat' first
    | with_reducible assumption
    | with_reducible exact rfl
    | with_reducible apply State.arbitrate_keeps
    | with_reducible apply State.capture_keeps
    | with_reducible apply Keeps.ite
    | split
    | (intro s' hs'; try dsimp only)
    | dsimp only

theorem execPatrolScrub_keeps {s₀ s t : State} {ecc : Ecc} (e : execPatrolScrub ecc s = .next t) (h₀ : Keeps s₀ s) : Keeps s₀ t := by
  obtain rfl := Host.Outcome.next.inj e
  clear e
  repeat' first
    | with_reducible assumption
    | with_reducible exact rfl
    | with_reducible apply State.ddrUncorr_keeps
    | with_reducible apply State.putLineC_keeps
    | with_reducible apply State.ddrCorr_keeps
    | with_reducible apply State.setCc_keeps
    | with_reducible apply Keeps.ite
    | split
    | (intro s' hs'; try dsimp only)
    | dsimp only

theorem execMr4Poll_keeps {s₀ s t : State} {code : BitVec 4} (e : execMr4Poll code s = .next t) (h₀ : Keeps s₀ s) : Keeps s₀ t := by
  obtain rfl := Host.Outcome.next.inj e
  clear e
  repeat' first
    | with_reducible assumption
    | with_reducible exact rfl
    | with_reducible apply State.setCc_keeps
    | with_reducible apply Keeps.ite
    | split
    | (intro s' hs'; try dsimp only)
    | dsimp only

theorem State.writeMemErr_keeps {s₀ s : State} {v : BitVec 32} (h₀ : Keeps s₀ s) : Keeps s₀ (State.writeMemErr s v) := by
  unfold State.writeMemErr
  dsimp only
  repeat' first
    | with_reducible assumption
    | with_reducible exact rfl
    | with_reducible apply State.setCc_keeps
    | with_reducible apply Keeps.ite
    | split
    | (intro s' hs'; try dsimp only)
    | dsimp only

theorem execMachineTimer_keeps {s₀ s t : State} {core : Nat} {slot : Nat} (e : execMachineTimer core slot s = .next t) (h₀ : Keeps s₀ s) : Keeps s₀ t := by
  obtain rfl := Host.Outcome.next.inj e
  clear e
  repeat' first
    | with_reducible assumption
    | with_reducible exact rfl
    | with_reducible apply State.atSlot_keeps
    | with_reducible apply State.setCc_keeps
    | (with_reducible apply State.atSlot_keeps_eq; with_reducible assumption)
    | with_reducible apply Keeps.ite
    | split
    | (intro s' hs'; try dsimp only)
    | dsimp only

theorem State.complete_keeps {s₀ s : State} {ctx : Nat} {src : Nat} (h₀ : Keeps s₀ s) : Keeps s₀ (State.complete s ctx src) := by
  unfold State.complete
  repeat' first
    | with_reducible assumption
    | with_reducible exact rfl
    | with_reducible apply State.plicGates_keeps
    | with_reducible apply State.setCc_keeps
    | with_reducible apply Keeps.ite
    | split
    | (intro s' hs'; try dsimp only)
    | dsimp only

theorem execPlicClaim_keeps {s₀ s t : State} {ctx : Nat} (e : execPlicClaim ctx s = .next t) (h₀ : Keeps s₀ s) : Keeps s₀ t := by
  obtain rfl := Host.Outcome.next.inj e
  clear e
  repeat' first
    | with_reducible assumption
    | with_reducible exact rfl
    | with_reducible apply State.claim_keeps
    | with_reducible apply Keeps.ite
    | split
    | (intro s' hs'; try dsimp only)
    | dsimp only

theorem execPlicComplete_keeps {s₀ s t : State} {ctx : Nat} {src : Nat} (e : execPlicComplete ctx src s = .next t) (h₀ : Keeps s₀ s) : Keeps s₀ t := by
  obtain rfl := Host.Outcome.next.inj e
  clear e
  repeat' first
    | with_reducible assumption
    | with_reducible exact rfl
    | with_reducible apply State.complete_keeps
    | with_reducible apply Keeps.ite
    | split
    | (intro s' hs'; try dsimp only)
    | dsimp only

theorem State.cleanLine_keeps {s₀ s : State} {c : Nat} {line : Nat} (h₀ : Keeps s₀ s) : Keeps s₀ (State.cleanLine s c line) := by
  unfold State.cleanLine
  dsimp only
  repeat' first
    | with_reducible assumption
    | with_reducible exact rfl
    | with_reducible apply State.putLineC_keeps
    | with_reducible apply Keeps.ite
    | split
    | (intro s' hs'; try dsimp only)
    | dsimp only

theorem State.cleanDcache_keeps {s₀ s : State} {c : Nat} (h₀ : Keeps s₀ s) : Keeps s₀ (State.cleanDcache s c) := by
  unfold State.cleanDcache
  dsimp only
  repeat' first
    | with_reducible assumption
    | with_reducible exact rfl
    | with_reducible apply State.writeBack_keeps
    | with_reducible apply State.cleanLine_keeps
    | with_reducible apply State.putCore_keeps
    | with_reducible refine Keeps.foldl _ (fun s x hs => ?_) ?_
    | with_reducible refine Keeps.foldl1 _ (fun s x hs => ?_) ?_
    | with_reducible apply Keeps.ite
    | split
    | (intro s' hs'; try dsimp only)
    | dsimp only

theorem State.dropIcache_keeps {s₀ s : State} {c : Nat} (h₀ : Keeps s₀ s) : Keeps s₀ (State.dropIcache s c) := by
  unfold State.dropIcache
  repeat' first
    | with_reducible assumption
    | with_reducible exact rfl
    | with_reducible apply State.putLineC_keeps
    | with_reducible refine Keeps.foldl _ (fun s x hs => ?_) ?_
    | with_reducible refine Keeps.foldl1 _ (fun s x hs => ?_) ?_
    | with_reducible apply Keeps.ite
    | split
    | (intro s' hs'; try dsimp only)
    | dsimp only

theorem execDcacheClean_keeps {s₀ s t : State} {core : Nat} (e : execDcacheClean core s = .next t) (h₀ : Keeps s₀ s) : Keeps s₀ t := by
  obtain rfl := Host.Outcome.next.inj e
  clear e
  repeat' first
    | with_reducible assumption
    | with_reducible exact rfl
    | with_reducible apply State.cleanDcache_keeps
    | with_reducible apply Keeps.ite
    | split
    | (intro s' hs'; try dsimp only)
    | dsimp only

theorem execIcacheInvalidate_keeps {s₀ s t : State} {core : Nat} (e : execIcacheInvalidate core s = .next t) (h₀ : Keeps s₀ s) : Keeps s₀ t := by
  obtain rfl := Host.Outcome.next.inj e
  clear e
  repeat' first
    | with_reducible assumption
    | with_reducible exact rfl
    | with_reducible apply State.dropIcache_keeps
    | with_reducible apply Keeps.ite
    | split
    | (intro s' hs'; try dsimp only)
    | dsimp only

theorem execKtickRead_keeps {s₀ s t : State} {core : Nat} {mode : BitVec 2} {slot : Nat} (e : execKtickRead core mode slot s = .next t) (h₀ : Keeps s₀ s) : Keeps s₀ t := by
  obtain rfl := Host.Outcome.next.inj e
  clear e
  repeat' first
    | with_reducible assumption
    | with_reducible exact rfl
    | with_reducible apply State.putCore_keeps
    | with_reducible apply State.atSlot_keeps
    | (with_reducible apply State.atSlot_keeps_eq; with_reducible assumption)
    | with_reducible apply Keeps.ite
    | split
    | (intro s' hs'; try dsimp only)
    | dsimp only

theorem State.dropCore_keeps {s₀ s : State} {c : Nat} (h₀ : Keeps s₀ s) : Keeps s₀ (State.dropCore s c) := by
  unfold State.dropCore
  dsimp only
  repeat' first
    | with_reducible assumption
    | with_reducible exact rfl
    | with_reducible apply State.putCore_keeps
    | with_reducible apply State.setCc_keeps
    | with_reducible apply Keeps.ite
    | split
    | (intro s' hs'; try dsimp only)
    | dsimp only

theorem State.flushL2_keeps {s₀ s : State} (h₀ : Keeps s₀ s) : Keeps s₀ (State.flushL2 s) := by
  unfold State.flushL2
  dsimp only
  repeat' first
    | with_reducible assumption
    | with_reducible exact rfl
    | with_reducible apply State.setMem_keeps
    | with_reducible apply State.setCc_keeps
    | with_reducible refine Keeps.foldl _ (fun s x hs => ?_) ?_
    | with_reducible refine Keeps.foldl1 _ (fun s x hs => ?_) ?_
    | exact wf_memPut _ _
    | exact tableOk_filter _
    | with_reducible apply Keeps.ite
    | split
    | (intro s' hs'; try dsimp only)
    | dsimp only

theorem State.dropL2_keeps {s₀ s : State} (h₀ : Keeps s₀ s) : Keeps s₀ (State.dropL2 s) := by
  unfold State.dropL2
  repeat' first
    | with_reducible assumption
    | with_reducible exact rfl
    | with_reducible apply State.setCc_keeps
    | with_reducible apply Keeps.ite
    | split
    | (intro s' hs'; try dsimp only)
    | dsimp only

end Sys2Proof.Machine
end

