-- ==== Sys2Proof/Laws/KeepsFlr.lean ====
section
/-! SUPPORT. Laws/KeepsFlr.lean: what the operations of Machine/Flr.lean keep (Laws/Keeps.lean), one lemma each. -/

namespace Sys2Proof.Machine

theorem State.abortTest_keeps {s₀ s : State} {t : TestRun} (h₀ : Keeps s₀ s) : Keeps s₀ (State.abortTest s t) := by
  unfold State.abortTest
  dsimp only
  repeat' first
    | with_reducible assumption
    | with_reducible exact rfl
    | with_reducible apply State.finishWrite_keeps
    | with_reducible apply State.setTests_keeps
    | with_reducible apply State.finish_keeps
    | with_reducible apply Keeps.ite
    | split
    | (intro s' hs'; try dsimp only)
    | dsimp only

theorem State.abortTests_keeps {s₀ s : State} {c : Nat} {i : Nat} (h₀ : Keeps s₀ s) : Keeps s₀ (State.abortTests s c i) := by
  unfold State.abortTests
  repeat' first
    | with_reducible assumption
    | with_reducible exact rfl
    | with_reducible apply State.abortTest_keeps
    | with_reducible refine Keeps.foldl _ (fun s x hs => ?_) ?_
    | with_reducible refine Keeps.foldl1 _ (fun s x hs => ?_) ?_
    | with_reducible apply Keeps.ite
    | split
    | (intro s' hs'; try dsimp only)
    | dsimp only

theorem State.dropModelReqs_keeps {s₀ s : State} {m : Nat} (h₀ : Keeps s₀ s) : Keeps s₀ (State.dropModelReqs s m) := by
  unfold State.dropModelReqs
  dsimp only
  repeat' first
    | with_reducible assumption
    | with_reducible exact rfl
    | with_reducible apply State.putModel_keeps
    | with_reducible apply Keeps.ite
    | split
    | (intro s' hs'; try dsimp only)
    | dsimp only

theorem State.haltModel_keeps {s₀ s : State} {m : Nat} (h₀ : Keeps s₀ s) : Keeps s₀ (State.haltModel s m) := by
  unfold State.haltModel
  repeat' first
    | with_reducible assumption
    | with_reducible exact rfl
    | with_reducible apply State.putModel_keeps
    | with_reducible apply Keeps.ite
    | split
    | (intro s' hs'; try dsimp only)
    | dsimp only

theorem State.abortUnit_keeps {s₀ s : State} {c : Nat} {i : Nat} (h₀ : Keeps s₀ s) : Keeps s₀ (State.abortUnit s c i) := by
  unfold State.abortUnit
  dsimp only
  repeat' first
    | with_reducible assumption
    | with_reducible exact rfl
    | with_reducible apply State.dropModelReqs_keeps
    | with_reducible apply State.dropTraffic_keeps
    | with_reducible apply State.abortTests_keeps
    | with_reducible apply State.putHerd_keeps
    | with_reducible apply State.finish_keeps
    | with_reducible apply State.setNv_keeps
    | with_reducible refine Keeps.foldl _ (fun s x hs => ?_) ?_
    | with_reducible refine Keeps.foldl1 _ (fun s x hs => ?_) ?_
    | with_reducible apply Keeps.ite
    | split
    | (intro s' hs'; try dsimp only)
    | dsimp only

theorem State.quiesce_keeps {s₀ s : State} {c : Nat} {i : Nat} (h₀ : Keeps s₀ s) : Keeps s₀ (State.quiesce s c i) := by
  unfold State.quiesce
  repeat' first
    | with_reducible assumption
    | with_reducible exact rfl
    | with_reducible apply State.putUnit_keeps
    | with_reducible apply Keeps.ite
    | split
    | (intro s' hs'; try dsimp only)
    | dsimp only

theorem State.endQuiesce_keeps {s₀ s : State} {c : Nat} {i : Nat} (h₀ : Keeps s₀ s) : Keeps s₀ (State.endQuiesce s c i) := by
  unfold State.endQuiesce
  dsimp only
  repeat' first
    | with_reducible assumption
    | with_reducible exact rfl
    | with_reducible apply State.putUnit_keeps
    | with_reducible apply State.bump_keeps
    | with_reducible apply Keeps.ite
    | split
    | (intro s' hs'; try dsimp only)
    | dsimp only

theorem State.shedUnit_keeps {s₀ s : State} {c : Nat} {i : Nat} (h₀ : Keeps s₀ s) : Keeps s₀ (State.shedUnit s c i) := by
  unfold State.shedUnit
  repeat' first
    | with_reducible assumption
    | with_reducible exact rfl
    | with_reducible apply State.endQuiesce_keeps
    | with_reducible apply State.abortUnit_keeps
    | with_reducible apply State.quiesce_keeps
    | with_reducible apply Keeps.ite
    | split
    | (intro s' hs'; try dsimp only)
    | dsimp only

theorem execQuiesceAbort_keeps {s₀ s t : State} {cls : Nat} {inst : Nat} (e : execQuiesceAbort cls inst s = .next t) (h₀ : Keeps s₀ s) : Keeps s₀ t := by
  obtain rfl := Host.Outcome.next.inj e
  clear e
  repeat' first
    | with_reducible assumption
    | with_reducible exact rfl
    | with_reducible apply State.abortUnit_keeps
    | with_reducible apply Keeps.ite
    | split
    | (intro s' hs'; try dsimp only)
    | dsimp only

theorem execRequestReply_keeps {s₀ s t : State} {cls : Nat} {inst : Nat} {ep : BitVec 4} (e : execRequestReply cls inst ep s = .next t) (h₀ : Keeps s₀ s) : Keeps s₀ t := by
  obtain rfl := Host.Outcome.next.inj e
  clear e
  repeat' first
    | with_reducible assumption
    | with_reducible exact rfl
    | with_reducible apply State.bump_keeps
    | with_reducible apply Keeps.ite
    | split
    | (intro s' hs'; try dsimp only)
    | dsimp only

theorem State.endWaiters_keeps {s₀ s : State} {f : Nat} {token : BitVec 64} {o : Outc} (h₀ : Keeps s₀ s) : Keeps s₀ (State.endWaiters s f token o) := by
  unfold State.endWaiters
  dsimp only
  repeat' first
    | with_reducible assumption
    | with_reducible exact rfl
    | with_reducible apply State.setCmt_keeps
    | with_reducible apply State.finish_keeps
    | with_reducible refine Keeps.foldl _ (fun s x hs => ?_) ?_
    | with_reducible refine Keeps.foldl1 _ (fun s x hs => ?_) ?_
    | with_reducible apply Keeps.ite
    | split
    | (intro s' hs'; try dsimp only)
    | dsimp only

theorem State.failCommit_keeps {s₀ s : State} {c : Commit} {o : Outc} (h₀ : Keeps s₀ s) : Keeps s₀ (State.failCommit s c o) := by
  unfold State.failCommit
  dsimp only
  repeat' first
    | with_reducible assumption
    | with_reducible exact rfl
    | with_reducible apply State.endWaiters_keeps
    | with_reducible apply State.putQueue_keeps
    | with_reducible apply State.finish_keeps
    | with_reducible apply Keeps.ite
    | split
    | (intro s' hs'; try dsimp only)
    | dsimp only

theorem State.withdraw_keeps {s₀ s : State} {f : Nat} (h₀ : Keeps s₀ s) : Keeps s₀ (State.withdraw s f) := by
  unfold State.withdraw
  repeat' first
    | with_reducible assumption
    | with_reducible exact rfl
    | with_reducible apply State.setCmt_keeps
    | with_reducible apply Keeps.ite
    | split
    | (intro s' hs'; try dsimp only)
    | dsimp only

theorem State.resetRing_keeps {s₀ s : State} {g : Nat} (h₀ : Keeps s₀ s) : Keeps s₀ (State.resetRing s g) := by
  unfold State.resetRing
  dsimp only
  repeat' first
    | with_reducible assumption
    | with_reducible exact rfl
    | with_reducible apply State.putHaudio_keeps
    | with_reducible apply State.putRing_keeps
    | with_reducible apply Keeps.ite
    | split
    | (intro s' hs'; try dsimp only)
    | dsimp only

theorem State.modelFlr_keeps {s₀ s : State} {gone : Nat → Bool} (h₀ : Keeps s₀ s) : Keeps s₀ (State.modelFlr s gone) := by
  unfold State.modelFlr
  repeat' first
    | with_reducible assumption
    | with_reducible exact rfl
    | with_reducible apply State.setSep_keeps
    | with_reducible apply Keeps.ite
    | split
    | (intro s' hs'; try dsimp only)
    | dsimp only

theorem State.marchFlr_keeps {s₀ s : State} {gone : Nat → Bool} (h₀ : Keeps s₀ s) : Keeps s₀ (State.marchFlr s gone) := by
  unfold State.marchFlr
  dsimp only
  repeat' first
    | with_reducible assumption
    | with_reducible exact rfl
    | with_reducible apply State.marchRelease_keeps
    | with_reducible apply State.clearBank_keeps
    | with_reducible apply State.putMarch_keeps
    | with_reducible apply Keeps.ite
    | split
    | (intro s' hs'; try dsimp only)
    | dsimp only

theorem State.dropTest_keeps {s₀ s : State} {t : TestRun} (h₀ : Keeps s₀ s) : Keeps s₀ (State.dropTest s t) := by
  unfold State.dropTest
  dsimp only
  repeat' first
    | with_reducible assumption
    | with_reducible exact rfl
    | with_reducible apply State.endQuiesce_keeps
    | with_reducible apply State.setTests_keeps
    | with_reducible apply Keeps.ite
    | split
    | (intro s' hs'; try dsimp only)
    | dsimp only

theorem State.abandon_keeps {s₀ s : State} {g : Nat} (h₀ : Keeps s₀ s) : Keeps s₀ (State.abandon s g) := by
  unfold State.abandon
  dsimp only
  repeat' first
    | with_reducible assumption
    | with_reducible exact rfl
    | with_reducible apply State.putHaudio_keeps
    | with_reducible apply State.modelFlr_keeps
    | with_reducible apply State.marchFlr_keeps
    | with_reducible apply State.dropTest_keeps
    | with_reducible apply State.putRing_keeps
    | with_reducible refine Keeps.foldl _ (fun s x hs => ?_) ?_
    | with_reducible refine Keeps.foldl1 _ (fun s x hs => ?_) ?_
    | with_reducible apply Keeps.ite
    | split
    | (intro s' hs'; try dsimp only)
    | dsimp only

theorem State.flrBounds_keeps {s₀ s : State} (h₀ : Keeps s₀ s) : Keeps s₀ (State.flrBounds s) := by
  unfold State.flrBounds
  repeat' first
    | with_reducible assumption
    | with_reducible exact rfl
    | with_reducible apply State.abandon_keeps
    | with_reducible refine Keeps.foldl _ (fun s x hs => ?_) ?_
    | with_reducible refine Keeps.foldl1 _ (fun s x hs => ?_) ?_
    | with_reducible apply Keeps.ite
    | split
    | (intro s' hs'; try dsimp only)
    | dsimp only

theorem State.flrOne_keeps {s₀ s : State} {f : Nat} (h₀ : Keeps s₀ s) : Keeps s₀ (State.flrOne s f) := by
  unfold State.flrOne
  dsimp only
  repeat' first
    | with_reducible assumption
    | with_reducible exact rfl
    | with_reducible apply State.withdraw_keeps
    | with_reducible apply State.putRing_keeps
    | with_reducible apply State.herdFlr_keeps
    | with_reducible apply State.setPcie_keeps
    | with_reducible apply State.macFlr_keeps
    | with_reducible apply State.putVec_keeps
    | with_reducible apply State.setNv_keeps
    | with_reducible apply State.putFn_keeps
    | with_reducible apply State.flr_keeps
    | with_reducible refine Keeps.foldl _ (fun s x hs => ?_) ?_
    | with_reducible refine Keeps.foldl1 _ (fun s x hs => ?_) ?_
    | with_reducible apply Keeps.ite
    | split
    | (intro s' hs'; try dsimp only)
    | dsimp only

theorem State.flr_keeps {s₀ s : State} {f : Nat} (h₀ : Keeps s₀ s) : Keeps s₀ (State.flr s f) := by
  unfold State.flr
  dsimp only
  repeat' first
    | with_reducible assumption
    | with_reducible exact rfl
    | with_reducible apply State.setHost_keeps
    | with_reducible apply State.setPcie_keeps
    | with_reducible apply State.flrOne_keeps
    | with_reducible refine Keeps.foldl _ (fun s x hs => ?_) ?_
    | with_reducible refine Keeps.foldl1 _ (fun s x hs => ?_) ?_
    | with_reducible apply Keeps.ite
    | split
    | (intro s' hs'; try dsimp only)
    | dsimp only

theorem State.linkDown_keeps {s₀ s : State} (h₀ : Keeps s₀ s) : Keeps s₀ (State.linkDown s) := by
  unfold State.linkDown
  repeat' first
    | with_reducible assumption
    | with_reducible exact rfl
    | with_reducible apply State.setPcie_keeps
    | with_reducible apply State.flr_keeps
    | with_reducible apply Keeps.ite
    | split
    | (intro s' hs'; try dsimp only)
    | dsimp only

theorem State.resetPcie_keeps {s₀ s : State} (h₀ : Keeps s₀ s) : Keeps s₀ (State.resetPcie s) := by
  unfold State.resetPcie
  dsimp only
  repeat' first
    | with_reducible assumption
    | with_reducible exact rfl
    | with_reducible apply State.linkDown_keeps
    | with_reducible apply State.setHost_keeps
    | with_reducible apply State.setPcie_keeps
    | with_reducible apply Keeps.ite
    | split
    | (intro s' hs'; try dsimp only)
    | dsimp only

end Sys2Proof.Machine
end

