-- ==== Sys2Proof/Laws/KeepsNv.lean ====
section
/-! SUPPORT. Laws/KeepsNv.lean: what the operations of Machine/Nv.lean keep (Laws/Keeps.lean), one lemma each. -/

namespace Sys2Proof.Machine

theorem State.nvStart_keeps {s₀ s : State} (h₀ : Keeps s₀ s) : Keeps s₀ (State.nvStart s) := by
  unfold State.nvStart
  dsimp only
  repeat' first
    | with_reducible assumption
    | with_reducible exact rfl
    | with_reducible apply State.setNv_keeps
    | with_reducible apply Keeps.ite
    | split
    | (intro s' hs'; try dsimp only)
    | dsimp only

theorem State.nvOff_keeps {s₀ s : State} (h₀ : Keeps s₀ s) : Keeps s₀ (State.nvOff s) := by
  unfold State.nvOff
  dsimp only
  repeat' first
    | with_reducible assumption
    | with_reducible exact rfl
    | with_reducible apply State.setNv_keeps
    | with_reducible apply Keeps.ite
    | split
    | (intro s' hs'; try dsimp only)
    | dsimp only

theorem State.drawBytes_keeps {s₀ s : State} {n : Nat} (h₀ : Keeps s₀ s) : Keeps s₀ (State.drawBytes s n).1 := by
  unfold State.drawBytes
  dsimp only
  repeat' first
    | with_reducible assumption
    | with_reducible exact rfl
    | with_reducible apply State.setTime_keeps
    | with_reducible apply Keeps.ite
    | exact Eq.refl _
    | split
    | (intro s' hs'; try dsimp only)
    | dsimp only

theorem State.drawBytes_keeps_eq {s₀ s t : State} {y : List Byte} {n : Nat}  (e : State.drawBytes s n  = (t, y)) (h₀ : Keeps s₀ s) : Keeps s₀ t :=
  Keeps.fst e (State.drawBytes_keeps h₀)

theorem State.flashPart_keeps {s₀ s : State} {o : FlashOp} (h₀ : Keeps s₀ s) : Keeps s₀ (State.flashPart s o) := by
  unfold State.flashPart
  dsimp only
  repeat' first
    | with_reducible assumption
    | with_reducible exact rfl
    | with_reducible apply State.drawBytes_keeps
    | with_reducible apply State.setNv_keeps
    | with_reducible refine Keeps.foldl _ (fun s x hs => ?_) ?_
    | with_reducible refine Keeps.foldl1 _ (fun s x hs => ?_) ?_
    | exact tableOk_tset _ _
    | (with_reducible apply State.drawBytes_keeps_eq; with_reducible assumption)
    | with_reducible apply Keeps.ite
    | split
    | (intro s' hs'; try dsimp only)
    | dsimp only

theorem State.nvReadNow_keeps {s₀ s : State} {q : NvReq} (h₀ : Keeps s₀ s) : Keeps s₀ (State.nvReadNow s q) := by
  unfold State.nvReadNow
  dsimp only
  repeat' first
    | with_reducible assumption
    | with_reducible exact rfl
    | with_reducible apply State.finishWrite_keeps
    | with_reducible apply State.finish_keeps
    | with_reducible apply Keeps.ite
    | split
    | (intro s' hs'; try dsimp only)
    | dsimp only

theorem State.nvFetch_keeps {s₀ s : State} {q : NvReq} (h₀ : Keeps s₀ s) : Keeps s₀ (State.nvFetch s q).1 := by
  unfold State.nvFetch
  repeat' first
    | with_reducible assumption
    | with_reducible exact rfl
    | with_reducible apply State.dmaRead_keeps
    | (with_reducible apply State.dmaRead_keeps_eq; with_reducible assumption)
    | with_reducible apply Keeps.ite
    | split
    | (intro s' hs'; try dsimp only)
    | dsimp only

theorem State.nvFetch_keeps_eq {s₀ s t : State} {y : Except Nat (List Byte)} {q : NvReq}  (e : State.nvFetch s q  = (t, y)) (h₀ : Keeps s₀ s) : Keeps s₀ t :=
  Keeps.fst e (State.nvFetch_keeps h₀)

theorem State.nvNext_keeps {s₀ s : State}  {n0 : Nat} (h₀ : Keeps s₀ s) : Keeps s₀ (State.nvNext s n0) := by
  induction n0 generalizing s   with
  | zero =>
    unfold State.nvNext
    repeat' first
      | with_reducible assumption
      | with_reducible exact rfl
      | with_reducible apply State.nvReadNow_keeps
      | with_reducible apply State.nvFetch_keeps
      | with_reducible apply State.finish_keeps
      | with_reducible apply State.setNv_keeps
      | (with_reducible apply State.nvFetch_keeps_eq; with_reducible assumption)
      | with_reducible apply Keeps.ite
      | split
      | (intro s' hs'; try dsimp only)
      | dsimp only
  | succ m ih =>
    unfold State.nvNext
    repeat' first
      | with_reducible assumption
      | with_reducible exact rfl
      | with_reducible apply ih
      | with_reducible apply State.nvReadNow_keeps
      | with_reducible apply State.nvFetch_keeps
      | with_reducible apply State.finish_keeps
      | with_reducible apply State.setNv_keeps
      | (with_reducible apply State.nvFetch_keeps_eq; with_reducible assumption)
      | with_reducible apply Keeps.ite
      | split
      | (intro s' hs'; try dsimp only)
      | dsimp only

theorem State.nvTake_keeps {s₀ s : State} {q : NvReq} (h₀ : Keeps s₀ s) : Keeps s₀ (State.nvTake s q) := by
  unfold State.nvTake
  dsimp only
  repeat' first
    | with_reducible assumption
    | with_reducible exact rfl
    | with_reducible apply State.nvNext_keeps
    | with_reducible apply State.setNv_keeps
    | with_reducible apply State.take_keeps
    | with_reducible apply Keeps.ite
    | split
    | (intro s' hs'; try dsimp only)
    | dsimp only

theorem execNvWrite_keeps {s₀ s t : State} {ring : Nat} {ok : Bool} (e : execNvWrite ring ok s = .next t) (h₀ : Keeps s₀ s) : Keeps s₀ t := by
  obtain rfl := Host.Outcome.next.inj e
  clear e
  repeat' first
    | with_reducible assumption
    | with_reducible exact rfl
    | with_reducible apply State.finish_keeps
    | with_reducible apply State.nvTake_keeps
    | with_reducible apply Keeps.ite
    | split
    | (intro s' hs'; try dsimp only)
    | dsimp only

theorem execNvRead_keeps {s₀ s t : State} {ring : Nat} (e : execNvRead ring s = .next t) (h₀ : Keeps s₀ s) : Keeps s₀ t := by
  obtain rfl := Host.Outcome.next.inj e
  clear e
  repeat' first
    | with_reducible assumption
    | with_reducible exact rfl
    | with_reducible apply State.finish_keeps
    | with_reducible apply State.nvTake_keeps
    | with_reducible apply Keeps.ite
    | split
    | (intro s' hs'; try dsimp only)
    | dsimp only

theorem State.gateHold_keeps {s₀ s : State} (h₀ : Keeps s₀ s) : Keeps s₀ (State.gateHold s) := by
  unfold State.gateHold
  repeat' first
    | with_reducible assumption
    | with_reducible exact rfl
    | with_reducible apply State.setNv_keeps
    | with_reducible apply State.bump_keeps
    | with_reducible apply Keeps.ite
    | split
    | (intro s' hs'; try dsimp only)
    | dsimp only

theorem State.flashStart_keeps {s₀ s : State}  {n0 : Nat} (h₀ : Keeps s₀ s) : Keeps s₀ (State.flashStart s n0) := by
  induction n0 generalizing s   with
  | zero =>
    unfold State.flashStart
    repeat' first
      | with_reducible assumption
      | with_reducible exact rfl
      | with_reducible apply State.gateHold_keeps
      | with_reducible apply State.setNv_keeps
      | with_reducible apply State.bump_keeps
      | with_reducible apply Keeps.ite
      | split
      | (intro s' hs'; try dsimp only)
      | dsimp only
  | succ m ih =>
    unfold State.flashStart
    repeat' first
      | with_reducible assumption
      | with_reducible exact rfl
      | with_reducible apply ih
      | with_reducible apply State.gateHold_keeps
      | with_reducible apply State.setNv_keeps
      | with_reducible apply State.bump_keeps
      | with_reducible apply Keeps.ite
      | split
      | (intro s' hs'; try dsimp only)
      | dsimp only

theorem execFlashOpStart_keeps {s₀ s t : State}  (e : execFlashOpStart s = .next t) (h₀ : Keeps s₀ s) : Keeps s₀ t := by
  obtain rfl := Host.Outcome.next.inj e
  clear e
  repeat' first
    | with_reducible assumption
    | with_reducible exact rfl
    | with_reducible apply State.flashStart_keeps
    | with_reducible apply Keeps.ite
    | split
    | (intro s' hs'; try dsimp only)
    | dsimp only

theorem State.nvIdle_keeps {s₀ s : State} (h₀ : Keeps s₀ s) : Keeps s₀ (State.nvIdle s) := by
  unfold State.nvIdle
  repeat' first
    | with_reducible assumption
    | with_reducible exact rfl
    | with_reducible apply State.setNv_keeps
    | with_reducible apply Keeps.ite
    | split
    | (intro s' hs'; try dsimp only)
    | dsimp only

theorem State.nvAbandon_keeps {s₀ s : State} {o : Outc} (h₀ : Keeps s₀ s) : Keeps s₀ (State.nvAbandon s o) := by
  unfold State.nvAbandon
  dsimp only
  repeat' first
    | with_reducible assumption
    | with_reducible exact rfl
    | with_reducible apply State.finish_keeps
    | with_reducible apply State.nvNext_keeps
    | with_reducible apply State.setNv_keeps
    | with_reducible apply Keeps.ite
    | split
    | (intro s' hs'; try dsimp only)
    | dsimp only

theorem State.nvFail_keeps {s₀ s : State} {o : FlashOp} (h₀ : Keeps s₀ s) : Keeps s₀ (State.nvFail s o) := by
  unfold State.nvFail
  dsimp only
  repeat' first
    | with_reducible assumption
    | with_reducible exact rfl
    | with_reducible apply State.flashPart_keeps
    | with_reducible apply State.nvAbandon_keeps
    | with_reducible apply State.nvIdle_keeps
    | with_reducible apply State.post0_keeps
    | with_reducible apply State.setNv_keeps
    | with_reducible apply State.bump_keeps
    | with_reducible apply Keeps.ite
    | split
    | (intro s' hs'; try dsimp only)
    | dsimp only

theorem State.nvCommit_keeps {s₀ s : State} (h₀ : Keeps s₀ s) : Keeps s₀ (State.nvCommit s) := by
  unfold State.nvCommit
  dsimp only
  repeat' first
    | with_reducible assumption
    | with_reducible exact rfl
    | with_reducible apply State.finish_keeps
    | with_reducible apply State.nvNext_keeps
    | with_reducible apply State.nvIdle_keeps
    | with_reducible apply State.setNv_keeps
    | with_reducible apply Keeps.ite
    | split
    | (intro s' hs'; try dsimp only)
    | dsimp only

theorem execFlashOpDone_keeps {s₀ s t : State} {ok : Bool} (e : execFlashOpDone ok s = .next t) (h₀ : Keeps s₀ s) : Keeps s₀ t := by
  obtain rfl := Host.Outcome.next.inj e
  clear e
  repeat' first
    | with_reducible assumption
    | with_reducible exact rfl
    | with_reducible apply State.nvCommit_keeps
    | with_reducible apply State.nvFail_keeps
    | with_reducible apply State.nvIdle_keeps
    | with_reducible apply State.setNv_keeps
    | with_reducible apply State.bump_keeps
    | with_reducible apply Keeps.ite
    | split
    | (intro s' hs'; try dsimp only)
    | dsimp only

theorem execFlashBusyTimeout_keeps {s₀ s t : State}  (e : execFlashBusyTimeout s = .next t) (h₀ : Keeps s₀ s) : Keeps s₀ t := by
  obtain rfl := Host.Outcome.next.inj e
  clear e
  repeat' first
    | with_reducible assumption
    | with_reducible exact rfl
    | with_reducible apply State.nvFail_keeps
    | with_reducible apply Keeps.ite
    | split
    | (intro s' hs'; try dsimp only)
    | dsimp only

theorem execHoldupLow_keeps {s₀ s t : State}  (e : execHoldupLow s = .next t) (h₀ : Keeps s₀ s) : Keeps s₀ t := by
  obtain rfl := Host.Outcome.next.inj e
  clear e
  repeat' first
    | with_reducible assumption
    | with_reducible exact rfl
    | with_reducible apply State.nvAbandon_keeps
    | with_reducible apply State.bump_keeps
    | with_reducible apply Keeps.ite
    | split
    | (intro s' hs'; try dsimp only)
    | dsimp only

end Sys2Proof.Machine
end

