-- ==== Sys2Proof/Laws/KeepsDomains.lean ====
section
/-! SUPPORT. Laws/KeepsDomains.lean: what the operations of Machine/Domains.lean keep (Laws/Keeps.lean), one lemma each. -/

namespace Sys2Proof.Machine

theorem State.polGood_keeps {s₀ s : State} {d : Nat} (h₀ : Keeps s₀ s) : Keeps s₀ (State.polGood s d) := by
  unfold State.polGood
  dsimp only
  repeat' first
    | with_reducible assumption
    | with_reducible exact rfl
    | with_reducible apply State.setPwr_keeps
    | with_reducible apply Keeps.ite
    | split
    | (intro s' hs'; try dsimp only)
    | dsimp only

theorem State.dropMem_keeps {s₀ s : State} {a : Nat} {b : Nat} (h₀ : Keeps s₀ s) : Keeps s₀ (State.dropMem s a b) := by
  unfold State.dropMem
  repeat' first
    | with_reducible assumption
    | with_reducible exact rfl
    | with_reducible apply State.setMem_keeps
    | exact tableOk_filter _
    | with_reducible apply Keeps.ite
    | split
    | (intro s' hs'; try dsimp only)
    | dsimp only

theorem State.resetEngine_keeps {s₀ s : State} (h₀ : Keeps s₀ s) : Keeps s₀ (State.resetEngine s) := by
  unfold State.resetEngine
  dsimp only
  repeat' first
    | with_reducible assumption
    | with_reducible exact rfl
    | with_reducible apply State.resetRing_keeps
    | with_reducible apply State.modelFlr_keeps
    | with_reducible apply State.marchFlr_keeps
    | with_reducible apply State.setTests_keeps
    | with_reducible apply State.herdFlr_keeps
    | with_reducible apply State.setHost_keeps
    | with_reducible apply State.macFlr_keeps
    | with_reducible apply State.putFn_keeps
    | with_reducible apply State.setNv_keeps
    | with_reducible refine Keeps.foldl _ (fun s x hs => ?_) ?_
    | with_reducible refine Keeps.foldl1 _ (fun s x hs => ?_) ?_
    | with_reducible apply Keeps.ite
    | split
    | (intro s' hs'; try dsimp only)
    | dsimp only

theorem State.zeroOuts_keeps {s₀ s : State} {p : Nat} (h₀ : Keeps s₀ s) : Keeps s₀ (State.zeroOuts s p) := by
  unfold State.zeroOuts
  repeat' first
    | with_reducible assumption
    | with_reducible exact rfl
    | with_reducible apply State.setChurn_keeps
    | with_reducible refine Keeps.foldl _ (fun s x hs => ?_) ?_
    | with_reducible refine Keeps.foldl1 _ (fun s x hs => ?_) ?_
    | exact tableOk_tset _ _
    | with_reducible apply Keeps.ite
    | split
    | (intro s' hs'; try dsimp only)
    | dsimp only

theorem State.gainsToTarget_keeps {s₀ s : State} {blk : Nat → Bool} (h₀ : Keeps s₀ s) : Keeps s₀ (State.gainsToTarget s blk) := by
  unfold State.gainsToTarget
  repeat' first
    | with_reducible assumption
    | with_reducible exact rfl
    | with_reducible apply State.setAudio_keeps
    | with_reducible apply Keeps.ite
    | split
    | (intro s' hs'; try dsimp only)
    | dsimp only

theorem State.loseBlock0_keeps {s₀ s : State} (h₀ : Keeps s₀ s) : Keeps s₀ (State.loseBlock0 s) := by
  unfold State.loseBlock0
  dsimp only
  repeat' first
    | with_reducible assumption
    | with_reducible exact rfl
    | with_reducible apply State.gainsToTarget_keeps
    | with_reducible apply State.setAudio_keeps
    | with_reducible apply Keeps.ite
    | split
    | (intro s' hs'; try dsimp only)
    | dsimp only

theorem State.loseBlock1_keeps {s₀ s : State} (h₀ : Keeps s₀ s) : Keeps s₀ (State.loseBlock1 s) := by
  unfold State.loseBlock1
  dsimp only
  repeat' first
    | with_reducible assumption
    | with_reducible exact rfl
    | with_reducible apply State.gainsToTarget_keeps
    | with_reducible apply State.setAudio_keeps
    | with_reducible apply Keeps.ite
    | split
    | (intro s' hs'; try dsimp only)
    | dsimp only

theorem State.resetModels_keeps {s₀ s : State} (h₀ : Keeps s₀ s) : Keeps s₀ (State.resetModels s) := by
  unfold State.resetModels
  repeat' first
    | with_reducible assumption
    | with_reducible exact rfl
    | with_reducible apply State.setSep_keeps
    | with_reducible apply Keeps.ite
    | split
    | (intro s' hs'; try dsimp only)
    | dsimp only

theorem State.marchKill_keeps {s₀ s : State} (h₀ : Keeps s₀ s) : Keeps s₀ (State.marchKill s) := by
  unfold State.marchKill
  dsimp only
  repeat' first
    | with_reducible assumption
    | with_reducible exact rfl
    | with_reducible apply State.finishWrite_keeps
    | with_reducible apply State.putMarch_keeps
    | with_reducible apply State.putBank_keeps
    | with_reducible apply Keeps.ite
    | split
    | (intro s' hs'; try dsimp only)
    | dsimp only

theorem State.clearTile_keeps {s₀ s : State} {t : Nat} (h₀ : Keeps s₀ s) : Keeps s₀ (State.clearTile s t) := by
  unfold State.clearTile
  dsimp only
  repeat' first
    | with_reducible assumption
    | with_reducible exact rfl
    | with_reducible apply State.dropMem_keeps
    | with_reducible apply State.putTile_keeps
    | with_reducible apply Keeps.ite
    | split
    | (intro s' hs'; try dsimp only)
    | dsimp only

theorem State.missTile_keeps {s₀ s : State} {t : Nat} (h₀ : Keeps s₀ s) : Keeps s₀ (State.missTile s t) := by
  unfold State.missTile
  repeat' first
    | with_reducible assumption
    | with_reducible exact rfl
    | with_reducible apply State.setSep_keeps
    | with_reducible apply Keeps.ite
    | split
    | (intro s' hs'; try dsimp only)
    | dsimp only

theorem State.resetPu_keeps {s₀ s : State} {p : Nat} (h₀ : Keeps s₀ s) : Keeps s₀ (State.resetPu s p) := by
  unfold State.resetPu
  dsimp only
  repeat' first
    | with_reducible assumption
    | with_reducible exact rfl
    | with_reducible apply State.zeroOuts_keeps
    | with_reducible apply State.dropMem_keeps
    | with_reducible apply State.loaded_keeps
    | with_reducible apply State.putPu_keeps
    | with_reducible apply Keeps.ite
    | split
    | (intro s' hs'; try dsimp only)
    | dsimp only

theorem State.cpllOff_keeps {s₀ s : State} {d : Nat} (h₀ : Keeps s₀ s) : Keeps s₀ (State.cpllOff s d) := by
  unfold State.cpllOff
  repeat' first
    | with_reducible assumption
    | with_reducible exact rfl
    | with_reducible apply State.setClk_keeps
    | with_reducible apply Keeps.ite
    | split
    | (intro s' hs'; try dsimp only)
    | dsimp only

theorem State.cutPorts_keeps {s₀ s : State} {b : Nat} (h₀ : Keeps s₀ s) : Keeps s₀ (State.cutPorts s b) := by
  unfold State.cutPorts
  repeat' first
    | with_reducible assumption
    | with_reducible exact rfl
    | with_reducible apply State.netCut_keeps
    | with_reducible refine Keeps.foldl _ (fun s x hs => ?_) ?_
    | with_reducible refine Keeps.foldl1 _ (fun s x hs => ?_) ?_
    | with_reducible apply Keeps.ite
    | split
    | (intro s' hs'; try dsimp only)
    | dsimp only

theorem State.domLose_keeps {s₀ s : State} {d : Nat} (h₀ : Keeps s₀ s) : Keeps s₀ (State.domLose s d) := by
  unfold State.domLose
  dsimp only
  repeat' first
    | with_reducible assumption
    | with_reducible exact rfl
    | with_reducible apply State.resetEngine_keeps
    | with_reducible apply State.resetModels_keeps
    | with_reducible apply State.loseBlock0_keeps
    | with_reducible apply State.loseBlock1_keeps
    | with_reducible apply State.resetPcie_keeps
    | with_reducible apply State.clearTile_keeps
    | with_reducible apply State.marchKill_keeps
    | with_reducible apply State.dropCore_keeps
    | with_reducible apply State.setChurn_keeps
    | with_reducible apply State.portStop_keeps
    | with_reducible apply State.convIdle_keeps
    | with_reducible apply State.missTile_keeps
    | with_reducible apply State.cutPorts_keeps
    | with_reducible apply State.herdStop_keeps
    | with_reducible apply State.cpllOff_keeps
    | with_reducible apply State.setTime_keeps
    | with_reducible apply State.dropMem_keeps
    | with_reducible apply State.resetPu_keeps
    | with_reducible apply State.netStop_keeps
    | with_reducible apply State.putHerd_keeps
    | with_reducible apply State.dropL2_keeps
    | with_reducible apply State.setBus_keeps
    | with_reducible apply State.setClk_keeps
    | with_reducible apply State.setDbg_keeps
    | with_reducible apply State.setNet_keeps
    | with_reducible apply State.setCc_keeps
    | with_reducible apply State.nvOff_keeps
    | with_reducible refine Keeps.foldl _ (fun s x hs => ?_) ?_
    | with_reducible refine Keeps.foldl1 _ (fun s x hs => ?_) ?_
    | with_reducible apply Keeps.ite
    | exact Eq.refl _
    | split
    | (intro s' hs'; try dsimp only)
    | dsimp only

theorem State.shedRequests_keeps {s₀ s : State} {d : Nat} (h₀ : Keeps s₀ s) : Keeps s₀ (State.shedRequests s d) := by
  unfold State.shedRequests
  repeat' first
    | with_reducible assumption
    | with_reducible exact rfl
    | with_reducible apply State.shedUnit_keeps
    | with_reducible refine Keeps.foldl _ (fun s x hs => ?_) ?_
    | with_reducible refine Keeps.foldl1 _ (fun s x hs => ?_) ?_
    | with_reducible apply Keeps.ite
    | split
    | (intro s' hs'; try dsimp only)
    | dsimp only

theorem State.domOff_keeps {s₀ s : State} {d : Nat} (h₀ : Keeps s₀ s) : Keeps s₀ (State.domOff s d) := by
  unfold State.domOff
  dsimp only
  repeat' first
    | with_reducible assumption
    | with_reducible exact rfl
    | with_reducible apply State.shedRequests_keeps
    | with_reducible apply State.refreshPol_keeps
    | with_reducible apply State.domLose_keeps
    | with_reducible apply State.putDom_keeps
    | with_reducible apply Keeps.ite
    | split
    | (intro s' hs'; try dsimp only)
    | dsimp only

theorem State.coreReset_keeps {s₀ s : State} {c : Nat} (h₀ : Keeps s₀ s) : Keeps s₀ (State.coreReset s c) := by
  unfold State.coreReset
  repeat' first
    | with_reducible assumption
    | with_reducible exact rfl
    | with_reducible apply State.putCore_keeps
    | with_reducible apply Keeps.ite
    | split
    | (intro s' hs'; try dsimp only)
    | dsimp only

theorem State.domStart_keeps {s₀ s : State} {d : Nat} (h₀ : Keeps s₀ s) : Keeps s₀ (State.domStart s d) := by
  unfold State.domStart
  dsimp only
  repeat' first
    | with_reducible assumption
    | with_reducible exact rfl
    | with_reducible apply State.portStart_keeps
    | with_reducible apply State.coreReset_keeps
    | with_reducible apply State.convStart_keeps
    | with_reducible apply State.herdStart_keeps
    | with_reducible apply State.startOpp_keeps
    | with_reducible apply State.netStart_keeps
    | with_reducible apply State.setPcie_keeps
    | with_reducible apply State.nvStart_keeps
    | with_reducible apply State.setClk_keeps
    | with_reducible apply State.setCc_keeps
    | with_reducible refine Keeps.foldl _ (fun s x hs => ?_) ?_
    | with_reducible refine Keeps.foldl1 _ (fun s x hs => ?_) ?_
    | with_reducible apply Keeps.ite
    | split
    | (intro s' hs'; try dsimp only)
    | dsimp only

theorem State.pump_keeps {s₀ s : State}  {n0 : Nat} (h₀ : Keeps s₀ s) : Keeps s₀ (State.pump s n0) := by
  induction n0 generalizing s   with
  | zero =>
    unfold State.pump
    repeat' first
      | with_reducible assumption
      | with_reducible exact rfl
      | with_reducible apply State.setPwr_keeps
      | with_reducible apply State.putDom_keeps
      | with_reducible apply Keeps.ite
      | split
      | (intro s' hs'; try dsimp only)
      | dsimp only
  | succ m ih =>
    unfold State.pump
    repeat' first
      | with_reducible assumption
      | with_reducible exact rfl
      | with_reducible apply ih
      | with_reducible apply State.setPwr_keeps
      | with_reducible apply State.putDom_keeps
      | with_reducible apply Keeps.ite
      | split
      | (intro s' hs'; try dsimp only)
      | dsimp only

theorem State.startUps_keeps {s₀ s : State} {ds : List Nat} (h₀ : Keeps s₀ s) : Keeps s₀ (State.startUps s ds) := by
  unfold State.startUps
  dsimp only
  repeat' first
    | with_reducible assumption
    | with_reducible exact rfl
    | with_reducible apply State.refreshPol_keeps
    | with_reducible apply State.setPwr_keeps
    | with_reducible apply State.pump_keeps
    | with_reducible apply Keeps.ite
    | split
    | (intro s' hs'; try dsimp only)
    | dsimp only

theorem execDomainPowerUpEnd_keeps {s₀ s t : State} {dom : Nat} {ok : Bool} (e : execDomainPowerUpEnd dom ok s = .next t) (h₀ : Keeps s₀ s) : Keeps s₀ t := by
  obtain rfl := Host.Outcome.next.inj e
  clear e
  repeat' first
    | with_reducible assumption
    | with_reducible exact rfl
    | with_reducible apply State.refreshPol_keeps
    | with_reducible apply State.domStart_keeps
    | with_reducible apply State.polGood_keeps
    | with_reducible apply State.putDom_keeps
    | with_reducible apply State.pump_keeps
    | with_reducible apply Keeps.ite
    | split
    | (intro s' hs'; try dsimp only)
    | dsimp only

theorem State.bankDown_keeps {s₀ s : State} {b : Nat} {p : Nat} (h₀ : Keeps s₀ s) : Keeps s₀ (State.bankDown s b p) := by
  unfold State.bankDown
  dsimp only
  repeat' first
    | with_reducible assumption
    | with_reducible exact rfl
    | with_reducible apply State.clearBank_keeps
    | with_reducible apply State.putBank_keeps
    | with_reducible apply Keeps.ite
    | split
    | (intro s' hs'; try dsimp only)
    | dsimp only

theorem State.bankStart_keeps {s₀ s : State} {b : Nat} {p : Nat} (h₀ : Keeps s₀ s) : Keeps s₀ (State.bankStart s b p) := by
  unfold State.bankStart
  dsimp only
  repeat' first
    | with_reducible assumption
    | with_reducible exact rfl
    | with_reducible apply State.putBank_keeps
    | with_reducible apply Keeps.ite
    | split
    | (intro s' hs'; try dsimp only)
    | dsimp only

theorem State.h5Bank_keeps {s₀ s : State} {b : Nat} (h₀ : Keeps s₀ s) : Keeps s₀ (State.h5Bank s b) := by
  unfold State.h5Bank
  dsimp only
  repeat' first
    | with_reducible assumption
    | with_reducible exact rfl
    | with_reducible apply State.cutPorts_keeps
    | with_reducible apply State.bankDown_keeps
    | with_reducible apply Keeps.ite
    | split
    | (intro s' hs'; try dsimp only)
    | dsimp only

theorem State.h5Domains_keeps {s₀ s : State} (h₀ : Keeps s₀ s) : Keeps s₀ (State.h5Domains s) := by
  unfold State.h5Domains
  dsimp only
  repeat' first
    | with_reducible assumption
    | with_reducible exact rfl
    | with_reducible apply State.refreshPol_keeps
    | with_reducible apply State.flushL2_keeps
    | with_reducible apply State.setPwr_keeps
    | with_reducible apply State.domOff_keeps
    | with_reducible apply State.h5Bank_keeps
    | with_reducible apply State.pump_keeps
    | with_reducible refine Keeps.foldl _ (fun s x hs => ?_) ?_
    | with_reducible refine Keeps.foldl1 _ (fun s x hs => ?_) ?_
    | with_reducible apply Keeps.ite
    | split
    | (intro s' hs'; try dsimp only)
    | dsimp only

end Sys2Proof.Machine
end

