-- ==== Sys2Proof/Laws/KeepsQuery.lean ====
section
/-! SUPPORT. Laws/KeepsQuery.lean: what the operations of Machine/Query.lean keep (Laws/Keeps.lean), one lemma each. -/

namespace Sys2Proof.Machine

theorem execQuery_keeps {s₀ s t : State} {list : QueryRead} (e : execQuery list s = .next t) (h₀ : Keeps s₀ s) : Keeps s₀ t := by
  obtain rfl := Host.Outcome.next.inj e
  clear e
  repeat' first
    | with_reducible assumption
    | with_reducible exact rfl
    | with_reducible apply State.finishWrite_keeps
    | with_reducible apply State.dmaRead_keeps
    | with_reducible apply State.finish_keeps
    | (with_reducible apply State.dmaRead_keeps_eq; with_reducible assumption)
    | with_reducible apply Keeps.ite
    | split
    | (intro s' hs'; try dsimp only)
    | dsimp only

end Sys2Proof.Machine
end

