-- ==== Sys2Proof/Laws/KeepsCommit.lean ====
section
/-! SUPPORT. Laws/KeepsCommit.lean: what the operations of Machine/Commit.lean keep (Laws/Keeps.lean), one lemma each. -/

namespace Sys2Proof.Machine

theorem State.storeRefused_keeps {s₀ s : State} {a : Nat} {n : Nat} {write : Bool} (h₀ : Keeps s₀ s) : Keeps s₀ (State.storeRefused s a n write).1 := by
  unfold State.storeRefused
  repeat' first
    | with_reducible assumption
    | with_reducible exact rfl
    | with_reducible apply State.capture_keeps
    | with_reducible apply Keeps.ite
    | split
    | (intro s' hs'; try dsimp only)
    | dsimp only

theorem State.storeRefused_keeps_eq {s₀ s t : State} {y : Bool} {a : Nat} {n : Nat} {write : Bool}  (e : State.storeRefused s a n write  = (t, y)) (h₀ : Keeps s₀ s) : Keeps s₀ t :=
  Keeps.fst e (State.storeRefused_keeps h₀)

theorem State.storeBlob_keeps {s₀ s : State} {bs : List Byte} {n0 : List Nat} (h₀ : Keeps s₀ s) : Keeps s₀ (State.storeBlob s bs n0).1 := by
  induction n0 generalizing s bs  with
  | nil =>
    unfold State.storeBlob
    repeat' first
      | with_reducible assumption
      | with_reducible exact rfl
      | with_reducible apply State.storeRefused_keeps
      | with_reducible apply State.vatStores_keeps
      | with_reducible apply State.busWrite_keeps
      | with_reducible apply State.take_keeps
      | (with_reducible apply State.storeRefused_keeps_eq; with_reducible assumption)
      | (with_reducible apply State.vatStores_keeps_eq; with_reducible assumption)
      | with_reducible apply Keeps.ite
      | split
      | (intro s' hs'; try dsimp only)
      | dsimp only
  | cons y m ih =>
    unfold State.storeBlob
    repeat' first
      | with_reducible assumption
      | with_reducible exact rfl
      | with_reducible apply ih
      | (apply Keeps.fst; with_reducible assumption; with_reducible apply ih)
      | with_reducible apply State.storeRefused_keeps
      | with_reducible apply State.vatStores_keeps
      | with_reducible apply State.busWrite_keeps
      | with_reducible apply State.take_keeps
      | (with_reducible apply State.storeRefused_keeps_eq; with_reducible assumption)
      | (with_reducible apply State.vatStores_keeps_eq; with_reducible assumption)
      | with_reducible apply Keeps.ite
      | split
      | (intro s' hs'; try dsimp only)
      | dsimp only

theorem State.storeBlob_keeps_eq {s₀ s t : State} {y : Bool} {bs : List Byte} {n0 : List Nat} (e : State.storeBlob s bs n0 = (t, y)) (h₀ : Keeps s₀ s) : Keeps s₀ t :=
  Keeps.fst e (State.storeBlob_keeps h₀)

theorem State.readBlob_keeps {s₀ s : State} {n : Nat} {n0 : List Nat} (h₀ : Keeps s₀ s) : Keeps s₀ (State.readBlob s n n0).1 := by
  induction n0 generalizing s n  with
  | nil =>
    unfold State.readBlob
    repeat' first
      | with_reducible assumption
      | with_reducible exact rfl
      | with_reducible apply State.storeRefused_keeps
      | with_reducible apply State.vatTouches_keeps
      | (with_reducible apply State.storeRefused_keeps_eq; with_reducible assumption)
      | (with_reducible apply State.vatTouches_keeps_eq; with_reducible assumption)
      | with_reducible apply Keeps.ite
      | split
      | (intro s' hs'; try dsimp only)
      | dsimp only
  | cons y m ih =>
    unfold State.readBlob
    repeat' first
      | with_reducible assumption
      | with_reducible exact rfl
      | with_reducible apply ih
      | (apply Keeps.fst; with_reducible assumption; with_reducible apply ih)
      | with_reducible apply State.storeRefused_keeps
      | with_reducible apply State.vatTouches_keeps
      | (with_reducible apply State.storeRefused_keeps_eq; with_reducible assumption)
      | (with_reducible apply State.vatTouches_keeps_eq; with_reducible assumption)
      | with_reducible apply Keeps.ite
      | split
      | (intro s' hs'; try dsimp only)
      | dsimp only

theorem State.readBlob_keeps_eq {s₀ s t : State} {y : Option (List Byte)} {n : Nat} {n0 : List Nat} (e : State.readBlob s n n0 = (t, y)) (h₀ : Keeps s₀ s) : Keeps s₀ t :=
  Keeps.fst e (State.readBlob_keeps h₀)

theorem State.fetchBlobs_keeps {s₀ s : State} {ring : Nat} {id : Nat} {f : Nat} {n0 : List (Nat × Nat × Nat)} (h₀ : Keeps s₀ s) : Keeps s₀ (State.fetchBlobs s ring id f n0).1 := by
  induction n0 generalizing s ring id f  with
  | nil =>
    unfold State.fetchBlobs
    repeat' first
      | with_reducible assumption
      | with_reducible exact rfl
      | with_reducible apply State.storeBlob_keeps
      | with_reducible apply State.putQueue_keeps
      | with_reducible apply State.dmaRead_keeps
      | (with_reducible apply State.storeBlob_keeps_eq; with_reducible assumption)
      | (with_reducible apply State.dmaRead_keeps_eq; with_reducible assumption)
      | with_reducible apply Keeps.ite
      | split
      | (intro s' hs'; try dsimp only)
      | dsimp only
  | cons y m ih =>
    unfold State.fetchBlobs
    repeat' first
      | with_reducible assumption
      | with_reducible exact rfl
      | with_reducible apply ih
      | (apply Keeps.fst; with_reducible assumption; with_reducible apply ih)
      | with_reducible apply State.storeBlob_keeps
      | with_reducible apply State.putQueue_keeps
      | with_reducible apply State.dmaRead_keeps
      | (with_reducible apply State.storeBlob_keeps_eq; with_reducible assumption)
      | (with_reducible apply State.dmaRead_keeps_eq; with_reducible assumption)
      | with_reducible apply Keeps.ite
      | split
      | (intro s' hs'; try dsimp only)
      | dsimp only

theorem State.fetchBlobs_keeps_eq {s₀ s t : State} {y : Except Nat Fetched} {ring : Nat} {id : Nat} {f : Nat} {n0 : List (Nat × Nat × Nat)} (e : State.fetchBlobs s ring id f n0 = (t, y)) (h₀ : Keeps s₀ s) : Keeps s₀ t :=
  Keeps.fst e (State.fetchBlobs_keeps h₀)

theorem State.fetchCommit_keeps {s₀ s : State} {c : Commit} {q : Req} {got : CommitRead} (h₀ : Keeps s₀ s) : Keeps s₀ (State.fetchCommit s c q got) := by
  unfold State.fetchCommit
  dsimp only
  repeat' first
    | with_reducible assumption
    | with_reducible exact rfl
    | with_reducible apply State.fetchBlobs_keeps
    | with_reducible apply State.putQueue_keeps
    | with_reducible apply State.dmaRead_keeps
    | (with_reducible apply State.fetchBlobs_keeps_eq; with_reducible assumption)
    | (with_reducible apply State.dmaRead_keeps_eq; with_reducible assumption)
    | with_reducible apply Keeps.ite
    | split
    | (intro s' hs'; try dsimp only)
    | dsimp only

theorem execCommit_keeps {s₀ s t : State} {ring : Nat} {got : CommitRead} (e : execCommit ring got s = .next t) (h₀ : Keeps s₀ s) : Keeps s₀ t := by
  obtain rfl := Host.Outcome.next.inj e
  clear e
  repeat' first
    | with_reducible assumption
    | with_reducible exact rfl
    | with_reducible apply State.fetchCommit_keeps
    | with_reducible apply Keeps.ite
    | split
    | (intro s' hs'; try dsimp only)
    | dsimp only

theorem State.putHead_keeps {s₀ s : State} {c : Commit} (h₀ : Keeps s₀ s) : Keeps s₀ (State.putHead s c) := by
  unfold State.putHead
  repeat' first
    | with_reducible assumption
    | with_reducible exact rfl
    | with_reducible apply State.putQueue_keeps
    | with_reducible apply Keeps.ite
    | split
    | (intro s' hs'; try dsimp only)
    | dsimp only

theorem State.loadMarch_keeps {s₀ s : State} {c : Commit} {x1 : Proj} (h₀ : Keeps s₀ s) : Keeps s₀ (State.loadMarch s c x1) := by
  unfold State.loadMarch
  dsimp only
  repeat' first
    | with_reducible assumption
    | with_reducible exact rfl
    | with_reducible apply State.marchFinish_keeps
    | with_reducible apply State.marchStop_keeps
    | with_reducible apply Keeps.ite
    | split
    | (intro s' hs'; try dsimp only)
    | dsimp only

theorem State.loadShadow_keeps {s₀ s : State} {c : Commit} (h₀ : Keeps s₀ s) : Keeps s₀ (State.loadShadow s c) := by
  unfold State.loadShadow
  dsimp only
  repeat' first
    | with_reducible assumption
    | with_reducible exact rfl
    | with_reducible apply State.setMem_keeps
    | with_reducible refine Keeps.foldl _ (fun s x hs => ?_) ?_
    | with_reducible refine Keeps.foldl1 _ (fun s x hs => ?_) ?_
    | exact wf_memPut _ _
    | with_reducible apply Keeps.ite
    | split
    | (intro s' hs'; try dsimp only)
    | dsimp only

theorem State.edgeClash_keeps {s₀ s : State} {a : Nat} {n : Nat} (h₀ : Keeps s₀ s) : Keeps s₀ (State.edgeClash s a n).1 := by
  unfold State.edgeClash
  dsimp only
  repeat' first
    | with_reducible assumption
    | with_reducible exact rfl
    | with_reducible apply State.draw_keeps
    | (with_reducible apply State.draw_keeps_eq; with_reducible assumption)
    | with_reducible apply Keeps.ite
    | split
    | (intro s' hs'; try dsimp only)
    | dsimp only

theorem State.edgeClash_keeps_eq {s₀ s t : State} {y : List Nat} {a : Nat} {n : Nat}  (e : State.edgeClash s a n  = (t, y)) (h₀ : Keeps s₀ s) : Keeps s₀ t :=
  Keeps.fst e (State.edgeClash_keeps h₀)

theorem State.markDone_keeps {s₀ s : State} {id : Nat} (h₀ : Keeps s₀ s) : Keeps s₀ (State.markDone s id) := by
  unfold State.markDone
  repeat' first
    | with_reducible assumption
    | with_reducible exact rfl
    | with_reducible apply State.putHead_keeps
    | with_reducible apply Keeps.ite
    | split
    | (intro s' hs'; try dsimp only)
    | dsimp only

theorem State.loadVtab_keeps {s₀ s : State} {x1 : Proj} {c : Commit} {v : Nat × Geom} (h₀ : Keeps s₀ s) : Keeps s₀ (State.loadVtab s x1 c v) := by
  unfold State.loadVtab
  dsimp only
  repeat' first
    | with_reducible assumption
    | with_reducible exact rfl
    | with_reducible apply State.failCommit_keeps
    | with_reducible apply State.edgeClash_keeps
    | with_reducible apply State.vatStores_keeps
    | with_reducible apply State.markDone_keeps
    | with_reducible apply State.wlost_keeps
    | with_reducible refine Keeps.foldl _ (fun s x hs => ?_) ?_
    | with_reducible refine Keeps.foldl1 _ (fun s x hs => ?_) ?_
    | (with_reducible apply State.edgeClash_keeps_eq; with_reducible assumption)
    | (with_reducible apply State.vatStores_keeps_eq; with_reducible assumption)
    | with_reducible apply Keeps.ite
    | split
    | (intro s' hs'; try dsimp only)
    | dsimp only

theorem State.putLuts_keeps {s₀ s : State} {x : Proj} {t : Nat} (h₀ : Keeps s₀ s) : Keeps s₀ (State.putLuts s x t) := by
  unfold State.putLuts
  repeat' first
    | with_reducible assumption
    | with_reducible exact rfl
    | with_reducible apply State.setMem_keeps
    | exact wf_memPut _ _
    | with_reducible apply Keeps.ite
    | split
    | (intro s' hs'; try dsimp only)
    | dsimp only

theorem State.putWeights_keeps {s₀ s : State} {t : Nat} {b : List Byte} {n0 : Nat} {n1 : List Layer} (h₀ : Keeps s₀ s) : Keeps s₀ (State.putWeights s t b n0 n1) := by
  induction n1 generalizing s n0 t b  with
  | nil =>
    unfold State.putWeights
    repeat' first
      | with_reducible assumption
      | with_reducible exact rfl
      | with_reducible apply State.putTile_keeps
      | with_reducible apply State.setMem_keeps
      | with_reducible refine Keeps.foldl _ (fun s x hs => ?_) ?_
      | with_reducible refine Keeps.foldl1 _ (fun s x hs => ?_) ?_
      | exact wf_memPut _ _
      | exact tableOk_tset _ _
      | with_reducible apply Keeps.ite
      | split
      | (intro s' hs'; try dsimp only)
      | dsimp only
  | cons y m ih =>
    unfold State.putWeights
    repeat' first
      | with_reducible assumption
      | with_reducible exact rfl
      | with_reducible apply ih
      | (apply Keeps.fst; with_reducible assumption; with_reducible apply ih)
      | with_reducible apply State.putTile_keeps
      | with_reducible apply State.setMem_keeps
      | with_reducible refine Keeps.foldl _ (fun s x hs => ?_) ?_
      | with_reducible refine Keeps.foldl1 _ (fun s x hs => ?_) ?_
      | exact wf_memPut _ _
      | exact tableOk_tset _ _
      | with_reducible apply Keeps.ite
      | split
      | (intro s' hs'; try dsimp only)
      | dsimp only

theorem State.loadTile_keeps {s₀ s : State} {x1 : Proj} {c : Commit} {t : Nat} (h₀ : Keeps s₀ s) : Keeps s₀ (State.loadTile s x1 c t) := by
  unfold State.loadTile
  dsimp only
  repeat' first
    | with_reducible assumption
    | with_reducible exact rfl
    | with_reducible apply State.putWeights_keeps
    | with_reducible apply State.markDone_keeps
    | with_reducible apply State.putLuts_keeps
    | with_reducible refine Keeps.foldl _ (fun s x hs => ?_) ?_
    | with_reducible refine Keeps.foldl1 _ (fun s x hs => ?_) ?_
    | with_reducible apply Keeps.ite
    | split
    | (intro s' hs'; try dsimp only)
    | dsimp only

theorem State.loadDue_keeps {s₀ s : State} (h₀ : Keeps s₀ s) : Keeps s₀ (State.loadDue s) := by
  unfold State.loadDue
  dsimp only
  repeat' first
    | with_reducible assumption
    | with_reducible exact rfl
    | with_reducible apply State.loadVtab_keeps
    | with_reducible apply State.loadTile_keeps
    | with_reducible refine Keeps.foldl _ (fun s x hs => ?_) ?_
    | with_reducible refine Keeps.foldl1 _ (fun s x hs => ?_) ?_
    | with_reducible apply Keeps.ite
    | split
    | (intro s' hs'; try dsimp only)
    | dsimp only

theorem State.readRefs_keeps {s₀ s : State} {c : Commit} {n0 : List (Nat × List Byte)} (h₀ : Keeps s₀ s) : Keeps s₀ (State.readRefs s c n0).1 := by
  induction n0 generalizing s c  with
  | nil =>
    unfold State.readRefs
    repeat' first
      | with_reducible assumption
      | with_reducible exact rfl
      | with_reducible apply State.readBlob_keeps
      | (with_reducible apply State.readBlob_keeps_eq; with_reducible assumption)
      | with_reducible apply Keeps.ite
      | split
      | (intro s' hs'; try dsimp only)
      | dsimp only
  | cons y m ih =>
    unfold State.readRefs
    repeat' first
      | with_reducible assumption
      | with_reducible exact rfl
      | with_reducible apply ih
      | (apply Keeps.fst; with_reducible assumption; with_reducible apply ih)
      | with_reducible apply State.readBlob_keeps
      | (with_reducible apply State.readBlob_keeps_eq; with_reducible assumption)
      | with_reducible apply Keeps.ite
      | split
      | (intro s' hs'; try dsimp only)
      | dsimp only

theorem State.readRefs_keeps_eq {s₀ s t : State} {y : Option (List (Nat × List Byte))} {c : Commit} {n0 : List (Nat × List Byte)} (e : State.readRefs s c n0 = (t, y)) (h₀ : Keeps s₀ s) : Keeps s₀ t :=
  Keeps.fst e (State.readRefs_keeps h₀)

theorem State.loaded_keeps {s₀ s : State} {c : Commit} (h₀ : Keeps s₀ s) : Keeps s₀ (State.loaded s c) := by
  unfold State.loaded
  dsimp only
  repeat' first
    | with_reducible assumption
    | with_reducible exact rfl
    | with_reducible apply State.failCommit_keeps
    | with_reducible apply State.loadShadow_keeps
    | with_reducible apply State.readRefs_keeps
    | with_reducible apply State.putHead_keeps
    | with_reducible apply State.loadDue_keeps
    | (with_reducible apply State.readRefs_keeps_eq; with_reducible assumption)
    | with_reducible apply Keeps.ite
    | split
    | (intro s' hs'; try dsimp only)
    | dsimp only

theorem State.startLoad_keeps {s₀ s : State} (h₀ : Keeps s₀ s) : Keeps s₀ (State.startLoad s) := by
  unfold State.startLoad
  dsimp only
  repeat' first
    | with_reducible assumption
    | with_reducible exact rfl
    | with_reducible apply State.loadMarch_keeps
    | with_reducible apply State.bankStart_keeps
    | with_reducible apply State.startUps_keeps
    | with_reducible apply State.putHead_keeps
    | with_reducible apply State.loaded_keeps
    | with_reducible refine Keeps.foldl _ (fun s x hs => ?_) ?_
    | with_reducible refine Keeps.foldl1 _ (fun s x hs => ?_) ?_
    | with_reducible apply Keeps.ite
    | split
    | (intro s' hs'; try dsimp only)
    | dsimp only

theorem execCommitLoad_keeps {s₀ s t : State}  (e : execCommitLoad s = .next t) (h₀ : Keeps s₀ s) : Keeps s₀ t := by
  obtain rfl := Host.Outcome.next.inj e
  clear e
  repeat' first
    | with_reducible assumption
    | with_reducible exact rfl
    | with_reducible apply State.startLoad_keeps
    | with_reducible apply State.loadDue_keeps
    | with_reducible apply State.loaded_keeps
    | with_reducible apply Keeps.ite
    | split
    | (intro s' hs'; try dsimp only)
    | dsimp only

theorem State.setCommit_keeps {s₀ s : State} {k : Nat} {c : Commit} (h₀ : Keeps s₀ s) : Keeps s₀ (State.setCommit s k c) := by
  unfold State.setCommit
  repeat' first
    | with_reducible assumption
    | with_reducible exact rfl
    | with_reducible apply State.putQueue_keeps
    | with_reducible apply Keeps.ite
    | split
    | (intro s' hs'; try dsimp only)
    | dsimp only

theorem State.passed_keeps {s₀ s : State} {k : Nat} {c : Commit} (h₀ : Keeps s₀ s) : Keeps s₀ (State.passed s k c) := by
  unfold State.passed
  dsimp only
  repeat' first
    | with_reducible assumption
    | with_reducible exact rfl
    | with_reducible apply State.failCommit_keeps
    | with_reducible apply State.setCommit_keeps
    | with_reducible apply State.startLoad_keeps
    | with_reducible apply Keeps.ite
    | split
    | (intro s' hs'; try dsimp only)
    | dsimp only

theorem execCommitCheck_keeps {s₀ s t : State}  (e : execCommitCheck s = .next t) (h₀ : Keeps s₀ s) : Keeps s₀ t := by
  obtain rfl := Host.Outcome.next.inj e
  clear e
  repeat' first
    | with_reducible assumption
    | with_reducible exact rfl
    | with_reducible apply State.failCommit_keeps
    | with_reducible apply State.passed_keeps
    | with_reducible apply State.take_keeps
    | with_reducible apply Keeps.ite
    | split
    | (intro s' hs'; try dsimp only)
    | dsimp only

theorem State.recheckOne_keeps {s₀ s : State} {k : Nat} (h₀ : Keeps s₀ s) : Keeps s₀ (State.recheckOne s k) := by
  unfold State.recheckOne
  dsimp only
  repeat' first
    | with_reducible assumption
    | with_reducible exact rfl
    | with_reducible apply State.failCommit_keeps
    | with_reducible apply State.passed_keeps
    | with_reducible apply Keeps.ite
    | split
    | (intro s' hs'; try dsimp only)
    | dsimp only

theorem State.recheckAll_keeps {s₀ s : State}  {n0 : Nat} (h₀ : Keeps s₀ s) : Keeps s₀ (State.recheckAll s n0) := by
  induction n0 generalizing s   with
  | zero =>
    unfold State.recheckAll
    repeat' first
      | with_reducible assumption
      | with_reducible exact rfl
      | with_reducible apply State.recheckOne_keeps
      | with_reducible apply Keeps.ite
      | split
      | (intro s' hs'; try dsimp only)
      | dsimp only
  | succ m ih =>
    unfold State.recheckAll
    repeat' first
      | with_reducible assumption
      | with_reducible exact rfl
      | with_reducible apply ih
      | with_reducible apply State.recheckOne_keeps
      | with_reducible apply Keeps.ite
      | split
      | (intro s' hs'; try dsimp only)
      | dsimp only

theorem execCommitRecheck_keeps {s₀ s t : State}  (e : execCommitRecheck s = .next t) (h₀ : Keeps s₀ s) : Keeps s₀ t := by
  obtain rfl := Host.Outcome.next.inj e
  clear e
  repeat' first
    | with_reducible assumption
    | with_reducible exact rfl
    | with_reducible apply State.recheckAll_keeps
    | with_reducible apply Keeps.ite
    | split
    | (intro s' hs'; try dsimp only)
    | dsimp only

theorem State.startQuiesces_keeps {s₀ s : State} {t : Nat} (h₀ : Keeps s₀ s) : Keeps s₀ (State.startQuiesces s t) := by
  unfold State.startQuiesces
  dsimp only
  repeat' first
    | with_reducible assumption
    | with_reducible exact rfl
    | with_reducible apply State.setCommit_keeps
    | with_reducible apply State.quiesce_keeps
    | with_reducible refine Keeps.foldl _ (fun s x hs => ?_) ?_
    | with_reducible refine Keeps.foldl1 _ (fun s x hs => ?_) ?_
    | with_reducible apply Keeps.ite
    | split
    | (intro s' hs'; try dsimp only)
    | dsimp only

theorem State.endOrphans_keeps {s₀ s : State} (h₀ : Keeps s₀ s) : Keeps s₀ (State.endOrphans s) := by
  unfold State.endOrphans
  repeat' first
    | with_reducible assumption
    | with_reducible exact rfl
    | with_reducible apply State.endQuiesce_keeps
    | with_reducible apply State.quiesce_keeps
    | with_reducible refine Keeps.foldl _ (fun s x hs => ?_) ?_
    | with_reducible refine Keeps.foldl1 _ (fun s x hs => ?_) ?_
    | with_reducible apply Keeps.ite
    | split
    | (intro s' hs'; try dsimp only)
    | dsimp only

theorem State.abortDue_keeps {s₀ s : State} {t : Nat} (h₀ : Keeps s₀ s) : Keeps s₀ (State.abortDue s t) := by
  unfold State.abortDue
  repeat' first
    | with_reducible assumption
    | with_reducible exact rfl
    | with_reducible apply State.abortUnit_keeps
    | with_reducible refine Keeps.foldl _ (fun s x hs => ?_) ?_
    | with_reducible refine Keeps.foldl1 _ (fun s x hs => ?_) ?_
    | with_reducible apply Keeps.ite
    | split
    | (intro s' hs'; try dsimp only)
    | dsimp only

theorem execQuiesceStart_keeps {s₀ s t : State}  (e : execQuiesceStart s = .next t) (h₀ : Keeps s₀ s) : Keeps s₀ t := by
  obtain rfl := Host.Outcome.next.inj e
  clear e
  repeat' first
    | with_reducible assumption
    | with_reducible exact rfl
    | with_reducible apply State.startQuiesces_keeps
    | with_reducible apply Keeps.ite
    | split
    | (intro s' hs'; try dsimp only)
    | dsimp only

theorem execDiverge_keeps {s₀ s t : State} {cls : Nat} {inst : Nat} (e : execDiverge cls inst s = .next t) (h₀ : Keeps s₀ s) : Keeps s₀ t := by
  obtain rfl := Host.Outcome.next.inj e
  clear e
  repeat' first
    | with_reducible assumption
    | with_reducible exact rfl
    | with_reducible apply State.putUnit_keeps
    | with_reducible apply State.post0_keeps
    | with_reducible apply Keeps.ite
    | split
    | (intro s' hs'; try dsimp only)
    | dsimp only

theorem execConverge_keeps {s₀ s t : State} {cls : Nat} {inst : Nat} (e : execConverge cls inst s = .next t) (h₀ : Keeps s₀ s) : Keeps s₀ t := by
  obtain rfl := Host.Outcome.next.inj e
  clear e
  repeat' first
    | with_reducible assumption
    | with_reducible exact rfl
    | with_reducible apply State.putUnit_keeps
    | with_reducible apply State.post0_keeps
    | with_reducible apply Keeps.ite
    | split
    | (intro s' hs'; try dsimp only)
    | dsimp only

theorem State.beginLoad_keeps {s₀ s : State} {ring : Nat} {q : Req} {ok : Bool} (h₀ : Keeps s₀ s) : Keeps s₀ (State.beginLoad s ring q ok) := by
  unfold State.beginLoad
  dsimp only
  repeat' first
    | with_reducible assumption
    | with_reducible exact rfl
    | with_reducible apply State.storeBlob_keeps
    | with_reducible apply State.dmaRead_keeps
    | with_reducible apply State.finish_keeps
    | with_reducible apply State.setCmt_keeps
    | with_reducible apply State.take_keeps
    | (with_reducible apply State.storeBlob_keeps_eq; with_reducible assumption)
    | (with_reducible apply State.dmaRead_keeps_eq; with_reducible assumption)
    | with_reducible apply Keeps.ite
    | split
    | (intro s' hs'; try dsimp only)
    | dsimp only

theorem State.endLoad_keeps {s₀ s : State} {l : BlobLoad} (h₀ : Keeps s₀ s) : Keeps s₀ (State.endLoad s l) := by
  unfold State.endLoad
  dsimp only
  repeat' first
    | with_reducible assumption
    | with_reducible exact rfl
    | with_reducible apply State.setCmt_keeps
    | with_reducible apply State.finish_keeps
    | with_reducible apply Keeps.ite
    | split
    | (intro s' hs'; try dsimp only)
    | dsimp only

theorem execBlobLoad_keeps {s₀ s t : State} {ring : Nat} {ok : Bool} (e : execBlobLoad ring ok s = .next t) (h₀ : Keeps s₀ s) : Keeps s₀ t := by
  obtain rfl := Host.Outcome.next.inj e
  clear e
  repeat' first
    | with_reducible assumption
    | with_reducible exact rfl
    | with_reducible apply State.beginLoad_keeps
    | with_reducible apply State.endLoad_keeps
    | with_reducible apply Keeps.ite
    | split
    | (intro s' hs'; try dsimp only)
    | dsimp only

end Sys2Proof.Machine
end

