-- ==== Sys2Proof/Laws/KeepsApply.lean ====
section
/-! SUPPORT. Laws/KeepsApply.lean: what the operations of Machine/Apply.lean keep (Laws/Keeps.lean), one lemma each. -/

namespace Sys2Proof.Machine

theorem State.applyClk_keeps {s₀ s : State} {w : Swap} (h₀ : Keeps s₀ s) : Keeps s₀ (State.applyClk s w) := by
  unfold State.applyClk
  dsimp only
  repeat' first
    | with_reducible assumption
    | with_reducible exact rfl
    | with_reducible apply State.commandVdd_keeps
    | with_reducible apply State.startOpp_keeps
    | with_reducible apply State.setClk_keeps
    | with_reducible apply Keeps.ite
    | split
    | (intro s' hs'; try dsimp only)
    | dsimp only

theorem State.applyPort_keeps {s₀ s : State} {w : Swap} {c : Nat} {p : Nat} (h₀ : Keeps s₀ s) : Keeps s₀ (State.applyPort s w c p) := by
  unfold State.applyPort
  dsimp only
  repeat' first
    | with_reducible assumption
    | with_reducible exact rfl
    | with_reducible apply State.portStart_keeps
    | with_reducible apply State.portStop_keeps
    | with_reducible apply Keeps.ite
    | split
    | (intro s' hs'; try dsimp only)
    | dsimp only

theorem State.applyHpf_keeps {s₀ s : State} {w : Swap} {e : Nat} {c : Nat} (h₀ : Keeps s₀ s) : Keeps s₀ (State.applyHpf s w e c) := by
  unfold State.applyHpf
  repeat' first
    | with_reducible assumption
    | with_reducible exact rfl
    | with_reducible apply State.putHpf_keeps
    | with_reducible apply Keeps.ite
    | split
    | (intro s' hs'; try dsimp only)
    | dsimp only

theorem State.applyGain_keeps {s₀ s : State} {w : Swap} {e : Nat} {c : Nat} (h₀ : Keeps s₀ s) : Keeps s₀ (State.applyGain s w e c) := by
  unfold State.applyGain
  dsimp only
  repeat' first
    | with_reducible assumption
    | with_reducible exact rfl
    | with_reducible apply State.putGain_keeps
    | with_reducible apply Keeps.ite
    | split
    | (intro s' hs'; try dsimp only)
    | dsimp only

theorem State.applyDrc_keeps {s₀ s : State} {w : Swap} {i : Nat} (h₀ : Keeps s₀ s) : Keeps s₀ (State.applyDrc s w i) := by
  unfold State.applyDrc
  dsimp only
  repeat' first
    | with_reducible assumption
    | with_reducible exact rfl
    | with_reducible apply State.putDrc_keeps
    | with_reducible apply Keeps.ite
    | split
    | (intro s' hs'; try dsimp only)
    | dsimp only

theorem State.applyAudio_keeps {s₀ s : State} {w : Swap} (h₀ : Keeps s₀ s) : Keeps s₀ (State.applyAudio s w) := by
  unfold State.applyAudio
  dsimp only
  repeat' first
    | with_reducible assumption
    | with_reducible exact rfl
    | with_reducible apply State.applyGain_keeps
    | with_reducible apply State.applyHpf_keeps
    | with_reducible apply State.applyDrc_keeps
    | with_reducible refine Keeps.foldl _ (fun s x hs => ?_) ?_
    | with_reducible refine Keeps.foldl1 _ (fun s x hs => ?_) ?_
    | with_reducible apply Keeps.ite
    | split
    | (intro s' hs'; try dsimp only)
    | dsimp only

theorem State.clearPatch_keeps {s₀ s : State} {x : Prog} (h₀ : Keeps s₀ s) : Keeps s₀ (State.clearPatch s x) := by
  unfold State.clearPatch
  repeat' first
    | with_reducible assumption
    | with_reducible exact rfl
    | with_reducible apply State.setChurn_keeps
    | with_reducible refine Keeps.foldl _ (fun s x hs => ?_) ?_
    | with_reducible refine Keeps.foldl1 _ (fun s x hs => ?_) ?_
    | exact tableOk_tset _ _
    | with_reducible apply Keeps.ite
    | split
    | (intro s' hs'; try dsimp only)
    | dsimp only

theorem State.applyPu_keeps {s₀ s : State} {w : Swap} {p : Nat} (h₀ : Keeps s₀ s) : Keeps s₀ (State.applyPu s w p) := by
  unfold State.applyPu
  dsimp only
  repeat' first
    | with_reducible assumption
    | with_reducible exact rfl
    | with_reducible apply State.clearPatch_keeps
    | with_reducible apply State.loaded_keeps
    | with_reducible apply State.putPu_keeps
    | with_reducible apply Keeps.ite
    | split
    | (intro s' hs'; try dsimp only)
    | dsimp only

theorem State.clearOuts_keeps {s₀ s : State} {x1 : Proj} (h₀ : Keeps s₀ s) : Keeps s₀ (State.clearOuts s x1) := by
  unfold State.clearOuts
  dsimp only
  repeat' first
    | with_reducible assumption
    | with_reducible exact rfl
    | with_reducible apply State.setChurn_keeps
    | with_reducible apply Keeps.ite
    | split
    | (intro s' hs'; try dsimp only)
    | dsimp only

theorem State.applyChurn_keeps {s₀ s : State} {w : Swap} (h₀ : Keeps s₀ s) : Keeps s₀ (State.applyChurn s w) := by
  unfold State.applyChurn
  dsimp only
  repeat' first
    | with_reducible assumption
    | with_reducible exact rfl
    | with_reducible apply State.clearOuts_keeps
    | with_reducible apply State.applyPu_keeps
    | with_reducible refine Keeps.foldl _ (fun s x hs => ?_) ?_
    | with_reducible refine Keeps.foldl1 _ (fun s x hs => ?_) ?_
    | with_reducible apply Keeps.ite
    | split
    | (intro s' hs'; try dsimp only)
    | dsimp only

theorem State.clearRows_keeps {s₀ s : State} {d : ModelDesc} (h₀ : Keeps s₀ s) : Keeps s₀ (State.clearRows s d) := by
  unfold State.clearRows
  dsimp only
  repeat' first
    | with_reducible assumption
    | with_reducible exact rfl
    | with_reducible apply State.putTile_keeps
    | with_reducible refine Keeps.foldl _ (fun s x hs => ?_) ?_
    | with_reducible refine Keeps.foldl1 _ (fun s x hs => ?_) ?_
    | with_reducible apply Keeps.ite
    | split
    | (intro s' hs'; try dsimp only)
    | dsimp only

theorem State.newModel_keeps {s₀ s : State} {w : Swap} {m : Nat} (h₀ : Keeps s₀ s) : Keeps s₀ (State.newModel s w m) := by
  unfold State.newModel
  dsimp only
  repeat' first
    | with_reducible assumption
    | with_reducible exact rfl
    | with_reducible apply State.clearRows_keeps
    | with_reducible apply State.putModel_keeps
    | with_reducible apply Keeps.ite
    | split
    | (intro s' hs'; try dsimp only)
    | dsimp only

theorem State.applySep_keeps {s₀ s : State} {w : Swap} (h₀ : Keeps s₀ s) : Keeps s₀ (State.applySep s w) := by
  unfold State.applySep
  repeat' first
    | with_reducible assumption
    | with_reducible exact rfl
    | with_reducible apply State.newModel_keeps
    | with_reducible refine Keeps.foldl _ (fun s x hs => ?_) ?_
    | with_reducible refine Keeps.foldl1 _ (fun s x hs => ?_) ?_
    | with_reducible apply Keeps.ite
    | split
    | (intro s' hs'; try dsimp only)
    | dsimp only

theorem State.trimPosted_keeps {s₀ s : State} {p : Nat} (h₀ : Keeps s₀ s) : Keeps s₀ (State.trimPosted s p) := by
  unfold State.trimPosted
  dsimp only
  repeat' first
    | with_reducible assumption
    | with_reducible exact rfl
    | with_reducible apply State.putNet_keeps
    | with_reducible apply State.finish_keeps
    | with_reducible refine Keeps.foldl _ (fun s x hs => ?_) ?_
    | with_reducible refine Keeps.foldl1 _ (fun s x hs => ?_) ?_
    | with_reducible apply Keeps.ite
    | split
    | (intro s' hs'; try dsimp only)
    | dsimp only

theorem State.applyNet_keeps {s₀ s : State} {w : Swap} {p : Nat} (h₀ : Keeps s₀ s) : Keeps s₀ (State.applyNet s w p) := by
  unfold State.applyNet
  dsimp only
  repeat' first
    | with_reducible assumption
    | with_reducible exact rfl
    | with_reducible apply State.trimPosted_keeps
    | with_reducible apply State.netStart_keeps
    | with_reducible apply State.netStop_keeps
    | with_reducible apply State.putNet_keeps
    | with_reducible apply Keeps.ite
    | split
    | (intro s' hs'; try dsimp only)
    | dsimp only

theorem State.applyCow_keeps {s₀ s : State} {w : Swap} {p : Nat} (h₀ : Keeps s₀ s) : Keeps s₀ (State.applyCow s w p) := by
  unfold State.applyCow
  dsimp only
  repeat' first
    | with_reducible assumption
    | with_reducible exact rfl
    | with_reducible apply State.cowStart_keeps
    | with_reducible apply Keeps.ite
    | split
    | (intro s' hs'; try dsimp only)
    | dsimp only

theorem State.applyMedium_keeps {s₀ s : State} {w : Swap} {p : Nat} (h₀ : Keeps s₀ s) : Keeps s₀ (State.applyMedium s w p) := by
  unfold State.applyMedium
  dsimp only
  repeat' first
    | with_reducible assumption
    | with_reducible exact rfl
    | with_reducible apply State.putHerd_keeps
    | with_reducible apply Keeps.ite
    | split
    | (intro s' hs'; try dsimp only)
    | dsimp only

theorem State.applyHerd_keeps {s₀ s : State} {w : Swap} {p : Nat} (h₀ : Keeps s₀ s) : Keeps s₀ (State.applyHerd s w p) := by
  unfold State.applyHerd
  dsimp only
  repeat' first
    | with_reducible assumption
    | with_reducible exact rfl
    | with_reducible apply State.applyMedium_keeps
    | with_reducible apply State.herdStart_keeps
    | with_reducible apply State.herdStop_keeps
    | with_reducible apply State.applyCow_keeps
    | with_reducible apply State.putHerd_keeps
    | with_reducible apply Keeps.ite
    | split
    | (intro s' hs'; try dsimp only)
    | dsimp only

theorem State.applyStream_keeps {s₀ s : State} {w : Swap} {e : Nat} (h₀ : Keeps s₀ s) : Keeps s₀ (State.applyStream s w e) := by
  unfold State.applyStream
  repeat' first
    | with_reducible assumption
    | with_reducible exact rfl
    | with_reducible apply State.putStream_keeps
    | with_reducible apply Keeps.ite
    | split
    | (intro s' hs'; try dsimp only)
    | dsimp only

theorem State.applyNets_keeps {s₀ s : State} {w : Swap} (h₀ : Keeps s₀ s) : Keeps s₀ (State.applyNets s w) := by
  unfold State.applyNets
  dsimp only
  repeat' first
    | with_reducible assumption
    | with_reducible exact rfl
    | with_reducible apply State.applyStream_keeps
    | with_reducible apply State.setFormats_keeps
    | with_reducible apply State.applyHerd_keeps
    | with_reducible apply State.applyNet_keeps
    | with_reducible refine Keeps.foldl _ (fun s x hs => ?_) ?_
    | with_reducible refine Keeps.foldl1 _ (fun s x hs => ?_) ?_
    | with_reducible apply Keeps.ite
    | split
    | (intro s' hs'; try dsimp only)
    | dsimp only

theorem State.putBufBase_keeps {s₀ s : State} {k : Nat} {b : Nat} (h₀ : Keeps s₀ s) : Keeps s₀ (State.putBufBase s k b) := by
  unfold State.putBufBase
  repeat' first
    | with_reducible assumption
    | with_reducible exact rfl
    | with_reducible apply State.putHaudio_keeps
    | with_reducible apply State.putStream_keeps
    | with_reducible apply Keeps.ite
    | split
    | (intro s' hs'; try dsimp only)
    | dsimp only

theorem State.placeBuf_keeps {s₀ s : State} {others : List Nat} {k : Nat} (h₀ : Keeps s₀ s) : Keeps s₀ (State.placeBuf s others k).1 := by
  unfold State.placeBuf
  dsimp only
  repeat' first
    | with_reducible assumption
    | with_reducible exact rfl
    | with_reducible apply State.putBufBase_keeps
    | with_reducible apply Keeps.ite
    | split
    | (intro s' hs'; try dsimp only)
    | dsimp only

theorem State.placeBuf_keeps_eq {s₀ s t : State} {y : Bool} {others : List Nat} {k : Nat}  (e : State.placeBuf s others k  = (t, y)) (h₀ : Keeps s₀ s) : Keeps s₀ t :=
  Keeps.fst e (State.placeBuf_keeps h₀)

theorem State.placeBufs_keeps {s₀ s : State} {others : List Nat} {n0 : List Nat} (h₀ : Keeps s₀ s) : Keeps s₀ (State.placeBufs s others n0).1 := by
  induction n0 generalizing s others  with
  | nil =>
    unfold State.placeBufs
    repeat' first
      | with_reducible assumption
      | with_reducible exact rfl
      | with_reducible apply State.placeBuf_keeps
      | (with_reducible apply State.placeBuf_keeps_eq; with_reducible assumption)
      | with_reducible apply Keeps.ite
      | split
      | (intro s' hs'; try dsimp only)
      | dsimp only
  | cons y m ih =>
    unfold State.placeBufs
    repeat' first
      | with_reducible assumption
      | with_reducible exact rfl
      | with_reducible apply ih
      | (apply Keeps.fst; with_reducible assumption; with_reducible apply ih)
      | with_reducible apply State.placeBuf_keeps
      | (with_reducible apply State.placeBuf_keeps_eq; with_reducible assumption)
      | with_reducible apply Keeps.ite
      | split
      | (intro s' hs'; try dsimp only)
      | dsimp only

theorem State.placeBufs_keeps_eq {s₀ s t : State} {y : Bool} {others : List Nat} {n0 : List Nat} (e : State.placeBufs s others n0 = (t, y)) (h₀ : Keeps s₀ s) : Keeps s₀ t :=
  Keeps.fst e (State.placeBufs_keeps h₀)

theorem State.applyStage_keeps {s₀ s : State} {w : Swap} (h₀ : Keeps s₀ s) : Keeps s₀ (State.applyStage s w) := by
  unfold State.applyStage
  dsimp only
  repeat' first
    | with_reducible assumption
    | with_reducible exact rfl
    | with_reducible apply State.placeBufs_keeps
    | (with_reducible apply State.placeBufs_keeps_eq; with_reducible assumption)
    | with_reducible apply Keeps.ite
    | split
    | (intro s' hs'; try dsimp only)
    | dsimp only

theorem State.applyUnits_keeps {s₀ s : State} {w : Swap} (h₀ : Keeps s₀ s) : Keeps s₀ (State.applyUnits s w) := by
  unfold State.applyUnits
  dsimp only
  repeat' first
    | with_reducible assumption
    | with_reducible exact rfl
    | with_reducible apply State.applyAudio_keeps
    | with_reducible apply State.applyChurn_keeps
    | with_reducible apply State.applyStage_keeps
    | with_reducible apply State.applyPort_keeps
    | with_reducible apply State.applyNets_keeps
    | with_reducible apply State.applyClk_keeps
    | with_reducible apply State.applySep_keeps
    | with_reducible apply State.setHost_keeps
    | with_reducible refine Keeps.foldl _ (fun s x hs => ?_) ?_
    | with_reducible refine Keeps.foldl1 _ (fun s x hs => ?_) ?_
    | with_reducible apply Keeps.ite
    | split
    | (intro s' hs'; try dsimp only)
    | dsimp only

theorem State.swapCfg_keeps {s₀ s : State} {w : Swap} {fn : Nat} (h₀ : Keeps s₀ s) : Keeps s₀ (State.swapCfg s w fn) := by
  unfold State.swapCfg
  repeat' first
    | with_reducible assumption
    | with_reducible exact rfl
    | with_reducible apply State.setCmt_keeps
    | with_reducible apply State.setPwr_keeps
    | with_reducible apply Keeps.ite
    | split
    | (intro s' hs'; try dsimp only)
    | dsimp only

theorem State.keepToken_keeps {s₀ s : State} {f : Nat} {token : BitVec 64} {a : BitVec 64} (h₀ : Keeps s₀ s) : Keeps s₀ (State.keepToken s f token a) := by
  unfold State.keepToken
  repeat' first
    | with_reducible assumption
    | with_reducible exact rfl
    | with_reducible apply State.putFn_keeps
    | with_reducible apply State.take_keeps
    | with_reducible apply Keeps.ite
    | split
    | (intro s' hs'; try dsimp only)
    | dsimp only

theorem State.applyFn_keeps {s₀ s : State} {c : Commit} {f : Nat} {a : Nat} (h₀ : Keeps s₀ s) : Keeps s₀ (State.applyFn s c f a) := by
  unfold State.applyFn
  dsimp only
  repeat' first
    | with_reducible assumption
    | with_reducible exact rfl
    | with_reducible apply State.requestProfile_keeps
    | with_reducible apply State.applyUnits_keeps
    | with_reducible apply State.endWaiters_keeps
    | with_reducible apply State.keepToken_keeps
    | with_reducible apply State.putQueue_keeps
    | with_reducible apply State.shedUnit_keeps
    | with_reducible apply State.swapCfg_keeps
    | with_reducible apply State.finish_keeps
    | with_reducible refine Keeps.foldl _ (fun s x hs => ?_) ?_
    | with_reducible refine Keeps.foldl1 _ (fun s x hs => ?_) ?_
    | with_reducible apply Keeps.ite
    | split
    | (intro s' hs'; try dsimp only)
    | dsimp only

theorem State.admitDev_keeps {s₀ s : State} (h₀ : Keeps s₀ s) : Keeps s₀ (State.admitDev s) := by
  unfold State.admitDev
  repeat' first
    | with_reducible assumption
    | with_reducible exact rfl
    | with_reducible apply State.enterDev_keeps
    | with_reducible apply State.setCmt_keeps
    | with_reducible apply Keeps.ite
    | split
    | (intro s' hs'; try dsimp only)
    | dsimp only

theorem State.applyDev_keeps {s₀ s : State} {c : Commit} {p : Nat} {cause : Nat} {a : Nat} (h₀ : Keeps s₀ s) : Keeps s₀ (State.applyDev s c p cause a) := by
  unfold State.applyDev
  dsimp only
  repeat' first
    | with_reducible assumption
    | with_reducible exact rfl
    | with_reducible apply State.applyUnits_keeps
    | with_reducible apply State.haltModel_keeps
    | with_reducible apply State.putQueue_keeps
    | with_reducible apply State.shedUnit_keeps
    | with_reducible apply State.admitDev_keeps
    | with_reducible apply State.swapCfg_keeps
    | with_reducible apply State.setPwr_keeps
    | with_reducible apply State.post0_keeps
    | with_reducible apply State.bump_keeps
    | with_reducible refine Keeps.foldl _ (fun s x hs => ?_) ?_
    | with_reducible refine Keeps.foldl1 _ (fun s x hs => ?_) ?_
    | with_reducible apply Keeps.ite
    | split
    | (intro s' hs'; try dsimp only)
    | dsimp only

theorem State.applyHead_keeps {s₀ s : State} {c : Commit} {a : Nat} (h₀ : Keeps s₀ s) : Keeps s₀ (State.applyHead s c a) := by
  unfold State.applyHead
  repeat' first
    | with_reducible assumption
    | with_reducible exact rfl
    | with_reducible apply State.applyDev_keeps
    | with_reducible apply State.putQueue_keeps
    | with_reducible apply State.applyFn_keeps
    | with_reducible apply Keeps.ite
    | split
    | (intro s' hs'; try dsimp only)
    | dsimp only

theorem State.replan_keeps {s₀ s : State} {t : Nat} {n0 : Nat} (h₀ : Keeps s₀ s) : Keeps s₀ (State.replan s t n0) := by
  induction n0 generalizing s t  with
  | zero =>
    unfold State.replan
    repeat' first
      | with_reducible assumption
      | with_reducible exact rfl
      | with_reducible apply State.failCommit_keeps
      | with_reducible apply State.setCommit_keeps
      | with_reducible apply Keeps.ite
      | split
      | (intro s' hs'; try dsimp only)
      | dsimp only
  | succ m ih =>
    unfold State.replan
    repeat' first
      | with_reducible assumption
      | with_reducible exact rfl
      | with_reducible apply ih
      | with_reducible apply State.failCommit_keeps
      | with_reducible apply State.setCommit_keeps
      | with_reducible apply Keeps.ite
      | split
      | (intro s' hs'; try dsimp only)
      | dsimp only

theorem State.h4_keeps {s₀ s : State} (h₀ : Keeps s₀ s) : Keeps s₀ (State.h4 s) := by
  unfold State.h4
  dsimp only
  repeat' first
    | with_reducible assumption
    | with_reducible exact rfl
    | with_reducible apply State.startQuiesces_keeps
    | with_reducible apply State.endOrphans_keeps
    | with_reducible apply State.startLoad_keeps
    | with_reducible apply State.applyHead_keeps
    | with_reducible apply State.abortDue_keeps
    | with_reducible apply State.loadDue_keeps
    | with_reducible apply State.replan_keeps
    | with_reducible apply Keeps.ite
    | split
    | (intro s' hs'; try dsimp only)
    | dsimp only

theorem State.h5Load_keeps {s₀ s : State} (h₀ : Keeps s₀ s) : Keeps s₀ (State.h5Load s) := by
  unfold State.h5Load
  repeat' first
    | with_reducible assumption
    | with_reducible exact rfl
    | with_reducible apply State.startLoad_keeps
    | with_reducible apply State.loadDue_keeps
    | with_reducible apply Keeps.ite
    | split
    | (intro s' hs'; try dsimp only)
    | dsimp only

end Sys2Proof.Machine
end

