-- ==== Sys2Proof/Laws/KeepsSelftest.lean ====
section
/-! SUPPORT. Laws/KeepsSelftest.lean: what the operations of Machine/Selftest.lean keep (Laws/Keeps.lean), one lemma each. -/

namespace Sys2Proof.Machine

theorem State.startTest_keeps {s₀ s : State} {g : Nat} {q : Req} (h₀ : Keeps s₀ s) : Keeps s₀ (State.startTest s g q) := by
  unfold State.startTest
  dsimp only
  repeat' first
    | with_reducible assumption
    | with_reducible exact rfl
    | with_reducible apply State.setTests_keeps
    | with_reducible apply State.take_keeps
    | with_reducible apply Keeps.ite
    | split
    | (intro s' hs'; try dsimp only)
    | dsimp only

theorem State.endTest_keeps {s₀ s : State} {t : TestRun} {result : List Byte} (h₀ : Keeps s₀ s) : Keeps s₀ (State.endTest s t result) := by
  unfold State.endTest
  repeat' first
    | with_reducible assumption
    | with_reducible exact rfl
    | with_reducible apply State.finishWrite_keeps
    | with_reducible apply State.setTests_keeps
    | with_reducible apply Keeps.ite
    | split
    | (intro s' hs'; try dsimp only)
    | dsimp only

theorem State.takeTest_keeps {s₀ s : State} {g : Nat} {q : Req} {c : Nat} {i : Nat} (h₀ : Keeps s₀ s) : Keeps s₀ (State.takeTest s g q c i) := by
  unfold State.takeTest
  repeat' first
    | with_reducible assumption
    | with_reducible exact rfl
    | with_reducible apply State.startTest_keeps
    | with_reducible apply State.finish_keeps
    | with_reducible apply Keeps.ite
    | split
    | (intro s' hs'; try dsimp only)
    | dsimp only

theorem execSepTile_keeps {s₀ s t : State} {ring : Nat} (e : execSepTile ring s = .next t) (h₀ : Keeps s₀ s) : Keeps s₀ t := by
  obtain rfl := Host.Outcome.next.inj e
  clear e
  repeat' first
    | with_reducible assumption
    | with_reducible exact rfl
    | with_reducible apply State.startTest_keeps
    | with_reducible apply State.clearTile_keeps
    | with_reducible apply State.quiesce_keeps
    | with_reducible apply State.finish_keeps
    | with_reducible apply Keeps.ite
    | split
    | (intro s' hs'; try dsimp only)
    | dsimp only

theorem execSepTileEnd_keeps {s₀ s t : State} {tile : Nat} {fails : TileFails} {pass : Bool} (e : execSepTileEnd tile fails pass s = .next t) (h₀ : Keeps s₀ s) : Keeps s₀ t := by
  obtain rfl := Host.Outcome.next.inj e
  clear e
  repeat' first
    | with_reducible assumption
    | with_reducible exact rfl
    | with_reducible apply State.endQuiesce_keeps
    | with_reducible apply State.endTest_keeps
    | with_reducible apply Keeps.ite
    | split
    | (intro s' hs'; try dsimp only)
    | dsimp only

theorem execApllCal_keeps {s₀ s t : State} {ring : Nat} (e : execApllCal ring s = .next t) (h₀ : Keeps s₀ s) : Keeps s₀ t := by
  obtain rfl := Host.Outcome.next.inj e
  clear e
  repeat' first
    | with_reducible assumption
    | with_reducible exact rfl
    | with_reducible apply State.finish_keeps
    | with_reducible apply Keeps.ite
    | split
    | (intro s' hs'; try dsimp only)
    | dsimp only

theorem execHerdCal_keeps {s₀ s t : State} {ring : Nat} (e : execHerdCal ring s = .next t) (h₀ : Keeps s₀ s) : Keeps s₀ t := by
  obtain rfl := Host.Outcome.next.inj e
  clear e
  repeat' first
    | with_reducible assumption
    | with_reducible exact rfl
    | with_reducible apply State.takeTest_keeps
    | with_reducible apply Keeps.ite
    | split
    | (intro s' hs'; try dsimp only)
    | dsimp only

theorem State.calAborts_keeps {s₀ s : State} (h₀ : Keeps s₀ s) : Keeps s₀ (State.calAborts s) := by
  unfold State.calAborts
  repeat' first
    | with_reducible assumption
    | with_reducible exact rfl
    | with_reducible apply State.endTest_keeps
    | with_reducible refine Keeps.foldl _ (fun s x hs => ?_) ?_
    | with_reducible refine Keeps.foldl1 _ (fun s x hs => ?_) ?_
    | with_reducible apply Keeps.ite
    | split
    | (intro s' hs'; try dsimp only)
    | dsimp only

theorem execPhyCalibration_keeps {s₀ s t : State} {port : Nat} {rxOfs : BitVec 7} {txLvl : BitVec 7} {limit : Bool} (e : execPhyCalibration port rxOfs txLvl limit s = .next t) (h₀ : Keeps s₀ s) : Keeps s₀ t := by
  obtain rfl := Host.Outcome.next.inj e
  clear e
  repeat' first
    | with_reducible assumption
    | with_reducible exact rfl
    | with_reducible apply State.putHerd_keeps
    | with_reducible apply State.endTest_keeps
    | with_reducible apply Keeps.ite
    | split
    | (intro s' hs'; try dsimp only)
    | dsimp only

theorem execChurnPeek_keeps {s₀ s t : State} {ring : Nat} (e : execChurnPeek ring s = .next t) (h₀ : Keeps s₀ s) : Keeps s₀ t := by
  obtain rfl := Host.Outcome.next.inj e
  clear e
  repeat' first
    | with_reducible assumption
    | with_reducible exact rfl
    | with_reducible apply State.takeTest_keeps
    | with_reducible apply Keeps.ite
    | split
    | (intro s' hs'; try dsimp only)
    | dsimp only

theorem State.churnPeek_keeps {s₀ s : State} {p : Nat} (h₀ : Keeps s₀ s) : Keeps s₀ (State.churnPeek s p) := by
  unfold State.churnPeek
  repeat' first
    | with_reducible assumption
    | with_reducible exact rfl
    | with_reducible apply State.endTest_keeps
    | with_reducible apply Keeps.ite
    | split
    | (intro s' hs'; try dsimp only)
    | dsimp only

theorem execSepPeek_keeps {s₀ s t : State} {ring : Nat} (e : execSepPeek ring s = .next t) (h₀ : Keeps s₀ s) : Keeps s₀ t := by
  obtain rfl := Host.Outcome.next.inj e
  clear e
  repeat' first
    | with_reducible assumption
    | with_reducible exact rfl
    | with_reducible apply State.takeTest_keeps
    | with_reducible apply Keeps.ite
    | split
    | (intro s' hs'; try dsimp only)
    | dsimp only

theorem State.sepPeek_keeps {s₀ s : State} {t : Nat} (h₀ : Keeps s₀ s) : Keeps s₀ (State.sepPeek s t) := by
  unfold State.sepPeek
  repeat' first
    | with_reducible assumption
    | with_reducible exact rfl
    | with_reducible apply State.endTest_keeps
    | with_reducible apply Keeps.ite
    | split
    | (intro s' hs'; try dsimp only)
    | dsimp only

theorem execSepPeekSnapshot_keeps {s₀ s t : State} {tile : Nat} (e : execSepPeekSnapshot tile s = .next t) (h₀ : Keeps s₀ s) : Keeps s₀ t := by
  obtain rfl := Host.Outcome.next.inj e
  clear e
  repeat' first
    | with_reducible assumption
    | with_reducible exact rfl
    | with_reducible apply State.sepPeek_keeps
    | with_reducible apply Keeps.ite
    | split
    | (intro s' hs'; try dsimp only)
    | dsimp only

end Sys2Proof.Machine
end

