-- ==== Sys2Proof/Laws/KeepsTick.lean ====
section
/-! SUPPORT. Laws/KeepsTick.lean: what the operations of Machine/Tick.lean keep (Laws/Keeps.lean), one lemma each. -/

namespace Sys2Proof.Machine

theorem goOn_keeps {s₀ s : State} {o : Host.Outcome State Fault Refusal} (ho : ∀ t, o = .next t → Keeps s₀ t) (h₀ : Keeps s₀ s) :
    Keeps s₀ (goOn s o) := by
  cases o with
  | next t => exact ho t rfl
  | fault => exact h₀
  | refused => exact h₀

theorem State.runChurn_keeps {s₀ s : State} {e : Ecc} {i : Instr} (h₀ : Keeps s₀ s) : Keeps s₀ (State.runChurn s e i) := by
  unfold State.runChurn
  split
  · exact goOn_keeps (fun t e => execChurnNop_keeps e h₀) h₀
  · exact goOn_keeps (fun t e => execInb_keeps e h₀) h₀
  · exact goOn_keeps (fun t e => execOutb_keeps e h₀) h₀
  · exact goOn_keeps (fun t e => execPbr_keeps e h₀) h₀
  · exact goOn_keeps (fun t e => execPbw_keeps e h₀) h₀
  · exact State.opLdc_keeps h₀
  · exact goOn_keeps (fun t e => execLdi_keeps e h₀) h₀
  · exact goOn_keeps (fun t e => execMov_keeps e h₀) h₀
  · exact goOn_keeps (fun t e => execUnpkl_keeps e h₀) h₀
  · exact goOn_keeps (fun t e => execUnpkh_keeps e h₀) h₀
  · exact goOn_keeps (fun t e => execPack_keeps e h₀) h₀
  · exact goOn_keeps (fun t e => execDwr_keeps e h₀) h₀
  · exact State.opDrd_keeps h₀
  · exact State.opDrdx_keeps h₀
  · exact State.opVrd_keeps h₀
  · exact goOn_keeps (fun t e => execLut_keeps e h₀) h₀
  · exact goOn_keeps (fun t e => execAdd_keeps e h₀) h₀
  · exact goOn_keeps (fun t e => execSub_keeps e h₀) h₀
  · exact goOn_keeps (fun t e => execNeg_keeps e h₀) h₀
  · exact goOn_keeps (fun t e => execAbs_keeps e h₀) h₀
  · exact goOn_keeps (fun t e => execMin_keeps e h₀) h₀
  · exact goOn_keeps (fun t e => execMax_keeps e h₀) h₀
  · exact goOn_keeps (fun t e => execMulr_keeps e h₀) h₀
  · exact goOn_keeps (fun t e => execAsh_keeps e h₀) h₀
  · exact goOn_keeps (fun t e => execAnd_keeps e h₀) h₀
  · exact goOn_keeps (fun t e => execOr_keeps e h₀) h₀
  · exact goOn_keeps (fun t e => execXor_keeps e h₀) h₀
  · exact goOn_keeps (fun t e => execSel_keeps e h₀) h₀
  · exact goOn_keeps (fun t e => execCmp_keeps e h₀) h₀
  · exact goOn_keeps (fun t e => execCmpi_keeps e h₀) h₀
  · exact goOn_keeps (fun t e => execPlog_keeps e h₀) h₀
  · exact goOn_keeps (fun t e => execMac_keeps e h₀) h₀
  · exact goOn_keeps (fun t e => execMsu_keeps e h₀) h₀
  · exact State.opMacc_keeps h₀
  · exact goOn_keeps (fun t e => execMpy_keeps e h₀) h₀
  · exact State.opMpyc_keeps h₀
  · exact goOn_keeps (fun t e => execAccst_keeps e h₀) h₀
  · exact goOn_keeps (fun t e => execAccld_keeps e h₀) h₀
  · exact goOn_keeps (fun t e => execAccadd_keeps e h₀) h₀
  · exact h₀

theorem State.runSlot_keeps {s₀ s : State} {env : TickEnv} {p : Nat} {k : Nat} (h₀ : Keeps s₀ s) : Keeps s₀ (State.runSlot s env p k) := by
  unfold State.runSlot
  dsimp only
  repeat' first
    | with_reducible assumption
    | with_reducible exact rfl
    | with_reducible apply State.runChurn_keeps
    | with_reducible apply State.putPu_keeps
    | with_reducible apply State.puEcc_keeps
    | with_reducible apply Keeps.ite
    | split
    | (intro s' hs'; try dsimp only)
    | dsimp only

theorem State.runPu_keeps {s₀ s : State} {env : TickEnv} {p : Nat} (h₀ : Keeps s₀ s) : Keeps s₀ (State.runPu s env p) := by
  unfold State.runPu
  dsimp only
  repeat' first
    | with_reducible assumption
    | with_reducible exact rfl
    | with_reducible apply State.runSlot_keeps
    | with_reducible apply State.putPu_keeps
    | with_reducible refine Keeps.foldl _ (fun s x hs => ?_) ?_
    | with_reducible refine Keeps.foldl1 _ (fun s x hs => ?_) ?_
    | with_reducible apply Keeps.ite
    | split
    | (intro s' hs'; try dsimp only)
    | dsimp only

theorem State.h0_keeps {s₀ s : State} (h₀ : Keeps s₀ s) : Keeps s₀ (State.h0 s) := by
  unfold State.h0
  dsimp only
  repeat' first
    | with_reducible assumption
    | with_reducible exact rfl
    | with_reducible apply State.setAudio_keeps
    | with_reducible apply State.setChurn_keeps
    | with_reducible apply State.capture0_keeps
    | with_reducible refine Keeps.foldl _ (fun s x hs => ?_) ?_
    | with_reducible refine Keeps.foldl1 _ (fun s x hs => ?_) ?_
    | exact tableOk_tset _ _
    | with_reducible apply Keeps.ite
    | split
    | (intro s' hs'; try dsimp only)
    | dsimp only

theorem State.h2_keeps {s₀ s : State} (h₀ : Keeps s₀ s) : Keeps s₀ (State.h2 s) := by
  unfold State.h2
  dsimp only
  repeat' first
    | with_reducible assumption
    | with_reducible exact rfl
    | with_reducible apply State.putPu_keeps
    | with_reducible refine Keeps.foldl _ (fun s x hs => ?_) ?_
    | with_reducible refine Keeps.foldl1 _ (fun s x hs => ?_) ?_
    | with_reducible apply Keeps.ite
    | split
    | (intro s' hs'; try dsimp only)
    | dsimp only

theorem State.h5_keeps {s₀ s : State} (h₀ : Keeps s₀ s) : Keeps s₀ (State.h5 s) := by
  unfold State.h5
  dsimp only
  repeat' first
    | with_reducible assumption
    | with_reducible exact rfl
    | with_reducible apply State.h5Domains_keeps
    | with_reducible apply State.loseDisc_keeps
    | with_reducible apply State.h5Source_keeps
    | with_reducible apply State.slewTick_keeps
    | with_reducible apply State.startUps_keeps
    | with_reducible apply State.convMode_keeps
    | with_reducible apply State.clkTick_keeps
    | with_reducible apply State.h5Load_keeps
    | with_reducible refine Keeps.foldl _ (fun s x hs => ?_) ?_
    | with_reducible refine Keeps.foldl1 _ (fun s x hs => ?_) ?_
    | with_reducible apply Keeps.ite
    | split
    | (intro s' hs'; try dsimp only)
    | dsimp only

theorem State.h6_keeps {s₀ s : State} (h₀ : Keeps s₀ s) : Keeps s₀ (State.h6 s) := by
  unfold State.h6
  dsimp only
  repeat' first
    | with_reducible assumption
    | with_reducible exact rfl
    | with_reducible apply State.stagingFlips_keeps
    | with_reducible apply State.putTile_keeps
    | with_reducible apply State.loadDue_keeps
    | with_reducible refine Keeps.foldl _ (fun s x hs => ?_) ?_
    | with_reducible refine Keeps.foldl1 _ (fun s x hs => ?_) ?_
    | with_reducible apply Keeps.ite
    | split
    | (intro s' hs'; try dsimp only)
    | dsimp only

theorem State.closeTick_keeps {s₀ s : State} (h₀ : Keeps s₀ s) : Keeps s₀ (State.closeTick s) := by
  unfold State.closeTick
  dsimp only
  repeat' first
    | with_reducible assumption
    | with_reducible exact rfl
    | with_reducible apply State.flushEvents_keeps
    | with_reducible apply State.calAborts_keeps
    | with_reducible apply State.flrBounds_keeps
    | with_reducible apply State.setAudio_keeps
    | with_reducible apply State.portsEnd_keeps
    | with_reducible apply State.setTime_keeps
    | with_reducible apply State.putPu_keeps
    | with_reducible refine Keeps.foldl _ (fun s x hs => ?_) ?_
    | with_reducible refine Keeps.foldl1 _ (fun s x hs => ?_) ?_
    | with_reducible apply Keeps.ite
    | exact Eq.refl _
    | split
    | (intro s' hs'; try dsimp only)
    | dsimp only

theorem State.peeks_keeps {s₀ s : State} (h₀ : Keeps s₀ s) : Keeps s₀ (State.peeks s) := by
  unfold State.peeks
  repeat' first
    | with_reducible assumption
    | with_reducible exact rfl
    | with_reducible apply State.churnPeek_keeps
    | with_reducible apply State.sepPeek_keeps
    | with_reducible refine Keeps.foldl _ (fun s x hs => ?_) ?_
    | with_reducible refine Keeps.foldl1 _ (fun s x hs => ?_) ?_
    | with_reducible apply Keeps.ite
    | split
    | (intro s' hs'; try dsimp only)
    | dsimp only

theorem State.phaseStep_keeps {s₀ s : State} {env : TickEnv} (h₀ : Keeps s₀ s) : Keeps s₀ (State.phaseStep s env) := by
  unfold State.phaseStep
  dsimp only
  repeat' first
    | with_reducible assumption
    | with_reducible exact rfl
    | with_reducible apply State.masterFrames_keeps
    | with_reducible apply State.blockFlips_keeps
    | with_reducible apply State.compareAll_keeps
    | with_reducible apply State.tickBeats_keeps
    | with_reducible apply State.setTime_keeps
    | with_reducible apply State.runPu_keeps
    | with_reducible apply State.peeks_keeps
    | with_reducible apply State.h1Out_keeps
    | with_reducible apply State.h1In_keeps
    | with_reducible apply State.h0_keeps
    | with_reducible apply State.h2_keeps
    | with_reducible apply State.h3_keeps
    | with_reducible apply State.h4_keeps
    | with_reducible apply State.h5_keeps
    | with_reducible apply State.h6_keeps
    | with_reducible refine Keeps.foldl _ (fun s x hs => ?_) ?_
    | with_reducible refine Keeps.foldl1 _ (fun s x hs => ?_) ?_
    | with_reducible apply Keeps.ite
    | exact Eq.refl _
    | split
    | (intro s' hs'; try dsimp only)
    | dsimp only

theorem State.advance_keeps {s₀ s : State} {env : TickEnv} {n : Nat} (h₀ : Keeps s₀ s) : Keeps s₀ (State.advance s env n) := by
  unfold State.advance
  repeat' first
    | with_reducible assumption
    | with_reducible exact rfl
    | with_reducible apply State.phaseStep_keeps
    | with_reducible refine Keeps.foldl _ (fun s x hs => ?_) ?_
    | with_reducible refine Keeps.foldl1 _ (fun s x hs => ?_) ?_
    | with_reducible apply Keeps.ite
    | split
    | (intro s' hs'; try dsimp only)
    | dsimp only

theorem execBlockFlip_keeps {s₀ s t : State}  (e : execBlockFlip s = .next t) (h₀ : Keeps s₀ s) : Keeps s₀ t := by
  obtain rfl := Host.Outcome.next.inj e
  clear e
  repeat' first
    | with_reducible assumption
    | with_reducible exact rfl
    | with_reducible apply State.advance_keeps
    | with_reducible apply Keeps.ite
    | split
    | (intro s' hs'; try dsimp only)
    | dsimp only

theorem execStagingFlip_keeps {s₀ s t : State}  (e : execStagingFlip s = .next t) (h₀ : Keeps s₀ s) : Keeps s₀ t := by
  obtain rfl := Host.Outcome.next.inj e
  clear e
  repeat' first
    | with_reducible assumption
    | with_reducible exact rfl
    | with_reducible apply State.advance_keeps
    | with_reducible apply Keeps.ite
    | split
    | (intro s' hs'; try dsimp only)
    | dsimp only

theorem execChurnPeekSnapshot_keeps {s₀ s t : State} {pu : BitVec 3} (e : execChurnPeekSnapshot pu s = .next t) (h₀ : Keeps s₀ s) : Keeps s₀ t := by
  obtain rfl := Host.Outcome.next.inj e
  clear e
  repeat' first
    | with_reducible assumption
    | with_reducible exact rfl
    | with_reducible apply State.advance_keeps
    | with_reducible apply Keeps.ite
    | split
    | (intro s' hs'; try dsimp only)
    | dsimp only

theorem execAsrcModeSwitch_keeps {s₀ s t : State} {ep : Nat} (e : execAsrcModeSwitch ep s = .next t) (h₀ : Keeps s₀ s) : Keeps s₀ t := by
  obtain rfl := Host.Outcome.next.inj e
  clear e
  repeat' first
    | with_reducible assumption
    | with_reducible exact rfl
    | with_reducible apply State.convMode_keeps
    | with_reducible apply State.advance_keeps
    | with_reducible apply Keeps.ite
    | split
    | (intro s' hs'; try dsimp only)
    | dsimp only

theorem execCommitApply_keeps {s₀ s t : State}  (e : execCommitApply s = .next t) (h₀ : Keeps s₀ s) : Keeps s₀ t := by
  obtain rfl := Host.Outcome.next.inj e
  clear e
  repeat' first
    | with_reducible assumption
    | with_reducible exact rfl
    | with_reducible apply State.advance_keeps
    | with_reducible apply Keeps.ite
    | split
    | (intro s' hs'; try dsimp only)
    | dsimp only

end Sys2Proof.Machine
end

