-- ==== Sys2Proof/Laws/KeepsPower.lean ====
section
/-! SUPPORT. Laws/KeepsPower.lean: what the operations of Machine/Power.lean keep (Laws/Keeps.lean), one lemma each. -/

namespace Sys2Proof.Machine

theorem execCkeRestart_keeps {s₀ s t : State}  (e : execCkeRestart s = .next t) (h₀ : Keeps s₀ s) : Keeps s₀ t := by
  obtain rfl := Host.Outcome.next.inj e
  clear e
  repeat' first
    | with_reducible assumption
    | with_reducible exact rfl
    | with_reducible apply State.resumeHop_keeps
    | with_reducible apply State.startLoad_keeps
    | with_reducible apply State.setTime_keeps
    | with_reducible apply State.setClk_keeps
    | with_reducible apply Keeps.ite
    | exact Eq.refl _
    | split
    | (intro s' hs'; try dsimp only)
    | dsimp only

theorem execWakeIn_keeps {s₀ s t : State} {pin : Nat} {level : Bool} (e : execWakeIn pin level s = .next t) (h₀ : Keeps s₀ s) : Keeps s₀ t := by
  obtain rfl := Host.Outcome.next.inj e
  clear e
  repeat' first
    | with_reducible assumption
    | with_reducible exact rfl
    | with_reducible apply State.setPwr_keeps
    | with_reducible apply State.wake_keeps
    | with_reducible apply Keeps.ite
    | split
    | (intro s' hs'; try dsimp only)
    | dsimp only

theorem execWakeTick_keeps {s₀ s t : State}  (e : execWakeTick s = .next t) (h₀ : Keeps s₀ s) : Keeps s₀ t := by
  obtain rfl := Host.Outcome.next.inj e
  clear e
  repeat' first
    | with_reducible assumption
    | with_reducible exact rfl
    | with_reducible apply State.wake_keeps
    | with_reducible apply Keeps.ite
    | split
    | (intro s' hs'; try dsimp only)
    | dsimp only

theorem State.polFault_keeps {s₀ s : State} {k : Nat} (h₀ : Keeps s₀ s) : Keeps s₀ (State.polFault s k) := by
  unfold State.polFault
  repeat' first
    | with_reducible assumption
    | with_reducible exact rfl
    | with_reducible apply State.post0_keeps
    | with_reducible apply State.bump_keeps
    | with_reducible apply Keeps.ite
    | split
    | (intro s' hs'; try dsimp only)
    | dsimp only

theorem State.polFailDom_keeps {s₀ s : State} {d : Nat} (h₀ : Keeps s₀ s) : Keeps s₀ (State.polFailDom s d) := by
  unfold State.polFailDom
  repeat' first
    | with_reducible assumption
    | with_reducible exact rfl
    | with_reducible apply State.setPwr_keeps
    | with_reducible apply State.putDom_keeps
    | with_reducible apply Keeps.ite
    | split
    | (intro s' hs'; try dsimp only)
    | dsimp only

theorem execPgTimeout_keeps {s₀ s t : State} {ch : Nat} (e : execPgTimeout ch s = .next t) (h₀ : Keeps s₀ s) : Keeps s₀ t := by
  obtain rfl := Host.Outcome.next.inj e
  clear e
  repeat' first
    | with_reducible assumption
    | with_reducible exact rfl
    | with_reducible apply State.polFailDom_keeps
    | with_reducible apply State.refreshPol_keeps
    | with_reducible apply State.polFault_keeps
    | with_reducible refine Keeps.foldl _ (fun s x hs => ?_) ?_
    | with_reducible refine Keeps.foldl1 _ (fun s x hs => ?_) ?_
    | with_reducible apply Keeps.ite
    | split
    | (intro s' hs'; try dsimp only)
    | dsimp only

theorem State.polDropDom_keeps {s₀ s : State} {d : Nat} (h₀ : Keeps s₀ s) : Keeps s₀ (State.polDropDom s d) := by
  unfold State.polDropDom
  repeat' first
    | with_reducible assumption
    | with_reducible exact rfl
    | with_reducible apply State.shedRequests_keeps
    | with_reducible apply State.polFailDom_keeps
    | with_reducible apply State.domLose_keeps
    | with_reducible apply State.putDom_keeps
    | with_reducible apply Keeps.ite
    | split
    | (intro s' hs'; try dsimp only)
    | dsimp only

theorem execPolPgDrop_keeps {s₀ s t : State} {ch : Nat} (e : execPolPgDrop ch s = .next t) (h₀ : Keeps s₀ s) : Keeps s₀ t := by
  obtain rfl := Host.Outcome.next.inj e
  clear e
  repeat' first
    | with_reducible assumption
    | with_reducible exact rfl
    | with_reducible apply State.polDropDom_keeps
    | with_reducible apply State.refreshPol_keeps
    | with_reducible apply State.polFault_keeps
    | with_reducible apply State.setPwr_keeps
    | with_reducible refine Keeps.foldl _ (fun s x hs => ?_) ?_
    | with_reducible refine Keeps.foldl1 _ (fun s x hs => ?_) ?_
    | with_reducible apply Keeps.ite
    | split
    | (intro s' hs'; try dsimp only)
    | dsimp only

theorem State.busSend_keeps {s₀ s : State} {ch : Nat} {cmd : Nat} {data : Nat} (h₀ : Keeps s₀ s) : Keeps s₀ (State.busSend s ch cmd data) := by
  unfold State.busSend
  repeat' first
    | with_reducible assumption
    | with_reducible exact rfl
    | with_reducible apply State.setPwr_keeps
    | with_reducible apply Keeps.ite
    | split
    | (intro s' hs'; try dsimp only)
    | dsimp only

theorem execPolAlert_keeps {s₀ s t : State} {status : List (BitVec 16)} (e : execPolAlert status s = .next t) (h₀ : Keeps s₀ s) : Keeps s₀ t := by
  obtain rfl := Host.Outcome.next.inj e
  clear e
  repeat' first
    | with_reducible assumption
    | with_reducible exact rfl
    | with_reducible apply State.plicGates_keeps
    | with_reducible apply State.busSend_keeps
    | with_reducible apply State.setPwr_keeps
    | with_reducible apply State.post0_keeps
    | with_reducible refine Keeps.foldl _ (fun s x hs => ?_) ?_
    | with_reducible refine Keeps.foldl1 _ (fun s x hs => ?_) ?_
    | with_reducible apply Keeps.ite
    | split
    | (intro s' hs'; try dsimp only)
    | dsimp only

theorem execPmbusPoll_keeps {s₀ s t : State} {ch : Nat} {vout : BitVec 32} {iout : BitVec 32} {ok : Bool} (e : execPmbusPoll ch vout iout ok s = .next t) (h₀ : Keeps s₀ s) : Keeps s₀ t := by
  obtain rfl := Host.Outcome.next.inj e
  clear e
  repeat' first
    | with_reducible assumption
    | with_reducible exact rfl
    | with_reducible apply State.busSend_keeps
    | with_reducible apply State.setPwr_keeps
    | with_reducible apply State.post0_keeps
    | with_reducible apply State.bump_keeps
    | exact tableOk_tset _ _
    | with_reducible apply Keeps.ite
    | split
    | (intro s' hs'; try dsimp only)
    | dsimp only

theorem execAvsTrim_keeps {s₀ s t : State} {trimMv : Int} (e : execAvsTrim trimMv s = .next t) (h₀ : Keeps s₀ s) : Keeps s₀ t := by
  obtain rfl := Host.Outcome.next.inj e
  clear e
  repeat' first
    | with_reducible assumption
    | with_reducible exact rfl
    | with_reducible apply State.commandVdd_keeps
    | with_reducible apply State.setPwr_keeps
    | with_reducible apply Keeps.ite
    | split
    | (intro s' hs'; try dsimp only)
    | dsimp only

theorem execVoutPoll_keeps {s₀ s t : State} {mv : Nat} (e : execVoutPoll mv s = .next t) (h₀ : Keeps s₀ s) : Keeps s₀ t := by
  obtain rfl := Host.Outcome.next.inj e
  clear e
  repeat' first
    | with_reducible assumption
    | with_reducible exact rfl
    | with_reducible apply State.beginOpp_keeps
    | with_reducible apply State.busSend_keeps
    | with_reducible apply State.setPwr_keeps
    | with_reducible apply Keeps.ite
    | split
    | (intro s' hs'; try dsimp only)
    | dsimp only

theorem execOppVoltageTimeout_keeps {s₀ s t : State}  (e : execOppVoltageTimeout s = .next t) (h₀ : Keeps s₀ s) : Keeps s₀ t := by
  obtain rfl := Host.Outcome.next.inj e
  clear e
  repeat' first
    | with_reducible assumption
    | with_reducible exact rfl
    | with_reducible apply State.nextOpp_keeps
    | with_reducible apply State.setPwr_keeps
    | with_reducible apply State.post0_keeps
    | with_reducible apply Keeps.ite
    | split
    | (intro s' hs'; try dsimp only)
    | dsimp only

theorem State.toH5_keeps {s₀ s : State} (h₀ : Keeps s₀ s) : Keeps s₀ (State.toH5 s) := by
  unfold State.toH5
  repeat' first
    | with_reducible assumption
    | with_reducible exact rfl
    | with_reducible apply State.advance_keeps
    | with_reducible apply Keeps.ite
    | split
    | (intro s' hs'; try dsimp only)
    | dsimp only

theorem execCoreParkOff_keeps {s₀ s t : State} {core : Nat} (e : execCoreParkOff core s = .next t) (h₀ : Keeps s₀ s) : Keeps s₀ t := by
  obtain rfl := Host.Outcome.next.inj e
  clear e
  repeat' first
    | with_reducible assumption
    | with_reducible exact rfl
    | with_reducible apply State.dropCore_keeps
    | with_reducible apply State.putDom_keeps
    | with_reducible apply State.toH5_keeps
    | with_reducible apply Keeps.ite
    | split
    | (intro s' hs'; try dsimp only)
    | dsimp only

theorem execL2Flush_keeps {s₀ s t : State}  (e : execL2Flush s = .next t) (h₀ : Keeps s₀ s) : Keeps s₀ t := by
  obtain rfl := Host.Outcome.next.inj e
  clear e
  repeat' first
    | with_reducible assumption
    | with_reducible exact rfl
    | with_reducible apply State.flushL2_keeps
    | with_reducible apply State.dropL2_keeps
    | with_reducible apply State.putDom_keeps
    | with_reducible apply State.toH5_keeps
    | with_reducible apply Keeps.ite
    | split
    | (intro s' hs'; try dsimp only)
    | dsimp only

end Sys2Proof.Machine
end

