-- ==== Sys2Proof/Laws/KeepsBoot.lean ====
section
/-! SUPPORT. Laws/KeepsBoot.lean: what the operations of Machine/Boot.lean keep (Laws/Keeps.lean), one lemma each. -/

namespace Sys2Proof.Machine

theorem State.chipReset_keeps {s₀ s : State} {cause : Nat} {keepDebug : Bool} (h₀ : Keeps s₀ s) :
    Keeps s₀ (State.chipReset s cause keepDebug) :=
  ⟨h₀.pending, h₀.tick, h₀.fuses, fun k => tableOk_filter _ (h₀.mem k), h₀.hostMem⟩

theorem State.flashCut_keeps {s₀ s : State} {stepDone : Bool} (h₀ : Keeps s₀ s) : Keeps s₀ (State.flashCut s stepDone) := by
  unfold State.flashCut
  repeat' first
    | with_reducible assumption
    | with_reducible exact rfl
    | with_reducible apply State.flashPart_keeps
    | with_reducible apply State.setNv_keeps
    | with_reducible apply Keeps.ite
    | split
    | (intro s' hs'; try dsimp only)
    | dsimp only

theorem execChipReset_keeps {s₀ s t : State}  (e : execChipReset s = .next t) (h₀ : Keeps s₀ s) : Keeps s₀ t := by
  obtain rfl := Host.Outcome.next.inj e
  clear e
  repeat' first
    | with_reducible assumption
    | with_reducible exact rfl
    | with_reducible apply State.chipReset_keeps
    | with_reducible apply Keeps.ite
    | split
    | (intro s' hs'; try dsimp only)
    | dsimp only

theorem execSysResetCtlChip_keeps {s₀ s t : State} {path : Path} {val : BitVec 32} (e : execSysResetCtlChip path val s = .next t) (h₀ : Keeps s₀ s) : Keeps s₀ t := by
  obtain rfl := Host.Outcome.next.inj e
  clear e
  repeat' first
    | with_reducible assumption
    | with_reducible exact rfl
    | with_reducible apply State.chipReset_keeps
    | with_reducible apply Keeps.ite
    | split
    | (intro s' hs'; try dsimp only)
    | dsimp only

theorem execNdmreset_keeps {s₀ s t : State}  (e : execNdmreset s = .next t) (h₀ : Keeps s₀ s) : Keeps s₀ t := by
  obtain rfl := Host.Outcome.next.inj e
  clear e
  repeat' first
    | with_reducible assumption
    | with_reducible exact rfl
    | with_reducible apply State.chipReset_keeps
    | with_reducible apply Keeps.ite
    | split
    | (intro s' hs'; try dsimp only)
    | dsimp only

theorem execResetOutRelease_keeps {s₀ s t : State}  (e : execResetOutRelease s = .next t) (h₀ : Keeps s₀ s) : Keeps s₀ t := by
  obtain rfl := Host.Outcome.next.inj e
  clear e
  repeat' first
    | with_reducible assumption
    | with_reducible exact rfl
    | with_reducible apply State.setBoot_keeps
    | with_reducible apply Keeps.ite
    | exact Eq.refl _
    | split
    | (intro s' hs'; try dsimp only)
    | dsimp only

theorem State.trainDdr_keeps {s₀ s : State} {memCfg : Nat} {memOk : Bool} (h₀ : Keeps s₀ s) : Keeps s₀ (State.trainDdr s memCfg memOk) := by
  unfold State.trainDdr
  dsimp only
  repeat' first
    | with_reducible assumption
    | with_reducible exact rfl
    | with_reducible apply State.setClk_keeps
    | with_reducible apply State.setCc_keeps
    | with_reducible apply Keeps.ite
    | split
    | (intro s' hs'; try dsimp only)
    | dsimp only

theorem State.loadImage_keeps {s₀ s : State} {memOk : Bool} {h : List Byte} {p : List Byte} (h₀ : Keeps s₀ s) : Keeps s₀ (State.loadImage s memOk h p).1 := by
  unfold State.loadImage
  dsimp only
  repeat' first
    | with_reducible assumption
    | with_reducible exact rfl
    | with_reducible apply State.trainDdr_keeps
    | with_reducible apply State.busWrite_keeps
    | with_reducible apply State.take_keeps
    | with_reducible apply Keeps.ite
    | split
    | (intro s' hs'; try dsimp only)
    | dsimp only

theorem State.loadImage_keeps_eq {s₀ s t : State} {y : Nat} {memOk : Bool} {h : List Byte} {p : List Byte}  (e : State.loadImage s memOk h p  = (t, y)) (h₀ : Keeps s₀ s) : Keeps s₀ t :=
  Keeps.fst e (State.loadImage_keeps h₀)

theorem State.tryFlash_keeps {s₀ s : State} {memOk : Bool} {off : Nat} (h₀ : Keeps s₀ s) : Keeps s₀ (State.tryFlash s memOk off).1 := by
  unfold State.tryFlash
  dsimp only
  repeat' first
    | with_reducible assumption
    | with_reducible exact rfl
    | with_reducible apply State.loadImage_keeps
    | (with_reducible apply State.loadImage_keeps_eq; with_reducible assumption)
    | with_reducible apply Keeps.ite
    | split
    | (intro s' hs'; try dsimp only)
    | dsimp only

theorem State.tryFlash_keeps_eq {s₀ s t : State} {y : Nat} {memOk : Bool} {off : Nat}  (e : State.tryFlash s memOk off  = (t, y)) (h₀ : Keeps s₀ s) : Keeps s₀ t :=
  Keeps.fst e (State.tryFlash_keeps h₀)

theorem State.tryWindow_keeps {s₀ s : State} {memOk : Bool} (h₀ : Keeps s₀ s) : Keeps s₀ (State.tryWindow s memOk).1 := by
  unfold State.tryWindow
  dsimp only
  repeat' first
    | with_reducible assumption
    | with_reducible exact rfl
    | with_reducible apply State.loadImage_keeps
    | (with_reducible apply State.loadImage_keeps_eq; with_reducible assumption)
    | with_reducible apply Keeps.ite
    | split
    | (intro s' hs'; try dsimp only)
    | dsimp only

theorem State.tryWindow_keeps_eq {s₀ s t : State} {y : Nat} {memOk : Bool}  (e : State.tryWindow s memOk  = (t, y)) (h₀ : Keeps s₀ s) : Keeps s₀ t :=
  Keeps.fst e (State.tryWindow_keeps h₀)

theorem State.bootDone_keeps {s₀ s : State} {used : Bool} {h : List Byte} (h₀ : Keeps s₀ s) : Keeps s₀ (State.bootDone s used h) := by
  unfold State.bootDone
  repeat' first
    | with_reducible assumption
    | with_reducible exact rfl
    | with_reducible apply State.setBoot_keeps
    | with_reducible apply State.putCore_keeps
    | with_reducible apply Keeps.ite
    | exact Eq.refl _
    | split
    | (intro s' hs'; try dsimp only)
    | dsimp only

theorem State.bootEnds_keeps {s₀ s : State} {phase : Nat} {err : Nat} (h₀ : Keeps s₀ s) : Keeps s₀ (State.bootEnds s phase err) := by
  unfold State.bootEnds
  repeat' first
    | with_reducible assumption
    | with_reducible exact rfl
    | with_reducible apply State.setBoot_keeps
    | with_reducible apply State.domOff_keeps
    | with_reducible refine Keeps.foldl _ (fun s x hs => ?_) ?_
    | with_reducible refine Keeps.foldl1 _ (fun s x hs => ?_) ?_
    | with_reducible apply Keeps.ite
    | exact Eq.refl _
    | split
    | (intro s' hs'; try dsimp only)
    | dsimp only

theorem State.bootTry_keeps {s₀ s : State} {memOk : Bool} {n0 : List (Nat × Nat)} {n1 : Nat} (h₀ : Keeps s₀ s) : Keeps s₀ (State.bootTry s memOk n0 n1) := by
  induction n0 generalizing s n1 memOk  with
  | nil =>
    unfold State.bootTry
    repeat' first
      | with_reducible assumption
      | with_reducible exact rfl
      | with_reducible apply State.bootEnds_keeps
      | with_reducible apply State.tryFlash_keeps
      | with_reducible apply State.bootDone_keeps
      | (with_reducible apply State.tryFlash_keeps_eq; with_reducible assumption)
      | with_reducible apply Keeps.ite
      | split
      | (intro s' hs'; try dsimp only)
      | dsimp only
  | cons y m ih =>
    unfold State.bootTry
    repeat' first
      | with_reducible assumption
      | with_reducible exact rfl
      | with_reducible apply ih
      | (apply Keeps.fst; with_reducible assumption; with_reducible apply ih)
      | with_reducible apply State.bootEnds_keeps
      | with_reducible apply State.tryFlash_keeps
      | with_reducible apply State.bootDone_keeps
      | (with_reducible apply State.tryFlash_keeps_eq; with_reducible assumption)
      | with_reducible apply Keeps.ite
      | split
      | (intro s' hs'; try dsimp only)
      | dsimp only

theorem State.bootImage_keeps {s₀ s : State} {memOk : Bool} (h₀ : Keeps s₀ s) : Keeps s₀ (State.bootImage s memOk) := by
  unfold State.bootImage
  dsimp only
  repeat' first
    | with_reducible assumption
    | with_reducible exact rfl
    | with_reducible apply State.bootEnds_keeps
    | with_reducible apply State.setBoot_keeps
    | with_reducible apply State.bootTry_keeps
    | with_reducible apply Keeps.ite
    | exact Eq.refl _
    | split
    | (intro s' hs'; try dsimp only)
    | dsimp only

theorem State.powerNow_keeps {s₀ s : State} {ds : List Nat} (h₀ : Keeps s₀ s) : Keeps s₀ (State.powerNow s ds) := by
  unfold State.powerNow
  repeat' first
    | with_reducible assumption
    | with_reducible exact rfl
    | with_reducible apply State.refreshPol_keeps
    | with_reducible apply State.polGood_keeps
    | with_reducible apply State.putDom_keeps
    | with_reducible refine Keeps.foldl _ (fun s x hs => ?_) ?_
    | with_reducible refine Keeps.foldl1 _ (fun s x hs => ?_) ?_
    | with_reducible apply Keeps.ite
    | split
    | (intro s' hs'; try dsimp only)
    | dsimp only

theorem State.bootStart_keeps {s₀ s : State} {env : BootEnv} (h₀ : Keeps s₀ s) : Keeps s₀ (State.bootStart s env) := by
  unfold State.bootStart
  dsimp only
  repeat' first
    | with_reducible assumption
    | with_reducible exact rfl
    | with_reducible apply State.coreReset_keeps
    | with_reducible apply State.powerNow_keeps
    | with_reducible apply State.setBoot_keeps
    | with_reducible apply State.setPcie_keeps
    | with_reducible apply State.setCmt_keeps
    | with_reducible apply State.setClk_keeps
    | with_reducible apply State.setNv_keeps
    | with_reducible apply Keeps.ite
    | exact Eq.refl _
    | split
    | (intro s' hs'; try dsimp only)
    | dsimp only

theorem State.bootTick_keeps {s₀ s : State} (h₀ : Keeps s₀ s) : Keeps s₀ (State.bootTick s) := by
  unfold State.bootTick
  dsimp only
  repeat' first
    | with_reducible assumption
    | with_reducible exact rfl
    | with_reducible apply State.powerNow_keeps
    | with_reducible apply State.lockNow_keeps
    | with_reducible apply State.nvStart_keeps
    | with_reducible apply State.setVat_keeps
    | with_reducible apply Keeps.ite
    | split
    | (intro s' hs'; try dsimp only)
    | dsimp only

theorem execChipResetRelease_keeps {s₀ s t : State} {env : BootEnv} (e : execChipResetRelease env s = .next t) (h₀ : Keeps s₀ s) : Keeps s₀ t := by
  obtain rfl := Host.Outcome.next.inj e
  clear e
  repeat' first
    | with_reducible assumption
    | with_reducible exact rfl
    | with_reducible apply State.bootStart_keeps
    | with_reducible apply State.bootImage_keeps
    | with_reducible apply State.bootTick_keeps
    | with_reducible apply Keeps.ite
    | split
    | (intro s' hs'; try dsimp only)
    | dsimp only

theorem State.clearWindow_keeps {s₀ s : State} (h₀ : Keeps s₀ s) : Keeps s₀ (State.clearWindow s) := by
  unfold State.clearWindow
  repeat' first
    | with_reducible assumption
    | with_reducible exact rfl
    | with_reducible apply State.dropMem_keeps
    | with_reducible apply Keeps.ite
    | split
    | (intro s' hs'; try dsimp only)
    | dsimp only

theorem State.bootGo_keeps {s₀ s : State} {memOk : Bool} (h₀ : Keeps s₀ s) : Keeps s₀ (State.bootGo s memOk) := by
  unfold State.bootGo
  repeat' first
    | with_reducible assumption
    | with_reducible exact rfl
    | with_reducible apply State.clearWindow_keeps
    | with_reducible apply State.tryWindow_keeps
    | with_reducible apply State.bootDone_keeps
    | with_reducible apply State.setBoot_keeps
    | (with_reducible apply State.tryWindow_keeps_eq; with_reducible assumption)
    | with_reducible apply Keeps.ite
    | with_reducible exact (State.clearWindow_keeps (Keeps.refl _)).fuses.symm
    | exact Eq.refl _
    | split
    | (intro s' hs'; try dsimp only)
    | dsimp only

theorem execSysBootGo_keeps {s₀ s t : State} {val : BitVec 32} {env : BootEnv} (e : execSysBootGo val env s = .next t) (h₀ : Keeps s₀ s) : Keeps s₀ t := by
  obtain rfl := Host.Outcome.next.inj e
  clear e
  repeat' first
    | with_reducible assumption
    | with_reducible exact rfl
    | with_reducible apply State.bootGo_keeps
    | with_reducible apply Keeps.ite
    | split
    | (intro s' hs'; try dsimp only)
    | dsimp only

theorem State.writeCoreRun_keeps {s₀ s : State} {v : Nat} (h₀ : Keeps s₀ s) : Keeps s₀ (State.writeCoreRun s v) := by
  unfold State.writeCoreRun
  dsimp only
  repeat' first
    | with_reducible assumption
    | with_reducible exact rfl
    | with_reducible apply State.coreReset_keeps
    | with_reducible apply State.setCc_keeps
    | with_reducible refine Keeps.foldl _ (fun s x hs => ?_) ?_
    | with_reducible refine Keeps.foldl1 _ (fun s x hs => ?_) ?_
    | with_reducible apply Keeps.ite
    | split
    | (intro s' hs'; try dsimp only)
    | dsimp only

theorem execSysCoreRun_keeps {s₀ s t : State} {path : Path} {val : BitVec 32} (e : execSysCoreRun path val s = .next t) (h₀ : Keeps s₀ s) : Keeps s₀ t := by
  obtain rfl := Host.Outcome.next.inj e
  clear e
  repeat' first
    | with_reducible assumption
    | with_reducible exact rfl
    | with_reducible apply State.writeCoreRun_keeps
    | with_reducible apply Keeps.ite
    | split
    | (intro s' hs'; try dsimp only)
    | dsimp only

theorem execPerstN_keeps {s₀ s t : State}  (e : execPerstN s = .next t) (h₀ : Keeps s₀ s) : Keeps s₀ t := by
  obtain rfl := Host.Outcome.next.inj e
  clear e
  repeat' first
    | with_reducible assumption
    | with_reducible exact rfl
    | with_reducible apply State.clearWindow_keeps
    | with_reducible apply State.resetPcie_keeps
    | with_reducible apply State.setPcie_keeps
    | with_reducible apply State.setBoot_keeps
    | with_reducible apply Keeps.ite
    | with_reducible exact (State.clearWindow_keeps (Keeps.refl _)).fuses.symm
    | exact Eq.refl _
    | split
    | (intro s' hs'; try dsimp only)
    | dsimp only

theorem execPerstNRelease_keeps {s₀ s t : State}  (e : execPerstNRelease s = .next t) (h₀ : Keeps s₀ s) : Keeps s₀ t := by
  obtain rfl := Host.Outcome.next.inj e
  clear e
  repeat' first
    | with_reducible assumption
    | with_reducible exact rfl
    | with_reducible apply State.setPcie_keeps
    | with_reducible apply State.setBoot_keeps
    | with_reducible apply Keeps.ite
    | exact Eq.refl _
    | split
    | (intro s' hs'; try dsimp only)
    | dsimp only

theorem execDlUp_keeps {s₀ s t : State}  (e : execDlUp s = .next t) (h₀ : Keeps s₀ s) : Keeps s₀ t := by
  obtain rfl := Host.Outcome.next.inj e
  clear e
  repeat' first
    | with_reducible assumption
    | with_reducible exact rfl
    | with_reducible apply State.setPcie_keeps
    | with_reducible apply State.draw_keeps
    | (with_reducible apply State.draw_keeps_eq; with_reducible assumption)
    | with_reducible apply Keeps.ite
    | split
    | (intro s' hs'; try dsimp only)
    | dsimp only

theorem execDlDown_keeps {s₀ s t : State}  (e : execDlDown s = .next t) (h₀ : Keeps s₀ s) : Keeps s₀ t := by
  obtain rfl := Host.Outcome.next.inj e
  clear e
  repeat' first
    | with_reducible assumption
    | with_reducible exact rfl
    | with_reducible apply State.linkDown_keeps
    | with_reducible apply State.setPcie_keeps
    | with_reducible apply Keeps.ite
    | split
    | (intro s' hs'; try dsimp only)
    | dsimp only

theorem execFlr_keeps {s₀ s t : State} {fn : Nat} (e : execFlr fn s = .next t) (h₀ : Keeps s₀ s) : Keeps s₀ t := by
  obtain rfl := Host.Outcome.next.inj e
  clear e
  repeat' first
    | with_reducible assumption
    | with_reducible exact rfl
    | with_reducible apply State.flr_keeps
    | with_reducible apply Keeps.ite
    | split
    | (intro s' hs'; try dsimp only)
    | dsimp only

theorem State.dropVfs_keeps {s₀ s : State} (h₀ : Keeps s₀ s) : Keeps s₀ (State.dropVfs s) := by
  unfold State.dropVfs
  repeat' first
    | with_reducible assumption
    | with_reducible exact rfl
    | with_reducible apply State.flrOne_keeps
    | with_reducible refine Keeps.foldl _ (fun s x hs => ?_) ?_
    | with_reducible refine Keeps.foldl1 _ (fun s x hs => ?_) ?_
    | with_reducible apply Keeps.ite
    | split
    | (intro s' hs'; try dsimp only)
    | dsimp only

theorem State.confWrite_keeps {s₀ s : State} {fn : Nat} {off : Nat} {val : BitVec 32} (h₀ : Keeps s₀ s) : Keeps s₀ (State.confWrite s fn off val) := by
  unfold State.confWrite
  dsimp only
  repeat' first
    | with_reducible assumption
    | with_reducible exact rfl
    | with_reducible apply State.setPcie_keeps
    | with_reducible apply State.dropVfs_keeps
    | with_reducible apply State.flr_keeps
    | with_reducible apply Keeps.ite
    | split
    | (intro s' hs'; try dsimp only)
    | dsimp only

theorem execConfigurationRequest_keeps {s₀ s t : State} {fn : Nat} {off : Nat} {write : Bool} {val : BitVec 32} (e : execConfigurationRequest fn off write val s = .next t) (h₀ : Keeps s₀ s) : Keeps s₀ t := by
  obtain rfl := Host.Outcome.next.inj e
  clear e
  repeat' first
    | with_reducible assumption
    | with_reducible exact rfl
    | with_reducible apply State.confWrite_keeps
    | with_reducible apply State.setPcie_keeps
    | with_reducible apply Keeps.ite
    | split
    | (intro s' hs'; try dsimp only)
    | dsimp only

end Sys2Proof.Machine
end

