-- ==== Sys2Proof/Laws/Holds.lean ====
section
/-! SUPPORT. Laws/Holds.lean: what the commands that end a tick or switch the supply hold (all but TICK), how TICK moves with them, and how
far a tick has gone after an advance. -/

namespace Sys2Proof.Machine

theorem State.incTick_holds (s : State) : Holds s s.incTick := ⟨rfl, rfl, id, id⟩

@[simp] theorem State.incTick_tick (s : State) : s.incTick.time.tick = s.time.tick + 1 := rfl

/-- A tick that ends advances TICK by one and holds the rest. -/
theorem State.endTick_holds (s : State) (env : TickEnv) : Holds s (s.endTick env) :=
  ((State.closeTick_keeps (State.advance_keeps (Keeps.refl s))).holds.trans (State.incTick_holds _)).trans
    (State.mtips_keeps (State.clkOuts_keeps (Keeps.refl _))).holds

theorem State.endTick_tick (s : State) (env : TickEnv) : (s.endTick env).time.tick = s.time.tick + 1 := by
  have h := (State.closeTick_keeps (State.advance_keeps (env := env) (n := 6) (Keeps.refl s))).tick
  have k := (State.mtips_keeps (State.clkOuts_keeps (Keeps.refl (s.advance env 6).closeTick.incTick))).tick
  rw [State.endTick, k, State.incTick_tick, h]

theorem State.aonReset_holds (s : State) (on : Bool) : Holds s (s.aonReset on) := ⟨rfl, rfl, fun _ => rfl, id⟩

theorem execTick_holds {env : TickEnv} {s t : State} (e : execTick env s = .next t) : Holds s t := by
  obtain rfl := Host.Outcome.next.inj e
  split
  · exact (State.deliverPorts_keeps (Keeps.refl s)).holds.trans (State.endTick_holds _ env)
  · exact Holds.refl s

theorem execAonTick_holds {s t : State} (e : execAonTick s = .next t) : Holds s t := by
  obtain rfl := Host.Outcome.next.inj e
  split
  · refine ((State.flushEvents_keeps (State.flrBounds_keeps (State.compareAll_keeps (State.deliverPorts_keeps
      (Keeps.refl s))))).holds.trans (State.incTick_holds _)).trans (Keeps.holds ?_)
    exact State.mtips_keeps (State.setTime_keeps rfl (Keeps.refl _))
  · exact Holds.refl s

theorem execAonPowerOn_holds {s t : State} (e : execAonPowerOn s = .next t) : Holds s t := by
  obtain rfl := Host.Outcome.next.inj e
  split
  · exact Holds.refl s
  · exact State.aonReset_holds s true

theorem execAonPowerLoss_holds {s t : State} (e : execAonPowerLoss s = .next t) : Holds s t := by
  obtain rfl := Host.Outcome.next.inj e
  split
  · exact (State.flashCut_keeps (Keeps.refl s)).holds.trans (State.aonReset_holds _ false)
  · exact Holds.refl s

theorem execSupplyCollapse_holds {stepDone : Bool} {s t : State} (e : execSupplyCollapse stepDone s = .next t) : Holds s t := by
  obtain rfl := Host.Outcome.next.inj e
  split
  · exact (State.flashCut_keeps (Keeps.refl s)).holds.trans (State.aonReset_holds _ false)
  · exact Holds.refl s

theorem execCkeStop_holds {s t : State} (e : execCkeStop s = .next t) : Holds s t := by
  obtain rfl := Host.Outcome.next.inj e
  have ha := State.advance_keeps (env := {}) (n := 5) (Keeps.refl s)
  split
  · exact Holds.refl s
  · dsimp only
    split
    · exact ha.holds
    · refine Holds.trans (Keeps.holds ?_) ((State.endTick_holds _ {}).trans (State.domOff_keeps (Keeps.refl _)).holds)
      refine Keeps.foldl _ (fun s x hs => State.domOff_keeps hs) ?_
      exact State.setPwr_keeps (State.flushEvents_keeps (State.setCc_keeps ha))

/-- One more phase is done. -/
@[simp] theorem State.phaseStep_phase (s : State) (env : TickEnv) : (s.phaseStep env).time.phase = s.time.phase + 1 := rfl

end Sys2Proof.Machine
end

