-- ==== Sys2Proof/Laws/KeepsMains.lean ====
section
/-! SUPPORT. Laws/KeepsMains.lean: what the operations of Machine/Mains.lean keep (Laws/Keeps.lean), one lemma each. -/

namespace Sys2Proof.Machine

theorem State.rsvRefresh_keeps {s₀ s : State} (h₀ : Keeps s₀ s) : Keeps s₀ (State.rsvRefresh s) := by
  unfold State.rsvRefresh
  dsimp only
  repeat' first
    | with_reducible assumption
    | with_reducible exact rfl
    | with_reducible apply State.setPsu_keeps
    | with_reducible apply State.post0_keeps
    | with_reducible apply Keeps.ite
    | split
    | (intro s' hs'; try dsimp only)
    | dsimp only

theorem State.mainsLoss_keeps {s₀ s : State} (h₀ : Keeps s₀ s) : Keeps s₀ (State.mainsLoss s) := by
  unfold State.mainsLoss
  dsimp only
  repeat' first
    | with_reducible assumption
    | with_reducible exact rfl
    | with_reducible apply State.rsvRefresh_keeps
    | with_reducible apply State.mainsEvent_keeps
    | with_reducible apply State.setPsu_keeps
    | with_reducible apply State.post0_keeps
    | with_reducible apply Keeps.ite
    | split
    | (intro s' hs'; try dsimp only)
    | dsimp only

theorem State.setLink_keeps {s₀ s : State} {l : Nat} (h₀ : Keeps s₀ s) : Keeps s₀ (State.setLink s l) := by
  unfold State.setLink
  dsimp only
  repeat' first
    | with_reducible assumption
    | with_reducible exact rfl
    | with_reducible apply State.mainsLoss_keeps
    | with_reducible apply State.setPsu_keeps
    | with_reducible apply State.post0_keeps
    | with_reducible apply Keeps.ite
    | split
    | (intro s' hs'; try dsimp only)
    | dsimp only

theorem State.uplinkBad_keeps {s₀ s : State} (h₀ : Keeps s₀ s) : Keeps s₀ (State.uplinkBad s) := by
  unfold State.uplinkBad
  dsimp only
  repeat' first
    | with_reducible assumption
    | with_reducible exact rfl
    | with_reducible apply State.setLink_keeps
    | with_reducible apply State.setPsu_keeps
    | with_reducible apply Keeps.ite
    | split
    | (intro s' hs'; try dsimp only)
    | dsimp only

theorem State.handOver_keeps {s₀ s : State} (h₀ : Keeps s₀ s) : Keeps s₀ (State.handOver s) := by
  unfold State.handOver
  dsimp only
  repeat' first
    | with_reducible assumption
    | with_reducible exact rfl
    | with_reducible apply State.setPsu_keeps
    | with_reducible apply Keeps.ite
    | split
    | (intro s' hs'; try dsimp only)
    | dsimp only

theorem State.uplinkGood_keeps {s₀ s : State} {w : BitVec 64} (h₀ : Keeps s₀ s) : Keeps s₀ (State.uplinkGood s w) := by
  unfold State.uplinkGood
  dsimp only
  repeat' first
    | with_reducible assumption
    | with_reducible exact rfl
    | with_reducible apply State.mainsLoss_keeps
    | with_reducible apply State.handOver_keeps
    | with_reducible apply State.setLink_keeps
    | with_reducible apply State.setPsu_keeps
    | with_reducible apply State.post0_keeps
    | exact tableOk_tset _ _
    | with_reducible apply Keeps.ite
    | split
    | (intro s' hs'; try dsimp only)
    | dsimp only

theorem execUplinkFrame_keeps {s₀ s t : State} {word : BitVec 64} (e : execUplinkFrame word s = .next t) (h₀ : Keeps s₀ s) : Keeps s₀ t := by
  obtain rfl := Host.Outcome.next.inj e
  clear e
  repeat' first
    | with_reducible assumption
    | with_reducible exact rfl
    | with_reducible apply State.uplinkGood_keeps
    | with_reducible apply State.uplinkBad_keeps
    | with_reducible apply Keeps.ite
    | split
    | (intro s' hs'; try dsimp only)
    | dsimp only

theorem execMainsReturn_keeps {s₀ s t : State}  (e : execMainsReturn s = .next t) (h₀ : Keeps s₀ s) : Keeps s₀ t := by
  obtain rfl := Host.Outcome.next.inj e
  clear e
  repeat' first
    | with_reducible assumption
    | with_reducible exact rfl
    | with_reducible apply State.rsvRefresh_keeps
    | with_reducible apply State.mainsEvent_keeps
    | with_reducible apply State.setPsu_keeps
    | with_reducible apply State.post0_keeps
    | with_reducible apply Keeps.ite
    | split
    | (intro s' hs'; try dsimp only)
    | dsimp only

theorem State.sampleBus_keeps {s₀ s : State} {vBus : Nat} (h₀ : Keeps s₀ s) : Keeps s₀ (State.sampleBus s vBus) := by
  unfold State.sampleBus
  dsimp only
  repeat' first
    | with_reducible assumption
    | with_reducible exact rfl
    | with_reducible apply State.setPsu_keeps
    | with_reducible apply Keeps.ite
    | split
    | (intro s' hs'; try dsimp only)
    | dsimp only

theorem State.compStep_keeps {s₀ s : State} (h₀ : Keeps s₀ s) : Keeps s₀ (State.compStep s) := by
  unfold State.compStep
  dsimp only
  repeat' first
    | with_reducible assumption
    | with_reducible exact rfl
    | with_reducible apply State.setPsu_keeps
    | with_reducible apply Keeps.ite
    | split
    | (intro s' hs'; try dsimp only)
    | dsimp only

theorem State.loopStep_keeps {s₀ s : State} (h₀ : Keeps s₀ s) : Keeps s₀ (State.loopStep s) := by
  unfold State.loopStep
  dsimp only
  repeat' first
    | with_reducible assumption
    | with_reducible exact rfl
    | with_reducible apply State.compStep_keeps
    | with_reducible apply State.setPsu_keeps
    | with_reducible apply Keeps.ite
    | split
    | (intro s' hs'; try dsimp only)
    | dsimp only

theorem State.sendDown_keeps {s₀ s : State} (h₀ : Keeps s₀ s) : Keeps s₀ (State.sendDown s) := by
  unfold State.sendDown
  dsimp only
  repeat' first
    | with_reducible assumption
    | with_reducible exact rfl
    | with_reducible apply State.setPsu_keeps
    | with_reducible apply Keeps.ite
    | split
    | (intro s' hs'; try dsimp only)
    | dsimp only

theorem State.kfSend_keeps {s₀ s : State} (h₀ : Keeps s₀ s) : Keeps s₀ (State.kfSend s) := by
  unfold State.kfSend
  dsimp only
  repeat' first
    | with_reducible assumption
    | with_reducible exact rfl
    | with_reducible apply State.setKf_keeps
    | with_reducible apply State.draw_keeps
    | (with_reducible apply State.draw_keeps_eq; with_reducible assumption)
    | with_reducible apply Keeps.ite
    | split
    | (intro s' hs'; try dsimp only)
    | dsimp only

theorem State.kfReceive_keeps {s₀ s : State} {good : Bool} (h₀ : Keeps s₀ s) : Keeps s₀ (State.kfReceive s good) := by
  unfold State.kfReceive
  repeat' first
    | with_reducible assumption
    | with_reducible exact rfl
    | with_reducible apply State.kfSend_keeps
    | with_reducible apply State.setKf_keeps
    | with_reducible apply Keeps.ite
    | split
    | (intro s' hs'; try dsimp only)
    | dsimp only

theorem execDownlinkFrame_keeps {s₀ s t : State} {vBus : Nat} {good : Bool} (e : execDownlinkFrame vBus good s = .next t) (h₀ : Keeps s₀ s) : Keeps s₀ t := by
  obtain rfl := Host.Outcome.next.inj e
  clear e
  repeat' first
    | with_reducible assumption
    | with_reducible exact rfl
    | with_reducible apply State.rsvRefresh_keeps
    | with_reducible apply State.sampleBus_keeps
    | with_reducible apply State.kfReceive_keeps
    | with_reducible apply State.loopStep_keeps
    | with_reducible apply State.sendDown_keeps
    | with_reducible apply Keeps.ite
    | split
    | (intro s' hs'; try dsimp only)
    | dsimp only

theorem execBadSlot_keeps {s₀ s t : State} {uplink : Bool} (e : execBadSlot uplink s = .next t) (h₀ : Keeps s₀ s) : Keeps s₀ t := by
  obtain rfl := Host.Outcome.next.inj e
  clear e
  repeat' first
    | with_reducible assumption
    | with_reducible exact rfl
    | with_reducible apply State.uplinkBad_keeps
    | with_reducible apply State.setKf_keeps
    | with_reducible apply Keeps.ite
    | split
    | (intro s' hs'; try dsimp only)
    | dsimp only

theorem execUplinkSelfTimed_keeps {s₀ s t : State}  (e : execUplinkSelfTimed s = .next t) (h₀ : Keeps s₀ s) : Keeps s₀ t := by
  obtain rfl := Host.Outcome.next.inj e
  clear e
  repeat' first
    | with_reducible assumption
    | with_reducible exact rfl
    | with_reducible apply State.kfSend_keeps
    | with_reducible apply State.setKf_keeps
    | with_reducible apply Keeps.ite
    | split
    | (intro s' hs'; try dsimp only)
    | dsimp only

theorem execHoldupEstimate_keeps {s₀ s t : State} {powerMw : Nat} {iOutMa : Nat} {vRsv : Nat} (e : execHoldupEstimate powerMw iOutMa vRsv s = .next t) (h₀ : Keeps s₀ s) : Keeps s₀ t := by
  obtain rfl := Host.Outcome.next.inj e
  clear e
  repeat' first
    | with_reducible assumption
    | with_reducible exact rfl
    | with_reducible apply State.setPsu_keeps
    | with_reducible apply Keeps.ite
    | split
    | (intro s' hs'; try dsimp only)
    | dsimp only

theorem execRsvComparator_keeps {s₀ s t : State} {vBus : Nat} (e : execRsvComparator vBus s = .next t) (h₀ : Keeps s₀ s) : Keeps s₀ t := by
  obtain rfl := Host.Outcome.next.inj e
  clear e
  repeat' first
    | with_reducible assumption
    | with_reducible exact rfl
    | with_reducible apply State.rsvRefresh_keeps
    | with_reducible apply State.setPsu_keeps
    | with_reducible apply Keeps.ite
    | split
    | (intro s' hs'; try dsimp only)
    | dsimp only

theorem execVccStart_keeps {s₀ s t : State} {mv : Nat} (e : execVccStart mv s = .next t) (h₀ : Keeps s₀ s) : Keeps s₀ t := by
  obtain rfl := Host.Outcome.next.inj e
  clear e
  repeat' first
    | with_reducible assumption
    | with_reducible exact rfl
    | with_reducible apply State.setKf_keeps
    | with_reducible apply Keeps.ite
    | split
    | (intro s' hs'; try dsimp only)
    | dsimp only

theorem execLlcSoftStart_keeps {s₀ s t : State} {halfV : Nat} (e : execLlcSoftStart halfV s = .next t) (h₀ : Keeps s₀ s) : Keeps s₀ t := by
  obtain rfl := Host.Outcome.next.inj e
  clear e
  repeat' first
    | with_reducible assumption
    | with_reducible exact rfl
    | with_reducible apply State.setKf_keeps
    | with_reducible apply Keeps.ite
    | split
    | (intro s' hs'; try dsimp only)
    | dsimp only

theorem execSoftStartEnd_keeps {s₀ s t : State}  (e : execSoftStartEnd s = .next t) (h₀ : Keeps s₀ s) : Keeps s₀ t := by
  obtain rfl := Host.Outcome.next.inj e
  clear e
  repeat' first
    | with_reducible assumption
    | with_reducible exact rfl
    | with_reducible apply State.setKf_keeps
    | with_reducible apply Keeps.ite
    | split
    | (intro s' hs'; try dsimp only)
    | dsimp only

theorem execHoldoff_keeps {s₀ s t : State}  (e : execHoldoff s = .next t) (h₀ : Keeps s₀ s) : Keeps s₀ t := by
  obtain rfl := Host.Outcome.next.inj e
  clear e
  repeat' first
    | with_reducible assumption
    | with_reducible exact rfl
    | with_reducible apply State.setKf_keeps
    | with_reducible apply Keeps.ite
    | split
    | (intro s' hs'; try dsimp only)
    | dsimp only

theorem execHoldoffEnd_keeps {s₀ s t : State} {tempHalfC : Int} (e : execHoldoffEnd tempHalfC s = .next t) (h₀ : Keeps s₀ s) : Keeps s₀ t := by
  obtain rfl := Host.Outcome.next.inj e
  clear e
  repeat' first
    | with_reducible assumption
    | with_reducible exact rfl
    | with_reducible apply State.setKf_keeps
    | with_reducible apply Keeps.ite
    | split
    | (intro s' hs'; try dsimp only)
    | dsimp only

theorem execZeroCrossing_keeps {s₀ s t : State} {dtUs : Nat} {peakV : Nat} (e : execZeroCrossing dtUs peakV s = .next t) (h₀ : Keeps s₀ s) : Keeps s₀ t := by
  obtain rfl := Host.Outcome.next.inj e
  clear e
  repeat' first
    | with_reducible assumption
    | with_reducible exact rfl
    | with_reducible apply State.setKf_keeps
    | with_reducible apply Keeps.ite
    | split
    | (intro s' hs'; try dsimp only)
    | dsimp only

theorem execMainsOkTimeout_keeps {s₀ s t : State}  (e : execMainsOkTimeout s = .next t) (h₀ : Keeps s₀ s) : Keeps s₀ t := by
  obtain rfl := Host.Outcome.next.inj e
  clear e
  repeat' first
    | with_reducible assumption
    | with_reducible exact rfl
    | with_reducible apply State.setKf_keeps
    | with_reducible apply Keeps.ite
    | split
    | (intro s' hs'; try dsimp only)
    | dsimp only

theorem execOcpLimit_keeps {s₀ s t : State} {inRow : Bool} (e : execOcpLimit inRow s = .next t) (h₀ : Keeps s₀ s) : Keeps s₀ t := by
  obtain rfl := Host.Outcome.next.inj e
  clear e
  repeat' first
    | with_reducible assumption
    | with_reducible exact rfl
    | with_reducible apply State.setKf_keeps
    | with_reducible apply Keeps.ite
    | split
    | (intro s' hs'; try dsimp only)
    | dsimp only

theorem execCapacitiveMode_keeps {s₀ s t : State} {inRow : Bool} (e : execCapacitiveMode inRow s = .next t) (h₀ : Keeps s₀ s) : Keeps s₀ t := by
  obtain rfl := Host.Outcome.next.inj e
  clear e
  repeat' first
    | with_reducible assumption
    | with_reducible exact rfl
    | with_reducible apply State.setKf_keeps
    | with_reducible apply Keeps.ite
    | split
    | (intro s' hs'; try dsimp only)
    | dsimp only

theorem execOverTemperature_keeps {s₀ s t : State} {tempHalfC : Int} (e : execOverTemperature tempHalfC s = .next t) (h₀ : Keeps s₀ s) : Keeps s₀ t := by
  obtain rfl := Host.Outcome.next.inj e
  clear e
  repeat' first
    | with_reducible assumption
    | with_reducible exact rfl
    | with_reducible apply State.setKf_keeps
    | with_reducible apply Keeps.ite
    | split
    | (intro s' hs'; try dsimp only)
    | dsimp only

theorem execVccUvlo_keeps {s₀ s t : State} {mv : Nat} (e : execVccUvlo mv s = .next t) (h₀ : Keeps s₀ s) : Keeps s₀ t := by
  obtain rfl := Host.Outcome.next.inj e
  clear e
  repeat' first
    | with_reducible assumption
    | with_reducible exact rfl
    | with_reducible apply State.setKf_keeps
    | with_reducible apply Keeps.ite
    | split
    | (intro s' hs'; try dsimp only)
    | dsimp only

theorem execBulkOvp_keeps {s₀ s t : State} {halfV : Nat} (e : execBulkOvp halfV s = .next t) (h₀ : Keeps s₀ s) : Keeps s₀ t := by
  obtain rfl := Host.Outcome.next.inj e
  clear e
  repeat' first
    | with_reducible assumption
    | with_reducible exact rfl
    | with_reducible apply State.setKf_keeps
    | with_reducible apply Keeps.ite
    | split
    | (intro s' hs'; try dsimp only)
    | dsimp only

theorem execBulkOvpRelease_keeps {s₀ s t : State} {halfV : Nat} (e : execBulkOvpRelease halfV s = .next t) (h₀ : Keeps s₀ s) : Keeps s₀ t := by
  obtain rfl := Host.Outcome.next.inj e
  clear e
  repeat' first
    | with_reducible assumption
    | with_reducible exact rfl
    | with_reducible apply State.setKf_keeps
    | with_reducible apply Keeps.ite
    | split
    | (intro s' hs'; try dsimp only)
    | dsimp only

theorem execBulkUv_keeps {s₀ s t : State} {halfV : Nat} (e : execBulkUv halfV s = .next t) (h₀ : Keeps s₀ s) : Keeps s₀ t := by
  obtain rfl := Host.Outcome.next.inj e
  clear e
  repeat' first
    | with_reducible assumption
    | with_reducible exact rfl
    | with_reducible apply State.setKf_keeps
    | with_reducible apply Keeps.ite
    | split
    | (intro s' hs'; try dsimp only)
    | dsimp only

end Sys2Proof.Machine
end

