-- ==== Sys2Proof/Laws/KeepsRegs.lean ====
section
/-! SUPPORT. Laws/KeepsRegs.lean: what the operations of Machine/Regs.lean keep (Laws/Keeps.lean), one lemma each. -/

namespace Sys2Proof.Machine

theorem State.writeRngCfg_keeps {s₀ s : State} {g : Nat} {v : Nat} (h₀ : Keeps s₀ s) : Keeps s₀ (State.writeRngCfg s g v) := by
  unfold State.writeRngCfg
  dsimp only
  repeat' first
    | with_reducible assumption
    | with_reducible exact rfl
    | with_reducible apply State.putRing_keeps
    | with_reducible apply Keeps.ite
    | split
    | (intro s' hs'; try dsimp only)
    | dsimp only

theorem State.writeFnCtrl_keeps {s₀ s : State} {f : Nat} {v : Nat} (h₀ : Keeps s₀ s) : Keeps s₀ (State.writeFnCtrl s f v) := by
  unfold State.writeFnCtrl
  repeat' first
    | with_reducible assumption
    | with_reducible exact rfl
    | with_reducible apply State.putFn_keeps
    | with_reducible apply State.flr_keeps
    | with_reducible apply Keeps.ite
    | split
    | (intro s' hs'; try dsimp only)
    | dsimp only

theorem State.writeMsix_keeps {s₀ s : State} {k : Nat} {d : Nat} {v : Nat} (h₀ : Keeps s₀ s) : Keeps s₀ (State.writeMsix s k d v) := by
  unfold State.writeMsix
  dsimp only
  repeat' first
    | with_reducible assumption
    | with_reducible exact rfl
    | with_reducible apply State.putVec_keeps
    | with_reducible apply Keeps.ite
    | split
    | (intro s' hs'; try dsimp only)
    | dsimp only

theorem State.writePage_keeps {s₀ s : State} {f : Nat} {o : Nat} {v : Nat} (h₀ : Keeps s₀ s) : Keeps s₀ (State.writePage s f o v) := by
  unfold State.writePage
  dsimp only
  repeat' first
    | with_reducible assumption
    | with_reducible exact rfl
    | with_reducible apply State.writeFnCtrl_keeps
    | with_reducible apply State.writeRngCfg_keeps
    | with_reducible apply State.writeMsix_keeps
    | with_reducible apply State.dbFault_keeps
    | with_reducible apply State.putRing_keeps
    | with_reducible apply State.putFn_keeps
    | with_reducible apply Keeps.ite
    | split
    | (intro s' hs'; try dsimp only)
    | dsimp only

theorem State.putWin_keeps {s₀ s : State} {k : Nat} {v : WinSt} (h₀ : Keeps s₀ s) : Keeps s₀ (State.putWin s k v) := by
  unfold State.putWin
  repeat' first
    | with_reducible assumption
    | with_reducible exact rfl
    | with_reducible apply State.setHost_keeps
    | with_reducible apply Keeps.ite
    | split
    | (intro s' hs'; try dsimp only)
    | dsimp only

theorem State.writeWindow_keeps {s₀ s : State} {o : Nat} {v : Nat} (h₀ : Keeps s₀ s) : Keeps s₀ (State.writeWindow s o v) := by
  unfold State.writeWindow
  dsimp only
  repeat' first
    | with_reducible assumption
    | with_reducible exact rfl
    | with_reducible apply State.putWin_keeps
    | with_reducible apply Keeps.ite
    | split
    | (intro s' hs'; try dsimp only)
    | dsimp only

theorem State.writePlic_keeps {s₀ s : State} {o : Nat} {v : Nat} (h₀ : Keeps s₀ s) : Keeps s₀ (State.writePlic s o v) := by
  unfold State.writePlic
  dsimp only
  repeat' first
    | with_reducible assumption
    | with_reducible exact rfl
    | with_reducible apply State.complete_keeps
    | with_reducible apply State.setCc_keeps
    | with_reducible refine Keeps.foldl _ (fun s x hs => ?_) ?_
    | with_reducible refine Keeps.foldl1 _ (fun s x hs => ?_) ?_
    | exact tableOk_tset _ _
    | with_reducible apply Keeps.ite
    | split
    | (intro s' hs'; try dsimp only)
    | dsimp only

theorem State.writeSys_keeps {s₀ s : State} {p : Path} {o : Nat} {v : Nat} (h₀ : Keeps s₀ s) : Keeps s₀ (State.writeSys s p o v) := by
  unfold State.writeSys
  dsimp only
  repeat' first
    | with_reducible assumption
    | with_reducible exact rfl
    | with_reducible apply State.writeCoreRun_keeps
    | with_reducible apply State.writeMemErr_keeps
    | with_reducible apply State.chipReset_keeps
    | with_reducible apply State.setBoot_keeps
    | with_reducible apply State.bootGo_keeps
    | with_reducible apply State.setBus_keeps
    | with_reducible apply State.setCc_keeps
    | with_reducible apply State.mtips_keeps
    | with_reducible apply State.draw_keeps
    | (with_reducible apply State.draw_keeps_eq; with_reducible assumption)
    | with_reducible apply Keeps.ite
    | exact Eq.refl _
    | split
    | (intro s' hs'; try dsimp only)
    | dsimp only

theorem State.writeStore_keeps {s₀ s : State} {o : Nat} {v : Nat} (h₀ : Keeps s₀ s) : Keeps s₀ (State.writeStore s o v) := by
  unfold State.writeStore
  dsimp only
  repeat' first
    | with_reducible assumption
    | with_reducible exact rfl
    | with_reducible apply State.setCmt_keeps
    | with_reducible apply Keeps.ite
    | split
    | (intro s' hs'; try dsimp only)
    | dsimp only

theorem State.regPut_keeps {s₀ s : State} {p : Path} {off : Nat} {v : Nat} (h₀ : Keeps s₀ s) : Keeps s₀ (State.regPut s p off v) := by
  unfold State.regPut
  repeat' first
    | with_reducible assumption
    | with_reducible exact rfl
    | with_reducible apply State.writeMdioData_keeps
    | with_reducible apply State.writeMdioCmd_keeps
    | with_reducible apply State.writeWindow_keeps
    | with_reducible apply State.writeStore_keeps
    | with_reducible apply State.writePage_keeps
    | with_reducible apply State.writePlic_keeps
    | with_reducible apply State.writeSys_keeps
    | with_reducible apply State.busWrite_keeps
    | with_reducible apply State.setClk_keeps
    | with_reducible apply Keeps.ite
    | split
    | (intro s' hs'; try dsimp only)
    | dsimp only

theorem State.regWrite_keeps {s₀ s : State} {p : Path} {off : Nat} {v : Nat} (h₀ : Keeps s₀ s) : Keeps s₀ (State.regWrite s p off v) := by
  unfold State.regWrite
  repeat' first
    | with_reducible assumption
    | with_reducible exact rfl
    | with_reducible apply State.regPut_keeps
    | with_reducible apply Keeps.ite
    | split
    | (intro s' hs'; try dsimp only)
    | dsimp only

theorem execRegWrite_keeps {s₀ s t : State} {path : Path} {off : Nat} {val : BitVec 32} (e : execRegWrite path off val s = .next t) (h₀ : Keeps s₀ s) : Keeps s₀ t := by
  obtain rfl := Host.Outcome.next.inj e
  clear e
  repeat' first
    | with_reducible assumption
    | with_reducible exact rfl
    | with_reducible apply State.regWrite_keeps
    | with_reducible apply Keeps.ite
    | split
    | (intro s' hs'; try dsimp only)
    | dsimp only

theorem execRingEnable_keeps {s₀ s t : State} {path : Path} {ring : Nat} {val : BitVec 32} (e : execRingEnable path ring val s = .next t) (h₀ : Keeps s₀ s) : Keeps s₀ t := by
  obtain rfl := Host.Outcome.next.inj e
  clear e
  repeat' first
    | with_reducible assumption
    | with_reducible exact rfl
    | with_reducible apply State.regWrite_keeps
    | with_reducible apply Keeps.ite
    | split
    | (intro s' hs'; try dsimp only)
    | dsimp only

theorem execRingDisable_keeps {s₀ s t : State} {path : Path} {ring : Nat} {val : BitVec 32} (e : execRingDisable path ring val s = .next t) (h₀ : Keeps s₀ s) : Keeps s₀ t := by
  obtain rfl := Host.Outcome.next.inj e
  clear e
  repeat' first
    | with_reducible assumption
    | with_reducible exact rfl
    | with_reducible apply State.regWrite_keeps
    | with_reducible apply Keeps.ite
    | split
    | (intro s' hs'; try dsimp only)
    | dsimp only

theorem execFnCtrlReset_keeps {s₀ s t : State} {path : Path} {fn : Nat} {val : BitVec 32} (e : execFnCtrlReset path fn val s = .next t) (h₀ : Keeps s₀ s) : Keeps s₀ t := by
  obtain rfl := Host.Outcome.next.inj e
  clear e
  repeat' first
    | with_reducible assumption
    | with_reducible exact rfl
    | with_reducible apply State.regWrite_keeps
    | with_reducible apply Keeps.ite
    | split
    | (intro s' hs'; try dsimp only)
    | dsimp only

theorem execMemErrValidClear_keeps {s₀ s t : State} {path : Path} {val : BitVec 32} (e : execMemErrValidClear path val s = .next t) (h₀ : Keeps s₀ s) : Keeps s₀ t := by
  obtain rfl := Host.Outcome.next.inj e
  clear e
  repeat' first
    | with_reducible assumption
    | with_reducible exact rfl
    | with_reducible apply State.regWrite_keeps
    | with_reducible apply Keeps.ite
    | split
    | (intro s' hs'; try dsimp only)
    | dsimp only

theorem execSysTickLoRead_keeps {s₀ s t : State} {slot : Nat} (e : execSysTickLoRead slot s = .next t) (h₀ : Keeps s₀ s) : Keeps s₀ t := by
  obtain rfl := Host.Outcome.next.inj e
  clear e
  repeat' first
    | with_reducible assumption
    | with_reducible exact rfl
    | with_reducible apply State.latchTick_keeps
    | with_reducible apply State.atSlot_keeps
    | (with_reducible apply State.atSlot_keeps_eq; with_reducible assumption)
    | with_reducible apply Keeps.ite
    | split
    | (intro s' hs'; try dsimp only)
    | dsimp only

theorem execSysMtimeLoRead_keeps {s₀ s t : State} {slot : Nat} (e : execSysMtimeLoRead slot s = .next t) (h₀ : Keeps s₀ s) : Keeps s₀ t := by
  obtain rfl := Host.Outcome.next.inj e
  clear e
  repeat' first
    | with_reducible assumption
    | with_reducible exact rfl
    | with_reducible apply State.latchMtime_keeps
    | with_reducible apply State.atSlot_keeps
    | (with_reducible apply State.atSlot_keeps_eq; with_reducible assumption)
    | with_reducible apply Keeps.ite
    | split
    | (intro s' hs'; try dsimp only)
    | dsimp only

end Sys2Proof.Machine
end

