-- ==== Sys2Proof/Laws/KeepsBus.lean ====
section
/-! SUPPORT. Laws/KeepsBus.lean: what the operations of Machine/Bus.lean keep (Laws/Keeps.lean), one lemma each. -/

namespace Sys2Proof.Machine

theorem State.coreTrap_keeps {s₀ s : State} {master : Nat} {cause : Nat} (h₀ : Keeps s₀ s) : Keeps s₀ (State.coreTrap s master cause) := by
  unfold State.coreTrap
  repeat' first
    | with_reducible assumption
    | with_reducible exact rfl
    | with_reducible apply State.coreFault_keeps
    | with_reducible apply Keeps.ite
    | split
    | (intro s' hs'; try dsimp only)
    | dsimp only

theorem State.failAccess_keeps {s₀ s : State} {x : Access} {other : BusStatus} (h₀ : Keeps s₀ s) : Keeps s₀ (State.failAccess s x other).1 := by
  unfold State.failAccess
  repeat' first
    | with_reducible assumption
    | with_reducible exact rfl
    | with_reducible apply State.coreTrap_keeps
    | with_reducible apply Keeps.ite
    | split
    | (intro s' hs'; try dsimp only)
    | dsimp only

theorem State.failAccess_keeps_eq {s₀ s t : State} {y : BusReply} {x : Access} {other : BusStatus}  (e : State.failAccess s x other  = (t, y)) (h₀ : Keeps s₀ s) : Keeps s₀ t :=
  Keeps.fst e (State.failAccess_keeps h₀)

theorem State.writeRegs_keeps {s₀ s : State} {p : Path} {base : Nat} {bs : List Byte} {off : Nat} {n0 : Nat} (h₀ : Keeps s₀ s) : Keeps s₀ (State.writeRegs s p base bs off n0) := by
  induction n0 generalizing s p base bs off  with
  | zero =>
    unfold State.writeRegs
    repeat' first
      | with_reducible assumption
      | with_reducible exact rfl
      | with_reducible apply State.regWrite_keeps
      | with_reducible apply Keeps.ite
      | split
      | (intro s' hs'; try dsimp only)
      | dsimp only
  | succ m ih =>
    unfold State.writeRegs
    repeat' first
      | with_reducible assumption
      | with_reducible exact rfl
      | with_reducible apply ih
      | with_reducible apply State.regWrite_keeps
      | with_reducible apply Keeps.ite
      | split
      | (intro s' hs'; try dsimp only)
      | dsimp only

theorem State.regAccessAt_keeps {s₀ s : State} {x : Access} {off : Nat} (h₀ : Keeps s₀ s) : Keeps s₀ (State.regAccessAt s x off).1 := by
  unfold State.regAccessAt
  dsimp only
  repeat' first
    | with_reducible assumption
    | with_reducible exact rfl
    | with_reducible apply State.writeRegs_keeps
    | with_reducible apply State.readRegs_keeps
    | (with_reducible apply State.readRegs_keeps_eq; with_reducible assumption)
    | with_reducible apply Keeps.ite
    | split
    | (intro s' hs'; try dsimp only)
    | dsimp only

theorem State.regAccessAt_keeps_eq {s₀ s t : State} {y : BusReply} {x : Access} {off : Nat}  (e : State.regAccessAt s x off  = (t, y)) (h₀ : Keeps s₀ s) : Keeps s₀ t :=
  Keeps.fst e (State.regAccessAt_keeps h₀)

theorem State.regAccess_keeps {s₀ s : State} {x : Access} (h₀ : Keeps s₀ s) : Keeps s₀ (State.regAccess s x).1 := by
  unfold State.regAccess
  repeat' first
    | with_reducible assumption
    | with_reducible exact rfl
    | with_reducible apply State.regAccessAt_keeps
    | (with_reducible apply State.regAccessAt_keeps_eq; with_reducible assumption)
    | with_reducible apply Keeps.ite
    | split
    | (intro s' hs'; try dsimp only)
    | dsimp only

theorem State.regAccess_keeps_eq {s₀ s t : State} {y : BusReply} {x : Access}  (e : State.regAccess s x  = (t, y)) (h₀ : Keeps s₀ s) : Keeps s₀ t :=
  Keeps.fst e (State.regAccess_keeps h₀)

theorem State.vatStore_keeps {s₀ s : State} {x : Access} (h₀ : Keeps s₀ s) : Keeps s₀ (State.vatStore s x).1 := by
  unfold State.vatStore
  dsimp only
  repeat' first
    | with_reducible assumption
    | with_reducible exact rfl
    | with_reducible apply State.failAccess_keeps
    | with_reducible apply State.vatStores_keeps
    | with_reducible apply State.upset_keeps
    | with_reducible apply State.wlost_keeps
    | (with_reducible apply State.failAccess_keeps_eq; with_reducible assumption)
    | (with_reducible apply State.vatStores_keeps_eq; with_reducible assumption)
    | with_reducible apply Keeps.ite
    | split
    | (intro s' hs'; try dsimp only)
    | dsimp only

theorem State.vatStore_keeps_eq {s₀ s t : State} {y : BusReply} {x : Access}  (e : State.vatStore s x  = (t, y)) (h₀ : Keeps s₀ s) : Keeps s₀ t :=
  Keeps.fst e (State.vatStore_keeps h₀)

theorem State.vatLoad_keeps {s₀ s : State} {x : Access} (h₀ : Keeps s₀ s) : Keeps s₀ (State.vatLoad s x).1 := by
  unfold State.vatLoad
  dsimp only
  repeat' first
    | with_reducible assumption
    | with_reducible exact rfl
    | with_reducible apply State.vatTouches_keeps
    | with_reducible apply State.failAccess_keeps
    | with_reducible apply State.upset_keeps
    | (with_reducible apply State.vatTouches_keeps_eq; with_reducible assumption)
    | (with_reducible apply State.failAccess_keeps_eq; with_reducible assumption)
    | with_reducible apply Keeps.ite
    | split
    | (intro s' hs'; try dsimp only)
    | dsimp only

theorem State.vatLoad_keeps_eq {s₀ s t : State} {y : BusReply} {x : Access}  (e : State.vatLoad s x  = (t, y)) (h₀ : Keeps s₀ s) : Keeps s₀ t :=
  Keeps.fst e (State.vatLoad_keeps h₀)

theorem State.coreAccess_keeps {s₀ s : State} {x : Access} (h₀ : Keeps s₀ s) : Keeps s₀ (State.coreAccess s x).1 := by
  unfold State.coreAccess
  dsimp only
  repeat' first
    | with_reducible assumption
    | with_reducible exact rfl
    | with_reducible apply State.coreStore_keeps
    | with_reducible apply State.coreFetch_keeps
    | with_reducible apply State.coreLoad_keeps
    | with_reducible apply Keeps.ite
    | split
    | (intro s' hs'; try dsimp only)
    | dsimp only

theorem State.coreAccess_keeps_eq {s₀ s t : State} {y : BusReply} {x : Access}  (e : State.coreAccess s x  = (t, y)) (h₀ : Keeps s₀ s) : Keeps s₀ t :=
  Keeps.fst e (State.coreAccess_keeps h₀)

theorem State.memAccess_keeps {s₀ s : State} {x : Access} (h₀ : Keeps s₀ s) : Keeps s₀ (State.memAccess s x).1 := by
  unfold State.memAccess
  dsimp only
  repeat' first
    | with_reducible assumption
    | with_reducible exact rfl
    | with_reducible apply State.coreAccess_keeps
    | with_reducible apply State.failAccess_keeps
    | with_reducible apply State.lineCheck_keeps
    | with_reducible apply State.busWrite_keeps
    | (with_reducible apply State.coreAccess_keeps_eq; with_reducible assumption)
    | (with_reducible apply State.failAccess_keeps_eq; with_reducible assumption)
    | with_reducible apply Keeps.ite
    | split
    | (intro s' hs'; try dsimp only)
    | dsimp only

theorem State.memAccess_keeps_eq {s₀ s t : State} {y : BusReply} {x : Access}  (e : State.memAccess s x  = (t, y)) (h₀ : Keeps s₀ s) : Keeps s₀ t :=
  Keeps.fst e (State.memAccess_keeps h₀)

theorem State.busOne_keeps {s₀ s : State} {x : Access} (h₀ : Keeps s₀ s) : Keeps s₀ (State.busOne s x).1 := by
  unfold State.busOne
  dsimp only
  repeat' first
    | with_reducible assumption
    | with_reducible exact rfl
    | with_reducible apply State.failAccess_keeps
    | with_reducible apply State.regAccess_keeps
    | with_reducible apply State.memAccess_keeps
    | with_reducible apply State.coreTrap_keeps
    | with_reducible apply State.vatStore_keeps
    | with_reducible apply State.capture_keeps
    | with_reducible apply State.vatLoad_keeps
    | (with_reducible apply State.failAccess_keeps_eq; with_reducible assumption)
    | (with_reducible apply State.regAccess_keeps_eq; with_reducible assumption)
    | (with_reducible apply State.memAccess_keeps_eq; with_reducible assumption)
    | (with_reducible apply State.vatStore_keeps_eq; with_reducible assumption)
    | (with_reducible apply State.vatLoad_keeps_eq; with_reducible assumption)
    | with_reducible apply Keeps.ite
    | split
    | (intro s' hs'; try dsimp only)
    | dsimp only

theorem State.busOne_keeps_eq {s₀ s t : State} {y : BusReply} {x : Access}  (e : State.busOne s x  = (t, y)) (h₀ : Keeps s₀ s) : Keeps s₀ t :=
  Keeps.fst e (State.busOne_keeps h₀)

theorem State.busAll_keeps {s₀ s : State}  {n0 : List Access} (h₀ : Keeps s₀ s) : Keeps s₀ (State.busAll s n0).1 := by
  induction n0 generalizing s   with
  | nil =>
    unfold State.busAll
    repeat' first
      | with_reducible assumption
      | with_reducible exact rfl
      | with_reducible apply State.busOne_keeps
      | (with_reducible apply State.busOne_keeps_eq; with_reducible assumption)
      | with_reducible apply Keeps.ite
      | split
      | (intro s' hs'; try dsimp only)
      | dsimp only
  | cons y m ih =>
    unfold State.busAll
    repeat' first
      | with_reducible assumption
      | with_reducible exact rfl
      | with_reducible apply ih
      | (apply Keeps.fst; with_reducible assumption; with_reducible apply ih)
      | with_reducible apply State.busOne_keeps
      | (with_reducible apply State.busOne_keeps_eq; with_reducible assumption)
      | with_reducible apply Keeps.ite
      | split
      | (intro s' hs'; try dsimp only)
      | dsimp only

theorem State.busAll_keeps_eq {s₀ s t : State} {y : List (Nat × BusReply)}  {n0 : List Access} (e : State.busAll s n0 = (t, y)) (h₀ : Keeps s₀ s) : Keeps s₀ t :=
  Keeps.fst e (State.busAll_keeps h₀)

theorem State.rotate_keeps {s₀ s : State} {x : Access} (h₀ : Keeps s₀ s) : Keeps s₀ (State.rotate s x) := by
  unfold State.rotate
  dsimp only
  repeat' first
    | with_reducible assumption
    | with_reducible exact rfl
    | with_reducible apply State.setVat_keeps
    | exact tableOk_tset _ _
    | with_reducible apply Keeps.ite
    | split
    | (intro s' hs'; try dsimp only)
    | dsimp only

theorem State.busCycle_keeps {s₀ s : State} {accs : List Access} (h₀ : Keeps s₀ s) : Keeps s₀ (State.busCycle s accs) := by
  unfold State.busCycle
  dsimp only
  repeat' first
    | with_reducible assumption
    | with_reducible exact rfl
    | with_reducible apply State.busAll_keeps
    | with_reducible apply State.rotate_keeps
    | with_reducible apply State.setBus_keeps
    | with_reducible refine Keeps.foldl _ (fun s x hs => ?_) ?_
    | with_reducible refine Keeps.foldl1 _ (fun s x hs => ?_) ?_
    | (with_reducible apply State.busAll_keeps_eq; with_reducible assumption)
    | with_reducible apply Keeps.ite
    | split
    | (intro s' hs'; try dsimp only)
    | dsimp only

theorem execBusAccess_keeps {s₀ s t : State} {accs : List Access} (e : execBusAccess accs s = .next t) (h₀ : Keeps s₀ s) : Keeps s₀ t := by
  obtain rfl := Host.Outcome.next.inj e
  clear e
  repeat' first
    | with_reducible assumption
    | with_reducible exact rfl
    | with_reducible apply State.busCycle_keeps
    | with_reducible apply Keeps.ite
    | split
    | (intro s' hs'; try dsimp only)
    | dsimp only

theorem execBuserrValidClear_keeps {s₀ s t : State} {accs : List Access} (e : execBuserrValidClear accs s = .next t) (h₀ : Keeps s₀ s) : Keeps s₀ t := by
  obtain rfl := Host.Outcome.next.inj e
  clear e
  repeat' first
    | with_reducible assumption
    | with_reducible exact rfl
    | with_reducible apply State.busCycle_keeps
    | with_reducible apply State.setBus_keeps
    | with_reducible apply Keeps.ite
    | split
    | (intro s' hs'; try dsimp only)
    | dsimp only

end Sys2Proof.Machine
end

