-- ==== Sys2Proof/Laws/KeepsDebug.lean ====
section
/-! SUPPORT. Laws/KeepsDebug.lean: what the operations of Machine/Debug.lean keep (Laws/Keeps.lean), one lemma each. -/

namespace Sys2Proof.Machine

theorem State.tapSelect_keeps {s₀ s : State} {ir : BitVec 5} {dr : BitVec 64} {driving : Bool} {floating : Bool} (h₀ : Keeps s₀ s) : Keeps s₀ (State.tapSelect s ir dr driving floating) := by
  unfold State.tapSelect
  repeat' first
    | with_reducible assumption
    | with_reducible exact rfl
    | with_reducible apply State.setDbg_keeps
    | with_reducible apply Keeps.ite
    | split
    | (intro s' hs'; try dsimp only)
    | dsimp only

theorem State.scanCells_keeps {s₀ s : State} {pins : List Bool} {load : List Bool} (h₀ : Keeps s₀ s) : Keeps s₀ (State.scanCells s pins load) := by
  unfold State.scanCells
  repeat' first
    | with_reducible assumption
    | with_reducible exact rfl
    | with_reducible apply State.capture_keeps
    | with_reducible apply State.setDbg_keeps
    | with_reducible apply State.take_keeps
    | with_reducible apply Keeps.ite
    | split
    | (intro s' hs'; try dsimp only)
    | dsimp only

theorem execExtest_keeps {s₀ s t : State} {pins : List Bool} {load : List Bool} (e : execExtest pins load s = .next t) (h₀ : Keeps s₀ s) : Keeps s₀ t := by
  obtain rfl := Host.Outcome.next.inj e
  clear e
  repeat' first
    | with_reducible assumption
    | with_reducible exact rfl
    | with_reducible apply State.tapSelect_keeps
    | with_reducible apply State.scanCells_keeps
    | with_reducible apply Keeps.ite
    | split
    | (intro s' hs'; try dsimp only)
    | dsimp only

theorem execIdcode_keeps {s₀ s t : State}  (e : execIdcode s = .next t) (h₀ : Keeps s₀ s) : Keeps s₀ t := by
  obtain rfl := Host.Outcome.next.inj e
  clear e
  repeat' first
    | with_reducible assumption
    | with_reducible exact rfl
    | with_reducible apply State.tapSelect_keeps
    | with_reducible apply Keeps.ite
    | split
    | (intro s' hs'; try dsimp only)
    | dsimp only

theorem execSamplePreload_keeps {s₀ s t : State} {pins : List Bool} {load : List Bool} (e : execSamplePreload pins load s = .next t) (h₀ : Keeps s₀ s) : Keeps s₀ t := by
  obtain rfl := Host.Outcome.next.inj e
  clear e
  repeat' first
    | with_reducible assumption
    | with_reducible exact rfl
    | with_reducible apply State.tapSelect_keeps
    | with_reducible apply State.scanCells_keeps
    | with_reducible apply Keeps.ite
    | split
    | (intro s' hs'; try dsimp only)
    | dsimp only

theorem execHighz_keeps {s₀ s t : State}  (e : execHighz s = .next t) (h₀ : Keeps s₀ s) : Keeps s₀ t := by
  obtain rfl := Host.Outcome.next.inj e
  clear e
  repeat' first
    | with_reducible assumption
    | with_reducible exact rfl
    | with_reducible apply State.tapSelect_keeps
    | with_reducible apply Keeps.ite
    | split
    | (intro s' hs'; try dsimp only)
    | dsimp only

theorem execClamp_keeps {s₀ s t : State}  (e : execClamp s = .next t) (h₀ : Keeps s₀ s) : Keeps s₀ t := by
  obtain rfl := Host.Outcome.next.inj e
  clear e
  repeat' first
    | with_reducible assumption
    | with_reducible exact rfl
    | with_reducible apply State.tapSelect_keeps
    | with_reducible apply Keeps.ite
    | split
    | (intro s' hs'; try dsimp only)
    | dsimp only

theorem execDtmcs_keeps {s₀ s t : State}  (e : execDtmcs s = .next t) (h₀ : Keeps s₀ s) : Keeps s₀ t := by
  obtain rfl := Host.Outcome.next.inj e
  clear e
  repeat' first
    | with_reducible assumption
    | with_reducible exact rfl
    | with_reducible apply State.tapSelect_keeps
    | with_reducible apply Keeps.ite
    | split
    | (intro s' hs'; try dsimp only)
    | dsimp only

theorem execBypass_keeps {s₀ s t : State}  (e : execBypass s = .next t) (h₀ : Keeps s₀ s) : Keeps s₀ t := by
  obtain rfl := Host.Outcome.next.inj e
  clear e
  repeat' first
    | with_reducible assumption
    | with_reducible exact rfl
    | with_reducible apply State.tapSelect_keeps
    | with_reducible apply Keeps.ite
    | split
    | (intro s' hs'; try dsimp only)
    | dsimp only

theorem execTestLogicReset_keeps {s₀ s t : State}  (e : execTestLogicReset s = .next t) (h₀ : Keeps s₀ s) : Keeps s₀ t := by
  obtain rfl := Host.Outcome.next.inj e
  clear e
  repeat' first
    | with_reducible assumption
    | with_reducible exact rfl
    | with_reducible apply State.tapSelect_keeps
    | with_reducible apply Keeps.ite
    | split
    | (intro s' hs'; try dsimp only)
    | dsimp only

theorem State.haltCore_keeps {s₀ s : State} {c : Nat} (h₀ : Keeps s₀ s) : Keeps s₀ (State.haltCore s c) := by
  unfold State.haltCore
  repeat' first
    | with_reducible assumption
    | with_reducible exact rfl
    | with_reducible apply State.putCore_keeps
    | with_reducible apply Keeps.ite
    | split
    | (intro s' hs'; try dsimp only)
    | dsimp only

theorem State.resumeCore_keeps {s₀ s : State} {c : Nat} (h₀ : Keeps s₀ s) : Keeps s₀ (State.resumeCore s c) := by
  unfold State.resumeCore
  repeat' first
    | with_reducible assumption
    | with_reducible exact rfl
    | with_reducible apply State.putCore_keeps
    | with_reducible apply Keeps.ite
    | split
    | (intro s' hs'; try dsimp only)
    | dsimp only

theorem State.hartReset_keeps {s₀ s : State} {c : Nat} (h₀ : Keeps s₀ s) : Keeps s₀ (State.hartReset s c) := by
  unfold State.hartReset
  repeat' first
    | with_reducible assumption
    | with_reducible exact rfl
    | with_reducible apply State.coreReset_keeps
    | with_reducible apply State.dropCore_keeps
    | with_reducible apply Keeps.ite
    | split
    | (intro s' hs'; try dsimp only)
    | dsimp only

theorem execHalt_keeps {s₀ s t : State} {core : Nat} (e : execHalt core s = .next t) (h₀ : Keeps s₀ s) : Keeps s₀ t := by
  obtain rfl := Host.Outcome.next.inj e
  clear e
  repeat' first
    | with_reducible assumption
    | with_reducible exact rfl
    | with_reducible apply State.haltCore_keeps
    | with_reducible apply Keeps.ite
    | split
    | (intro s' hs'; try dsimp only)
    | dsimp only

theorem execResume_keeps {s₀ s t : State} {core : Nat} (e : execResume core s = .next t) (h₀ : Keeps s₀ s) : Keeps s₀ t := by
  obtain rfl := Host.Outcome.next.inj e
  clear e
  repeat' first
    | with_reducible assumption
    | with_reducible exact rfl
    | with_reducible apply State.resumeCore_keeps
    | with_reducible apply Keeps.ite
    | split
    | (intro s' hs'; try dsimp only)
    | dsimp only

theorem execHartreset_keeps {s₀ s t : State} {core : Nat} (e : execHartreset core s = .next t) (h₀ : Keeps s₀ s) : Keeps s₀ t := by
  obtain rfl := Host.Outcome.next.inj e
  clear e
  repeat' first
    | with_reducible assumption
    | with_reducible exact rfl
    | with_reducible apply State.hartReset_keeps
    | with_reducible apply Keeps.ite
    | split
    | (intro s' hs'; try dsimp only)
    | dsimp only

theorem State.readCoreReg_keeps {s₀ s : State} {c : Nat} {n : Nat} (h₀ : Keeps s₀ s) : Keeps s₀ (State.readCoreReg s c n).1 := by
  unfold State.readCoreReg
  dsimp only
  repeat' first
    | with_reducible assumption
    | with_reducible exact rfl
    | with_reducible apply State.someSlot_keeps
    | with_reducible apply State.putCore_keeps
    | with_reducible apply State.draw_keeps
    | (with_reducible apply State.someSlot_keeps_eq; with_reducible assumption)
    | (with_reducible apply State.draw_keeps_eq; with_reducible assumption)
    | with_reducible apply Keeps.ite
    | split
    | (intro s' hs'; try dsimp only)
    | dsimp only

theorem State.readCoreReg_keeps_eq {s₀ s t : State} {y : BitVec 64} {c : Nat} {n : Nat}  (e : State.readCoreReg s c n  = (t, y)) (h₀ : Keeps s₀ s) : Keeps s₀ t :=
  Keeps.fst e (State.readCoreReg_keeps h₀)

theorem State.writeCoreReg_keeps {s₀ s : State} {c : Nat} {n : Nat} {v : BitVec 64} (h₀ : Keeps s₀ s) : Keeps s₀ (State.writeCoreReg s c n v) := by
  unfold State.writeCoreReg
  dsimp only
  repeat' first
    | with_reducible assumption
    | with_reducible exact rfl
    | with_reducible apply State.cleanDcache_keeps
    | with_reducible apply State.dropIcache_keeps
    | with_reducible apply State.putCore_keeps
    | with_reducible apply State.draw_keeps
    | (with_reducible apply State.draw_keeps_eq; with_reducible assumption)
    | with_reducible apply Keeps.ite
    | split
    | (intro s' hs'; try dsimp only)
    | dsimp only

theorem State.cmdFail_keeps {s₀ s : State} {e : Nat} (h₀ : Keeps s₀ s) : Keeps s₀ (State.cmdFail s e) := by
  unfold State.cmdFail
  repeat' first
    | with_reducible assumption
    | with_reducible exact rfl
    | with_reducible apply State.setDbg_keeps
    | with_reducible apply Keeps.ite
    | split
    | (intro s' hs'; try dsimp only)
    | dsimp only

theorem State.abstractReg_keeps {s₀ s : State} {c : Nat} {n : Nat} {write : Bool} {v : BitVec 64} (h₀ : Keeps s₀ s) : Keeps s₀ (State.abstractReg s c n write v) := by
  unfold State.abstractReg
  dsimp only
  repeat' first
    | with_reducible assumption
    | with_reducible exact rfl
    | with_reducible apply State.writeCoreReg_keeps
    | with_reducible apply State.readCoreReg_keeps
    | with_reducible apply State.cmdFail_keeps
    | with_reducible apply State.setDbg_keeps
    | (with_reducible apply State.readCoreReg_keeps_eq; with_reducible assumption)
    | with_reducible apply Keeps.ite
    | split
    | (intro s' hs'; try dsimp only)
    | dsimp only

theorem execAbstractCommand_keeps {s₀ s t : State} {core : Nat} {regno : BitVec 16} {write : Bool} {val : BitVec 64} (e : execAbstractCommand core regno write val s = .next t) (h₀ : Keeps s₀ s) : Keeps s₀ t := by
  obtain rfl := Host.Outcome.next.inj e
  clear e
  repeat' first
    | with_reducible assumption
    | with_reducible exact rfl
    | with_reducible apply State.abstractReg_keeps
    | with_reducible apply Keeps.ite
    | split
    | (intro s' hs'; try dsimp only)
    | dsimp only

theorem State.sbAccess_keeps {s₀ s : State} {addr : BitVec 40} {write : Bool} {val : BitVec 32} (h₀ : Keeps s₀ s) : Keeps s₀ (State.sbAccess s addr write val) := by
  unfold State.sbAccess
  dsimp only
  repeat' first
    | with_reducible assumption
    | with_reducible exact rfl
    | with_reducible apply State.busOne_keeps
    | with_reducible apply State.setDbg_keeps
    | (with_reducible apply State.busOne_keeps_eq; with_reducible assumption)
    | with_reducible apply Keeps.ite
    | split
    | (intro s' hs'; try dsimp only)
    | dsimp only

theorem execSystemBusAccess_keeps {s₀ s t : State} {addr : BitVec 40} {write : Bool} {val : BitVec 32} (e : execSystemBusAccess addr write val s = .next t) (h₀ : Keeps s₀ s) : Keeps s₀ t := by
  obtain rfl := Host.Outcome.next.inj e
  clear e
  repeat' first
    | with_reducible assumption
    | with_reducible exact rfl
    | with_reducible apply State.sbAccess_keeps
    | with_reducible apply Keeps.ite
    | split
    | (intro s' hs'; try dsimp only)
    | dsimp only

theorem execTrigger_keeps {s₀ s t : State} {core : Nat} {kind : TrigKind} {addr : BitVec 64} {val : BitVec 64} (e : execTrigger core kind addr val s = .next t) (h₀ : Keeps s₀ s) : Keeps s₀ t := by
  obtain rfl := Host.Outcome.next.inj e
  clear e
  repeat' first
    | with_reducible assumption
    | with_reducible exact rfl
    | with_reducible apply State.putCore_keeps
    | with_reducible refine Keeps.foldl _ (fun s x hs => ?_) ?_
    | with_reducible refine Keeps.foldl1 _ (fun s x hs => ?_) ?_
    | with_reducible apply Keeps.ite
    | split
    | (intro s' hs'; try dsimp only)
    | dsimp only

theorem State.writeDmcontrol_keeps {s₀ s : State} {v : BitVec 32} (h₀ : Keeps s₀ s) : Keeps s₀ (State.writeDmcontrol s v) := by
  unfold State.writeDmcontrol
  dsimp only
  repeat' first
    | with_reducible assumption
    | with_reducible exact rfl
    | with_reducible apply State.resumeCore_keeps
    | with_reducible apply State.chipReset_keeps
    | with_reducible apply State.hartReset_keeps
    | with_reducible apply State.haltCore_keeps
    | with_reducible apply State.setDbg_keeps
    | exact tableOk_tset _ _
    | with_reducible apply Keeps.ite
    | split
    | (intro s' hs'; try dsimp only)
    | dsimp only

theorem State.sbGo_keeps {s₀ s : State} {write : Bool} {v : BitVec 32} (h₀ : Keeps s₀ s) : Keeps s₀ (State.sbGo s write v) := by
  unfold State.sbGo
  dsimp only
  repeat' first
    | with_reducible assumption
    | with_reducible exact rfl
    | with_reducible apply State.sbAccess_keeps
    | with_reducible apply State.setDbg_keeps
    | exact tableOk_tset _ _
    | with_reducible apply Keeps.ite
    | split
    | (intro s' hs'; try dsimp only)
    | dsimp only

theorem State.runCommand_keeps {s₀ s : State} {v : BitVec 32} (h₀ : Keeps s₀ s) : Keeps s₀ (State.runCommand s v) := by
  unfold State.runCommand
  dsimp only
  repeat' first
    | with_reducible assumption
    | with_reducible exact rfl
    | with_reducible apply State.abstractReg_keeps
    | with_reducible apply State.setDbg_keeps
    | exact tableOk_tset _ _
    | with_reducible apply Keeps.ite
    | split
    | (intro s' hs'; try dsimp only)
    | dsimp only

theorem State.dmWrite_keeps {s₀ s : State} {a : Nat} {v : BitVec 32} (h₀ : Keeps s₀ s) : Keeps s₀ (State.dmWrite s a v) := by
  unfold State.dmWrite
  dsimp only
  repeat' first
    | with_reducible assumption
    | with_reducible exact rfl
    | with_reducible apply State.writeDmcontrol_keeps
    | with_reducible apply State.runCommand_keeps
    | with_reducible apply State.setDbg_keeps
    | with_reducible apply State.sbGo_keeps
    | exact tableOk_tset _ _
    | with_reducible apply Keeps.ite
    | split
    | (intro s' hs'; try dsimp only)
    | dsimp only

theorem State.dmRead_keeps {s₀ s : State} {a : Nat} (h₀ : Keeps s₀ s) : Keeps s₀ (State.dmRead s a).1 := by
  unfold State.dmRead
  dsimp only
  repeat' first
    | with_reducible assumption
    | with_reducible exact rfl
    | with_reducible apply State.sbGo_keeps
    | with_reducible apply Keeps.ite
    | split
    | (intro s' hs'; try dsimp only)
    | dsimp only

theorem State.dmRead_keeps_eq {s₀ s t : State} {y : BitVec 32} {a : Nat}  (e : State.dmRead s a  = (t, y)) (h₀ : Keeps s₀ s) : Keeps s₀ t :=
  Keeps.fst e (State.dmRead_keeps h₀)

theorem execDmi_keeps {s₀ s t : State} {op : BitVec 2} {addr : BitVec 7} {val : BitVec 32} (e : execDmi op addr val s = .next t) (h₀ : Keeps s₀ s) : Keeps s₀ t := by
  obtain rfl := Host.Outcome.next.inj e
  clear e
  repeat' first
    | with_reducible assumption
    | with_reducible exact rfl
    | with_reducible apply State.tapSelect_keeps
    | with_reducible apply State.dmWrite_keeps
    | with_reducible apply State.setDbg_keeps
    | with_reducible apply State.dmRead_keeps
    | (with_reducible apply State.dmRead_keeps_eq; with_reducible assumption)
    | with_reducible apply Keeps.ite
    | split
    | (intro s' hs'; try dsimp only)
    | dsimp only

end Sys2Proof.Machine
end

