-- ==== Sys2Proof/WellFormed.lean ====
section
/-! DEFINITION. WellFormed.lean: the operands a command may carry: numbers of rings, functions, units and registers that the spec
gives, and lengths that fit their line, register or bus. A meaning answers for every operand; an ill-formed command names nothing
and the meanings then change nothing or act as on an absent unit. -/

namespace Sys2Proof

/-- Global number of a ring: 16 functions of 8 rings (04 R67, R74). -/
def ringOk (r : Nat) : Bool := decide (r < 128)
/-- A function (04 R67). -/
def fnOk (f : Nat) : Bool := decide (f < 16)
/-- A vector of a function (04 R84). -/
def vecOk (v : Nat) : Bool := decide (v < 16)
/-- A model of the Separator (09). -/
def modelOk (m : Nat) : Bool := decide (m < 16)
/-- A tile group (09). -/
def tileOk (t : Nat) : Bool := decide (t < 8)
/-- A Vat bank (10 R250). -/
def bankOk (b : Nat) : Bool := decide (b < 64)
/-- A power domain (14 R351). -/
def domOk (d : Nat) : Bool := decide (d < 64)
/-- A class and an instance (05 R101). -/
def unitIdOk (c i : Nat) : Bool := decide (c < 256) && decide (i < 256)
/-- A clock source code (03 R45). -/
def srcOk (k : Nat) : Bool := decide (k < 16)
/-- An endpoint number (07). -/
def epOk (e : Nat) : Bool := decide (e < 256)
/-- A channel of a port or endpoint (06, 07). -/
def chOk (c : Nat) : Bool := decide (c < 64)
/-- A meter (07 R168). -/
def meterOk (m : Nat) : Bool := decide (m < 544)
/-- A core (11 R264). -/
def coreOk (c : Nat) : Bool := decide (c < 4)
/-- A line of the internal address space of 2^40 bytes (01 R13). -/
def lineOk (l : Nat) : Bool := decide (l < 2 ^ 34)
/-- A context of the PLIC (11 R276). -/
def ctxOk (c : Nat) : Bool := decide (c < 8)
/-- A cycle slot of a tick (02 R21). -/
def slotOk (k : Nat) : Bool := decide (k < 20480)
/-- A network port: Net 0 and 1, Herdline 2 and 3 where a row serves both (12, 13). -/
def portOk (p : Nat) : Bool := decide (p < 4)
/-- A POL channel (14 R362). -/
def polOk (c : Nat) : Bool := decide (c < 8)
/-- A WAKE_IN pin (14 R361). -/
def pinOk (p : Nat) : Bool := decide (p < 4)
/-- A bus master code (01). -/
def masterOk (m : Nat) : Bool := decide (m < 16)
/-- A frame as the MAC can deliver it (12 R303, 13 R326). -/
def frameOk (f : List Byte) : Bool := decide (f.length < 65536)
/-- Bytes stored into a line (11 R272). -/
def spanOk (off : Nat) (bs : List Byte) : Bool := decide (0 < bs.length) && decide (off + bs.length ≤ 64)
/-- A place in memory: its line, and an offset in it (11 R271). -/
def LineLoc.ok (l : LineLoc) : Bool := lineOk l.line && decide (l.off < 64)
/-- A requester at the IO-coherent port (11 R274). -/
def IoMaster.ok (p : IoMaster) : Bool := masterOk p.code && fnOk p.func
/-- A rival request for a line (11 R284). -/
def Rival.ok (r : Rival) : Bool := spanOk r.off r.bytes
/-- An audio port exists (06 R122). -/
def PortId.ok (p : PortId) : Bool := match p.cls with
  | .pdmi => decide (p.idx < 8)
  | .pdmo => decide (p.idx < 4)
  | .tdm => decide (p.idx < 4)
/-- A path of a register access (19 R451). -/
def Path.ok : Path → Bool
  | .pf => true
  | .vf f => decide (0 < f) && decide (f < 16)
  | .core c => coreOk c
  | .debug => true
/-- An access reads or writes at least a byte (01 R15). -/
def Access.ok (a : Access) : Bool := if a.write then decide (0 < a.bytes.length) else decide (0 < a.len)
/-- A register's offset in the set-up space: 16 MiB of 32-bit registers (19 R449). -/
def offOk (o : Nat) : Bool := decide (o < 0x1000000) && o % 4 == 0
/-- A register of the configuration space of a function (04 R70). -/
def confOk (o : Nat) : Bool := decide (o < 0x1000) && o % 4 == 0
/-- An error found in a read of a program unit (08 R209). -/
def ChurnErr.ok (e : ChurnErr) : Bool := decide (e.pu < 8) && decide (e.slot < 16384)
/-- What a tick meets (02 R21). -/
def TickEnv.ok (e : TickEnv) : Bool := e.churn.all ChurnErr.ok && e.sep.all fun x => tileOk x.1
/-- What a sweep meets (04 R86). -/
def SweepEnv.ok (e : SweepEnv) : Bool := e.unread.all fnOk && e.dbErr.all fnOk && e.fetchErr.all ringOk
/-- An optional line. -/
def victimOk : Option Nat → Bool
  | none => true
  | some l => lineOk l

/-- The operands of a command are among those the spec gives it. -/
def WellFormed : Instr → Bool
  | .tick env => env.ok
  | .aonTick => true
  | .blockFlip => true
  | .captureBlockWritten ring _ => ringOk ring
  | .stagingFlip => true
  | .sepResultWritten model _ => modelOk model
  | .sepBeat tile _ => tileOk tile
  | .churnNop _ _ => true
  | .inb _ _ _ _ => true
  | .outb _ _ _ _ => true
  | .pbr _ _ _ _ => true
  | .pbw _ _ _ _ => true
  | .ldc _ _ _ _ => true
  | .ldi _ _ _ _ => true
  | .mov _ _ _ _ => true
  | .unpkl _ _ _ _ => true
  | .unpkh _ _ _ _ => true
  | .pack _ _ _ _ _ => true
  | .dwr _ _ _ _ => true
  | .drd _ _ _ _ _ _ => true
  | .drdx _ _ _ _ _ _ _ => true
  | .vrd _ _ _ _ _ _ _ => true
  | .lut _ _ _ _ _ => true
  | .add _ _ _ _ _ => true
  | .sub _ _ _ _ _ => true
  | .neg _ _ _ _ => true
  | .abs _ _ _ _ => true
  | .min _ _ _ _ _ => true
  | .max _ _ _ _ _ => true
  | .mulr _ _ _ _ _ => true
  | .ash _ _ _ _ _ => true
  | .and _ _ _ _ _ => true
  | .or _ _ _ _ _ => true
  | .xor _ _ _ _ _ => true
  | .sel _ _ _ _ _ _ _ => true
  | .cmp _ _ _ _ _ _ => true
  | .cmpi _ _ _ _ _ _ => true
  | .plog _ _ _ _ _ _ => true
  | .mac _ _ _ _ _ => true
  | .msu _ _ _ _ _ => true
  | .macc _ _ _ _ _ => true
  | .mpy _ _ _ _ _ => true
  | .mpyc _ _ _ _ _ => true
  | .accst _ _ _ _ _ _ => true
  | .accld _ _ _ _ => true
  | .accadd _ _ _ _ => true
  | .sweep env => env.ok
  | .fenceRelease ring => ringOk ring
  | .vectorMessage fn vec => fnOk fn && vecOk vec
  | .nop ring => ringOk ring
  | .commit ring _ => ringOk ring
  | .commitCheck => true
  | .commitRecheck => true
  | .commitLoad => true
  | .commitApply => true
  | .quiesceStart => true
  | .quiesceAbort cls inst => unitIdOk cls inst
  | .requestReply cls inst _ => unitIdOk cls inst
  | .diverge cls inst => unitIdOk cls inst
  | .converge cls inst => unitIdOk cls inst
  | .query list => ringOk list.ring
  | .blobLoad ring _ => ringOk ring
  | .audioIn ring => ringOk ring
  | .audioOut ring _ => ringOk ring
  | .netTx ring => ringOk ring
  | .netRxPost ring => ringOk ring
  | .herdTx ring => ringOk ring
  | .herdRxPost ring => ringOk ring
  | .sepStep ring _ => ringOk ring
  | .sepResult ring => ringOk ring
  | .meterSnap ring => ringOk ring
  | .statsSnap ring => ringOk ring
  | .nvWrite ring _ => ringOk ring
  | .nvRead ring => ringOk ring
  | .vatMarch ring => ringOk ring
  | .marchWord _ => true
  | .marchEnd _ => true
  | .sepTile ring => ringOk ring
  | .sepTileEnd tile _ _ => tileOk tile
  | .apllCal ring => ringOk ring
  | .herdCal ring => ringOk ring
  | .churnPeek ring => ringOk ring
  | .churnPeekSnapshot _ => true
  | .sepPeek ring => ringOk ring
  | .sepPeekSnapshot tile => tileOk tile
  | .busAccess accs => accs.all Access.ok
  | .scrubWriteBack bank => bankOk bank
  | .bankPowerUpEnd bank => bankOk bank
  | .domainPowerUpEnd dom _ => domOk dom
  | .refMeasure src _ => srcOk src
  | .clkRefLost src => srcOk src
  | .buildOutCapture _ => true
  | .clkLock => true
  | .apllLockLoss _ => true
  | .revertToPrimary => true
  | .discLost => true
  | .xoFail => true
  | .xoRecover => true
  | .asrcModeSwitch ep => epOk ep
  | .cpllLock => true
  | .cpllFail => true
  | .portFrame port _ => port.ok
  | .settle port _ _ => port.ok
  | .portClkOk port => port.ok
  | .rampUpEnd port => port.ok
  | .rampDownEnd port => port.ok
  | .portClkLost port => port.ok
  | .portFrameErr port => port.ok
  | .pdmStuck port line _ => port.ok && decide (line < 8)
  | .asrcLock ep => epOk ep
  | .asrcUnlock ep => epOk ep
  | .gainZcStep ep ch => epOk ep && chOk ch
  | .zcTimeout ep ch => epOk ep && chOk ch
  | .peakHoldExpiry meter => meterOk meter
  | .readShared core loc _ _ victim => coreOk core && loc.ok && victimOk victim
  | .readUnique core loc bytes _ _ victim rivals => coreOk core && lineOk loc.line && spanOk loc.off bytes && victimOk victim && rivals.all Rival.ok
  | .upgrade core loc bytes _ _ rivals => coreOk core && lineOk loc.line && spanOk loc.off bytes && rivals.all Rival.ok
  | .cleanEvict core line => coreOk core && lineOk line
  | .writeBack core _ => coreOk core
  | .ioRead port line _ => port.ok && lineOk line
  | .ioWrite port line off bytes => port.ok && lineOk line && spanOk off bytes
  | .replay line => lineOk line
  | .machineTimer core slot => coreOk core && slotOk slot
  | .patrolScrub _ => true
  | .mr4Poll _ => true
  | .plicClaim ctx => ctxOk ctx
  | .plicComplete ctx src => ctxOk ctx && decide (src < 1024)
  | .dcacheClean core => coreOk core
  | .icacheInvalidate core => coreOk core
  | .ktickRead core _ slot => coreOk core && slotOk slot
  | .coreParkOff core => coreOk core
  | .l2Flush => true
  | .linkPoll port _ _ _ => portOk port
  | .sgmiiStatus port _ _ _ => portOk port
  | .netDownshift port => portOk port
  | .netRxFrame port frame _ _ => portOk port && frameOk frame
  | .pauseRefresh port => portOk port
  | .pauseExpiry port => portOk port
  | .netTxStart port _ => portOk port
  | .netTxDone port _ => portOk port
  | .txUnderrun port => portOk port
  | .collision port _ => portOk port
  | .backoffExpiry port => portOk port
  | .mdioGo _ => true
  | .mdioDone _ _ => true
  | .netWake port => portOk port
  | .herdRxFrame port frame _ => portOk port && frameOk frame
  | .herdTxStart port _ => portOk port
  | .hello port frame => portOk port && frameOk frame
  | .helloSend port => portOk port
  | .peerExpire port src => portOk port && decide (src < 65536)
  | .herdMode port => portOk port
  | .plcaLoss port => portOk port
  | .phyCalibration port _ _ _ => portOk port
  | .beaconSend port _ => portOk port
  | .beacon port frame => portOk port && frameOk frame
  | .listenWindowOpen port => portOk port
  | .listenWindowClose port => portOk port
  | .awakeWindowEnd port => portOk port
  | .herdWake port => portOk port
  | .data port frame => portOk port && frameOk frame
  | .ack port frame => portOk port && frameOk frame
  | .rcRetransmit port dst _ => portOk port && decide (dst < 65536)
  | .streamPacket port frame => portOk port && frameOk frame
  | .streamSilence ep => epOk ep
  | .wakeIn pin _ => pinOk pin
  | .wakeTick => true
  | .ckeStop => true
  | .ckeRestart => true
  | .pgTimeout ch => polOk ch
  | .polPgDrop ch => polOk ch
  | .polAlert status => status.length == 8
  | .pmbusPoll ch _ _ _ => polOk ch
  | .avsTrim _ => true
  | .voutPoll _ => true
  | .oppVoltageTimeout => true
  | .downlinkFrame _ _ => true
  | .uplinkFrame _ => true
  | .badSlot _ => true
  | .mainsReturn => true
  | .holdupEstimate _ _ _ => true
  | .rsvComparator _ => true
  | .uplinkSelfTimed => true
  | .vccStart _ => true
  | .softStartEnd => true
  | .holdoff => true
  | .holdoffEnd _ => true
  | .zeroCrossing _ _ => true
  | .mainsOkTimeout => true
  | .ocpLimit _ => true
  | .capacitiveMode _ => true
  | .overTemperature _ => true
  | .vccUvlo _ => true
  | .bulkOvp _ => true
  | .bulkUv _ => true
  | .flashOpStart => true
  | .flashOpDone _ => true
  | .flashBusyTimeout => true
  | .holdupLow => true
  | .aonPowerOn => true
  | .aonPowerLoss => true
  | .chipReset => true
  | .chipResetRelease _ => true
  | .resetOutRelease => true
  | .sysBootGo _ _ => true
  | .sysResetCtlChip path _ => path.ok
  | .sysCoreRun path _ => path.ok
  | .buserrValidClear accs => accs.all Access.ok
  | .memErrValidClear path _ => path.ok
  | .sysTickLoRead slot => slotOk slot
  | .sysMtimeLoRead slot => slotOk slot
  | .ringEnable path ring _ => path.ok && ringOk ring
  | .ringDisable path ring _ => path.ok && ringOk ring
  | .fnCtrlReset path fn _ => path.ok && fnOk fn
  | .regWrite path off _ => path.ok && offOk off
  | .flr fn => fnOk fn
  | .perstN => true
  | .dlDown => true
  | .dmaTimeout ring _ => ringOk ring
  | .extest _ _ => true
  | .idcode => true
  | .samplePreload _ _ => true
  | .highz => true
  | .clamp => true
  | .dtmcs => true
  | .dmi _ _ _ => true
  | .bypass => true
  | .halt core => coreOk core
  | .resume core => coreOk core
  | .abstractCommand core _ _ _ => coreOk core
  | .systemBusAccess _ _ _ => true
  | .hartreset core => coreOk core
  | .ndmreset => true
  | .trigger core _ _ _ => coreOk core
  | .supplyCollapse _ => true
  | .perstNRelease => true
  | .dlUp => true
  | .configurationRequest fn off _ _ => fnOk fn && confOk off
  | .plcaBeacon port => portOk port
  | .llcSoftStart _ => true
  | .bulkOvpRelease _ => true
  | .testLogicReset => true

end Sys2Proof
end

