-- ==== Sys2Proof/Tests/Slice0.lean ====
section
/-! SUPPORT. Tests/Slice0.lean: ill-formed commands that WellFormed refuses, Churn words written out from 08 R185 and R187, small steps
with results worked out by hand from the spec, and for each statement with hypotheses a concrete state and operands that meet them. -/

namespace Sys2Proof.Tests

set_option Elab.async false

open Sys2Proof Sys2Proof.Machine Sys2Proof.Said

/-! ### Well-formed and ill-formed commands -/

theorem test_wf_ring : WellFormed (.nop 127) = true ∧ WellFormed (.nop 128) = false := by decide
theorem test_wf_function : WellFormed (.flr 15) = true ∧ WellFormed (.flr 16) = false := by decide
theorem test_wf_vector : WellFormed (.vectorMessage 15 15) = true ∧ WellFormed (.vectorMessage 0 16) = false := by decide
theorem test_wf_model : WellFormed (.sepResultWritten 15 true) = true ∧ WellFormed (.sepResultWritten 16 true) = false := by decide
theorem test_wf_tile : WellFormed (.sepPeekSnapshot 7) = true ∧ WellFormed (.sepPeekSnapshot 8) = false := by decide
theorem test_wf_bank : WellFormed (.bankPowerUpEnd 63) = true ∧ WellFormed (.bankPowerUpEnd 64) = false := by decide
theorem test_wf_domain : WellFormed (.domainPowerUpEnd 63 true) = true ∧ WellFormed (.domainPowerUpEnd 64 true) = false := by decide
theorem test_wf_unit : WellFormed (.diverge 255 255) = true ∧ WellFormed (.diverge 256 0) = false ∧ WellFormed (.converge 0 256) = false := by
  decide
theorem test_wf_source : WellFormed (.clkRefLost 15) = true ∧ WellFormed (.clkRefLost 16) = false := by decide
theorem test_wf_endpoint : WellFormed (.asrcLock 255) = true ∧ WellFormed (.asrcLock 256) = false := by decide
theorem test_wf_channel : WellFormed (.gainZcStep 0 63) = true ∧ WellFormed (.gainZcStep 0 64) = false := by decide
theorem test_wf_meter : WellFormed (.peakHoldExpiry 543) = true ∧ WellFormed (.peakHoldExpiry 544) = false := by decide
theorem test_wf_core : WellFormed (.halt 3) = true ∧ WellFormed (.halt 4) = false := by decide
theorem test_wf_line : WellFormed (.replay (2 ^ 34 - 1)) = true ∧ WellFormed (.replay (2 ^ 34)) = false := by decide
theorem test_wf_context : WellFormed (.plicClaim 7) = true ∧ WellFormed (.plicClaim 8) = false := by decide
theorem test_wf_source_number : WellFormed (.plicComplete 0 1023) = true ∧ WellFormed (.plicComplete 0 1024) = false := by decide
theorem test_wf_slot : WellFormed (.sysTickLoRead 20479) = true ∧ WellFormed (.sysTickLoRead 20480) = false := by decide
theorem test_wf_port : WellFormed (.collision 3 false) = true ∧ WellFormed (.collision 4 false) = false := by decide
theorem test_wf_pol : WellFormed (.pgTimeout 7) = true ∧ WellFormed (.pgTimeout 8) = false := by decide
theorem test_wf_pin : WellFormed (.wakeIn 3 true) = true ∧ WellFormed (.wakeIn 4 true) = false := by decide
theorem test_wf_master : WellFormed (.ioRead ⟨15, 15⟩ 0 .ok) = true ∧ WellFormed (.ioRead ⟨16, 0⟩ 0 .ok) = false ∧ WellFormed (.ioRead ⟨4, 16⟩ 0 .ok) = false := by decide
theorem test_wf_frame : WellFormed (.data 0 [1, 2]) = true ∧ frameOk (List.replicate 65536 0) = false := by
  refine ⟨by decide, ?_⟩
  rw [frameOk, List.length_replicate]
  decide
theorem test_wf_span : WellFormed (.ioWrite ⟨5, 0⟩ 0 60 [1, 2, 3, 4]) = true ∧ WellFormed (.ioWrite ⟨5, 0⟩ 0 61 [1, 2, 3, 4]) = false ∧
    WellFormed (.ioWrite ⟨5, 0⟩ 0 0 []) = false := by decide
theorem test_wf_rival : WellFormed (.upgrade 0 ⟨0, 0⟩ [1] .store .ok [⟨4, 0, 63, [1], .store⟩]) = true ∧
    WellFormed (.upgrade 0 ⟨0, 0⟩ [1] .store .ok [⟨4, 0, 64, [1], .store⟩]) = false := by decide
theorem test_wf_victim : WellFormed (.readShared 0 ⟨0, 63⟩ .load .ok (some (2 ^ 34))) = false ∧
    WellFormed (.readShared 0 ⟨0, 63⟩ .load .ok none) = true ∧ WellFormed (.readShared 0 ⟨0, 64⟩ .load .ok none) = false := by decide
theorem test_wf_audio_port : WellFormed (.rampUpEnd ⟨.pdmi, 7⟩) = true ∧ WellFormed (.rampUpEnd ⟨.pdmi, 8⟩) = false ∧
    WellFormed (.rampUpEnd ⟨.pdmo, 4⟩) = false ∧ WellFormed (.rampUpEnd ⟨.tdm, 4⟩) = false := by decide
theorem test_wf_path : WellFormed (.regWrite (.vf 15) 0 0) = true ∧ WellFormed (.regWrite (.vf 0) 0 0) = false ∧
    WellFormed (.regWrite (.vf 16) 0 0) = false ∧ WellFormed (.regWrite (.core 4) 0 0) = false := by decide
theorem test_wf_offset : WellFormed (.regWrite .pf 0xFFFFFC 0) = true ∧ WellFormed (.regWrite .pf 0x1000000 0) = false ∧
    WellFormed (.regWrite .pf 2 0) = false := by decide
theorem test_wf_config : WellFormed (.configurationRequest 0 0xFFC false 0) = true ∧ WellFormed (.configurationRequest 0 0x1000 false 0) = false ∧
    WellFormed (.configurationRequest 0 6 false 0) = false := by decide
/-- An access of the commit unit at address 0. -/
def one : Access := { master := 5, func := 0, addr := 0, write := false, len := 0, bytes := [], portA := .none, ecc := .ok }

theorem test_wf_access : WellFormed (.busAccess [{ one with len := 1 }]) = true ∧
    WellFormed (.busAccess [one]) = false ∧ WellFormed (.busAccess [{ one with write := true, len := 8 }]) = false := by
  decide
theorem test_wf_tick : WellFormed (.tick {}) = true ∧ WellFormed (.tick { churn := [⟨8, 0, .prog, .ok⟩] }) = false ∧
    WellFormed (.tick { churn := [⟨0, 16384, .prog, .ok⟩] }) = false ∧ WellFormed (.tick { sep := [(8, {})] }) = false := by decide
theorem test_wf_sweep : WellFormed (.sweep {}) = true ∧ WellFormed (.sweep { unread := [16] }) = false ∧
    WellFormed (.sweep { dbErr := [16] }) = false ∧ WellFormed (.sweep { fetchErr := [128] }) = false := by decide
theorem test_wf_alert : WellFormed (.polAlert [0, 0, 0, 0, 0, 0, 0, 0]) = true ∧ WellFormed (.polAlert [0]) = false := by decide
theorem test_wf_numbers : WellFormed (.peerExpire 0 65535) = true ∧ WellFormed (.peerExpire 0 65536) = false ∧
    WellFormed (.rcRetransmit 0 65536 0) = false := by decide

/-! ### The table has no words; Churn words (08 R185, R187) -/

theorem test_table_word (s : State) : decodeTableWord 64 0 = none ∧ s.withFetchWord 64 0 = s := ⟨rfl, rfl⟩

/-- Worked case of 08 R187: OP 0x32, PINV 1, PSEL 3, D 1, A 7, X 0x64. -/
theorem test_word_macc : decodeChurn 2 0x32B0470000000064 .ok = some (.macc 2 ⟨true, 3⟩ 1 7 100) := by decide
/-- OP 0x20, D 3 at bit 46, A 1 at bit 40, B 2 at bit 34. -/
theorem test_word_add : decodeChurn 0 (0x20 * 2 ^ 56 + 3 * 2 ^ 46 + 1 * 2 ^ 40 + 2 * 2 ^ 34) .ok = some (.add 0 ⟨false, 0⟩ 3 1 2) := by decide
/-- OP 0x06 with X = 0x80000000. -/
theorem test_word_ldi : decodeChurn 0 (0x06 * 2 ^ 56 + 63 * 2 ^ 46 + 0x80000000) .ok = some (.ldi 0 ⟨false, 0⟩ 63 0x80000000) := by decide
/-- OP 0x11: the line in X[5:0], the delay in X[26:6]. -/
theorem test_word_drd : decodeChurn 0 (0x11 * 2 ^ 56 + 1 * 2 ^ 46 + 100 * 2 ^ 6 + 5) .ok = some (.drd 0 ⟨false, 0⟩ 1 5 100 .ok) := by decide
/-- OP 0x35: the accumulator in A, the shift in X[4:0], Z in X[5]. -/
theorem test_word_accst : decodeChurn 0 (0x35 * 2 ^ 56 + 9 * 2 ^ 46 + 3 * 2 ^ 40 + 32 + 31) .ok = some (.accst 0 ⟨false, 0⟩ 9 3 true 31) := by
  decide
/-- OP 0x2C: the predicate in D[2:0], the condition in X[2:0]. -/
theorem test_word_cmp : decodeChurn 0 (0x2C * 2 ^ 56 + 5 * 2 ^ 46 + 1 * 2 ^ 40 + 2 * 2 ^ 34 + 6) .ok = some (.cmp 0 ⟨false, 0⟩ 5 1 2 6) := by
  decide
/-- An opcode that the table leaves out. -/
theorem test_word_reserved : decodeChurn 0 (0x0B * 2 ^ 56) .ok = none ∧ decodeChurn 0 (0xFF * 2 ^ 56) .ok = none := by decide

/-! ### Numbers of the spec -/

/-- 15 R373: the nine bytes "123456789" give 0xF4. -/
theorem test_crc8 : crc8 [0x31, 0x32, 0x33, 0x34, 0x35, 0x36, 0x37, 0x38, 0x39] = 0xF4 := by decide +kernel

/-- 15, Worked case: PERIOD 8,000, RUN, CTRL, SEQ 9, PIDX 1, PVAL 780: CRC 0xBA. -/
theorem test_frame : sealed (5 + 2 ^ 4 * 9 + 2 ^ 8 + 2 ^ 9 + 2 ^ 12 * 8000 + 2 ^ 28 * 1 + 2 ^ 32 * 780) = 0xBA00030C11F40395 := by decide +kernel

/-- 09, Worked case of R218: V = 48,000, S = 200, f = 10 gives 48,031. -/
theorem test_lut : lutAt (fun _ => 48000 + 65536 * 200) (577 * 64 + 10 - 32768) = 48031 := by decide +kernel

/-- 09, Worked case of R217: h = 32,500 and v = 1,016. -/
theorem test_channel :
    LayerEnv.channel ⟨{ stW := 1, outW := 1, shH := 4 }, fun _ _ => 0, fun i => if i = 0 then 10000 else 0, fun _ => 49152, fun _ => 32768⟩ [] 0 40000
      = (32500, 1016, 0) := by decide +kernel

/-- 17 R436: SYS_ID reads 0x00B07160. -/
theorem test_sys_id : State.reset.regRead 0 = 0x00B07160 := by decide +kernel

/-- 19, Worked case of R452: RNG_CFG of ring 26 is page offset 0x128 of function 3. -/
theorem test_ring26 : pageOffset (.vf 3) (26 / 8) (0x108 + 0x10 * (26 % 8)) = some 0x128 ∧
    pageOffset .pf (26 / 8) (0x108 + 0x10 * (26 % 8)) = some 0x130128 := by decide

/-! ### States for the witnesses -/

/-- Ticks pass, and every domain is on; standalone mode. -/
def alone : State :=
  { State.reset with time := { started := true, ckeOff := false }, pwr := { dom := (List.range 64).map fun d => (d, .on) }, boot := { inReset := false, mode := 2 } }
/-- The same in host mode with the link up and VF 1 to 4, whose vectors are unmasked. -/
def hosted : State :=
  (alone.setBoot { alone.boot with mode := 0 }).setPcie { linkUp := true, perst := false, vfEnable := true, numVfs := 4 }
/-- Settings by identifier. -/
def withCfg (s : State) (l : Map Word) : State := s.setCmt { s.cmt with cfg := l }
/-- A request of an opcode with an argument, on ring 0. -/
def req (op : BitVec 8) (arg : BitVec 32 := 0) (arg2 : BitVec 64 := 0) : Req := { id := 1, desc := { opcode := op, arg := arg, arg2 := arg2, addr := 0x1000 }, live := true }
/-- A submission ring 0 with a request and its completion ring 1, both on. -/
def asks (s : State) (q : Req) : State :=
  s.setHost { s.host with rings := [(0, { cfg := 0x50, on := true, reqs := [q] }), (1, { cfg := 0x12, on := true })],
                          wins := [(0, { base := 0, limit := 0xFFFFFFFF, valid := true, read := true, write := true })] }
/-- A domain in another state. -/
def dom' (s : State) (d : Nat) (v : DomState) : State := s.setPwr { s.pwr with dom := tset .off s.pwr.dom d v }

/-- The rings of `asks` are live, and the second is a completion ring. -/
theorem witness_asks : ((asks alone (req 1)).ring 0).live = true ∧ ((asks alone (req 1)).ring 1).live = true ∧
    ((asks alone (req 1)).ring 1).isCq = true ∧ ((asks alone (req 1)).ring 0).oldest 1 = some (req 1) := by decide +kernel

/-- A DMA of host memory by function 0, in host mode. -/
theorem witness_MayRead : MayRead (asks hosted (req 1)) 0 0x1000 4 ∧ MayWrite (asks hosted (req 1)) 0 0x1000 4 := by
  unfold MayRead MayWrite
  decide +kernel

/-! ### Witnesses: a state and operands that meet the hypotheses of each statement, clause by clause -/

theorem witness_StepRunsFront : State.reset.pending = [] := by decide +kernel

theorem witness_StepKeepsMemoryCanonical : Canonical (alone.setMem [(5, 1), (9, 2)]) ∧ step (alone.setMem [(5, 1)]) = .next (alone.setMem [(5, 1)]) := by
  refine ⟨⟨?_, ?_⟩, rfl⟩ <;> decide +kernel

theorem witness_TickMovesOnlyWithTime : movesTick .xoFail = false ∧ ∃ t, exec .xoFail alone = .next t := ⟨rfl, _, rfl⟩

theorem witness_TickAdvances : (alone.time.started = true ∧ alone.time.ckeOff = false) ∧
    ((alone.setTime { alone.time with ckeOff := true }).time.started = true ∧ (alone.setTime { alone.time with ckeOff := true }).time.ckeOff = true) ∧
    State.reset.time.started = false ∧ (State.reset.aonReset false).boot.aonOn = false := by decide +kernel

/-- For ChurnMoves, ChurnArithmetic, ChurnPredicates, ChurnAccumulators, ChurnBuses and ChurnPredicateGates: a PU in its first and in its last
slot, with P[PSEL] XOR PINV = 1 and 0. -/
theorem witness_Churn : Ready alone 0 ∧ Ready (alone.putPu 7 { slot := 16383 }) 7 ∧ Executes alone 0 ⟨false, 0⟩ ∧ Executes alone 0 ⟨true, 3⟩ ∧
    ¬ Executes alone 0 ⟨true, 0⟩ ∧ ¬ Executes alone 0 ⟨false, 7⟩ ∧ (0 ≤ (31 : BitVec 6).toInt ∧ (32 : BitVec 6).toInt < 0) := by
  unfold Ready Executes
  decide +kernel

/-- An accumulator written at both ends of its range, with an earlier write. -/
theorem witness_AccumulatorLatency : (-(2 ^ 79 : Int) ≤ 2 ^ 79 - 1 ∧ (2 ^ 79 - 1 : Int) < 2 ^ 79) ∧ (-(2 ^ 79 : Int) ≤ -(2 ^ 79) ∧ (-(2 ^ 79) : Int) < 2 ^ 79) ∧
    ((({} : PuSt).accWrite 0 5).accOf 0).recent.Pairwise (fun x y => x.1 ≤ y.1) ∧ ((({} : PuSt).accWrite 0 5).accOf 0).recent.length = 1 := by
  decide +kernel

/-- A PU with one delay line of 4 words in bank 2, a table, a lookup table; its line is filled with `fill` words. -/
def lined (fill : Nat) : State :=
  alone.putPu 0 { lines := [⟨2, 0, 4⟩], lineSt := [(0, { wp := 1, fill := fill })], vtabs := [⟨2, 8, 4⟩], tables := [{ base := 0, log2n := 12 }, { base := 0, log2n := 1, interp := true, signed := true }] }

/-- DRD with a delay of 3, 0 and 1 and DRDX with an offset of 3 and 4; FILL one too few and just enough. -/
theorem witness_DelayLines : Ready (lined 0) 0 ∧ Executes (lined 0) 0 {} ∧ (now (lined 0) 0).line 0 = some ⟨2, 0, 4⟩ ∧
    2 * 65536 + 0 + 4 ≤ 64 * 65536 ∧ ((now (lined 0) 0).lineState 0).wp < 4 ∧
    (∀ q, q < 4 → (lined 0).bankOn (vatBankOf (0x40000000 + 2 * 0x40000 + (0 + q) * 4)) = true) ∧
    (let age (fill d : Nat) : Nat := if d = 0 ∧ ((now (lined fill) 0).lineState 0).wrote = false then 4 else d
     ((now (lined 2) 0).lineState 0).fill < age 2 3 ∧ age 3 3 ≤ ((now (lined 3) 0).lineState 0).fill ∧
     ((now (lined 3) 0).lineState 0).fill < age 3 0 ∧ age 4 0 ≤ ((now (lined 4) 0).lineState 0).fill) ∧
    (let x := ((now (lined 2) 0).dreg 0).toNat + (4 : BitVec 21).toNat
     4 ≤ x ∧ min x (4 - 1) = 3 ∧ ((now (lined 2) 0).dreg 0).toNat + (3 : BitVec 21).toNat < 4) := by
  unfold Ready Executes
  decide +kernel

theorem witness_IndexedReads : Ready (lined 0) 0 ∧ Executes (lined 0) 0 {} ∧ (now (lined 0) 0).vtabs[0]? = some ⟨2, 8, 4⟩ ∧ 2 * 65536 + 8 + 4 ≤ 64 * 65536 ∧
    (∀ x, x = 3 ∨ x = 4 → (lined 0).bankOn (vatBankOf (0x40000000 + 2 * 0x40000 + (8 + min x (4 - 1)) * 4)) = true) ∧
    (now (lined 0) 0).tables[0]? = some { base := 0, log2n := 12 } ∧ (now (lined 0) 0).tables[1]? = some { base := 0, log2n := 1, interp := true, signed := true } := by
  unfold Ready Executes
  refine ⟨by decide +kernel, by decide +kernel, by decide +kernel, by decide, ?_, by decide +kernel, by decide +kernel⟩
  rintro x (rfl | rfl) <;> decide +kernel

theorem witness_VatPowerUpAndWriteBack :
    (let s := alone.putBank 63 { pwr := .poweringUp, fromOff := true }
     (s.bank 63).pwr = .poweringUp ∧ (s.bank 63).fromOff = true ∧ s.lockOf 0x40FFFFFF = none) ∧
    (let s := alone.putBank 0 { pwr := .poweringUp, toRet := true, fromOff := false, undef := true }
     (s.bank 0).pwr = .poweringUp ∧ (s.bank 0).undef = true ∧ s.lockOf 0x40000000 = none) ∧
    (let s := alone.putBank 0 { pwr := .poweringUp, fromOff := false }
     (s.bank 0).pwr = .poweringUp ∧ (s.bank 0).fromOff = false ∧ (s.bank 0).undef = false) ∧
    (let s := alone.putBank 5 { scrub := [(32767, 9)] }
     s.bankOn 5 = true ∧ s.time.ckeOff = false ∧ (s.bank 5).scrub = (32767, 9) :: []) := by decide +kernel

/-- A TEST of bank 3 begins: preserving and destructive, with none and one running, the bank on, off and claimed. -/
theorem witness_VatMarchRuns_start :
    (let q := req 0x60 0x00010301
     let s := asks alone q
     (s.ring 0).oldestTest 1 = some q ∧ s.vat.march.busy = false ∧ s.bankOn q.desc.unit = true ∧ s.time.ckeOff = false ∧ q.desc.mode ≠ 0) ∧
    (let q := req 0x60 0x00000301
     let s := asks alone q
     (s.ring 0).oldestTest 1 = some q ∧ q.desc.mode = 0 ∧ s.bankClaimed q.desc.unit = false ∧ s.bankInStore q.desc.unit = false ∧
     (s.setCmt { s.cmt with storeBase := 0x400C0000, storePages := 1 }).bankInStore q.desc.unit = true ∧
     (s.putMarch { busy := true }).vat.march.busy ≠ false ∧ ((s.putMarch { busy := true }).ring 0).oldestTest 1 = some q ∧
     (s.putBank 3 { pwr := .off }).bankOn q.desc.unit = false) := by decide +kernel

/-- Words of a test: the first and the last of a preserving one, the ends of an element upwards and downwards, the last word cleared; its end. -/
theorem witness_VatMarchRuns_words :
    (let m (begun : Bool) : MarchSt := { busy := true, bank := 63, pres := true, begun := begun, word := 32766, lock := if begun then some (32766, 5) else none }
     ∀ begun, let s := alone.putMarch (m begun)
       s.vat.march.busy = true ∧ s.vat.march.ended = false ∧ s.vat.march.bank < 64 ∧ s.time.ckeOff = false ∧ s.vat.march.pres = true ∧
       (s.vat.march.begun = true → s.vat.march.word < 32767) ∧ s.vat.march.lock = (if begun then some (s.vat.march.word, 5) else none)) ∧
    (∀ e ∈ [2, 3, 11], let s := alone.putMarch { busy := true, bank := 63, elem := e, word := 32767 }
       s.vat.march.busy = true ∧ s.vat.march.ended = false ∧ s.vat.march.bank < 64 ∧ s.time.ckeOff = false ∧ s.vat.march.pres = false ∧
       s.vat.march.word < 32768 ∧ s.vat.march.elem ≤ 11 ∧ s.vat.march.lock = none) ∧
    (let s := alone.putMarch { busy := true, bank := 63, ended := true, pres := true, lock := some (32767, 1) }
     s.vat.march.busy = true ∧ s.vat.march.bank < 64 ∧ s.vat.march.ended = true ∧ s.vat.march.lock = some (32767, 1)) := by decide +kernel

/-- A state with sources 2 to 7 as given. -/
def withSrc (k : Nat) (v : SrcSt) : State := alone.setClk { alone.clk with xoOk := true, srcs := [(k, v)] }
/-- The APLL in a state. -/
def apll (st : ApllState) (k : Nat) : State := alone.setClk { alone.clk with xoOk := true, state := st, src := some k, srcs := [(2, { lost := false, qual := true, qualFor := 1024 })] }

theorem witness_ReferenceQualification :
    ((withSrc 2 {}).clk.xoOk = true ∧ (withSrc 2 {}).domOn 19 = true ∧ (withSrc 2 {}).clk.bootCfg.toNat % 4 ≠ 3) ∧ ((withSrc 7 {}).src 7).good = 0 ∧
    (let s := withCfg (apll .locked 2) [(sid 2 0 0, 2)]
     (s.src 2).qual = true ∧ s.selected 2 = true ∧ (s.src 2).lost = false ∧ s.clk.src = some 2 ∧ s.clk.state = .locked ∧ s.domOn 19 = true ∧
     s.clk.xoOk = true ∧ s.selected 7 = false) ∧ ¬ (((withSrc 7 {}).src 2).qual = true ∧ (withSrc 7 {}).selected 2 = true) := by decide +kernel

theorem witness_ApllLocking :
    (let s := (apll .acquire 2).setClk { (apll .acquire 2).clk with slewing := true, offset48 := 24000 }
     s.clk.slewing = true ∧ s.clk.src = some 2 ∧ -24000 ≤ s.apllTarget - s.clk.offset48 ∧ s.apllTarget - s.clk.offset48 ≤ 24000) ∧
    (let s := (apll .acquire 2).setClk { (apll .acquire 2).clk with lockFor := 1536 }
     s.domOn 19 = true ∧ s.clk.src = some 2 ∧ s.clk.state = .acquire ∧ s.clk.slewing = false ∧
     -460800000 ≤ s.clk.phErr ∧ s.clk.phErr ≤ 460800000 ∧ s.clk.lockFor = 1536) ∧
    ((apll .free 0).domOn 19 = true ∧ (apll .free 0).clk.state = .free ∧ (apll .free 0).clk.offset48 = (apll .free 0).apllTarget) ∧
    ((apll .locked 7).clk.state = .locked ∧ (apll .locked 7).clk.src = some 7) ∧
    (let s := withCfg ((apll .locked 1).setClk { (apll .locked 1).clk with failedOver := true }) [(sid 2 0 0, 2), (sid 2 0 1, 1), (sid 2 0 2, 1)]
     s.clk.failedOver = true ∧ s.cfg 2 0 2 = 1 ∧ s.clk.src = some s.refSec ∧ s.usable1 s.refPri = true ∧ 1024 ≤ (s.src s.refPri).qualFor) ∧
    (let s := withCfg ((apll .locked 1).setClk { (apll .locked 1).clk with discCount := 48 }) [(sid 2 0 5, 1), (sid 2 0 0, 1)]
     s.clk.src = some 1 ∧ s.cfg 2 0 5 ≠ 0 ∧ 48 * s.cfg 2 0 5 ≤ s.clk.discCount ∧ s.clk.discLost = false ∧ s.selected 1 = true ∧
     (withCfg s [(sid 2 0 5, 1), (sid 2 0 0, 2)]).selected 1 = false) := by decide +kernel

theorem loopStep_zero : loopStep 0 = 0 := by
  unfold loopStep clampI
  omega

/-- The offset of that reference is within 0.5 ppm of its target, there being no phase error to take out. -/
theorem witness_ApllLocking_near (c : ClkSt) (h1 : c.src = some 2) (h2 : c.phErr = 0) (h3 : c.offset48 = 24000) (h4 : c.srcs = []) :
    -24000 ≤ (alone.setClk c).apllTarget - (alone.setClk c).clk.offset48 ∧ (alone.setClk c).apllTarget - (alone.setClk c).clk.offset48 ≤ 24000 := by
  have pull : (alone.setClk c).alignPull = 0 := by
    simp only [State.alignPull, State.setClk, h1]
    simp
  have base : (alone.setClk c).apllBase = 0 := by
    simp only [State.apllBase, State.setClk, h1, h2, loopStep_zero, State.src, h4]
    simp [alone, tget, clamp500, clampI]
  have target : (alone.setClk c).apllTarget = 0 := by
    simp only [State.apllTarget, pull, base]
    simp [clamp500, clampI]
  rw [target, show (alone.setClk c).clk.offset48 = 24000 from h3]
  decide

theorem witness_OscillatorAndCoreClock : ((apll .locked 2).clk.xoOk = true ∧ (apll .locked 2).clk.state ≠ .stopped ∧ (apll .locked 2).clk.state ≠ .holdover) ∧
    ((apll .holdover 0).clk.xoOk = true ∧ (apll .holdover 0).clk.state = .holdover) ∧
    (let s := State.reset.setClk { State.reset.clk with pllOnCke := true, cpllLock := true }
     s.clk.xoOk = false ∧ s.clk.pllOnCke = true ∧ s.clk.cpllLock = true) ∧ State.reset.clk.pllOnCke = false ∧
    (let s := alone.setClk { alone.clk with oppTarget := some 3 }
     s.clk.oppTarget = some 3 ∧ s.clk.oppNext = none) := by decide +kernel

/-- A port of class `c` and number `p` in a state, its clock from outside; TDM slots of 2 words of 24 bits, both enabled. -/
def porting (c p : Nat) (r : PortSt) (l : List (Nat × Nat) := []) : State :=
  withCfg (alone.putPort c p r) ([(sid c p 0, (1 : Word)), (sid c p 3, if c = 0x12 then 1 else 0), (sid 0x12 p 6, 2), (sid 0x12 p 8, 1), (sid 0x12 p 9, 3),
    (sid 0x12 p 0xA, 1), (sid 0x10 p 2, 1)] ++ l.map fun e => (sid c p e.1, BitVec.ofNat 32 e.2))

/-- The period, the high time, the rate over 256 periods and the count at and beyond what counts: 152 cy, 10,240 and 122,880 cy at 32 periods a frame. -/
theorem witness_PortClockQualification :
    (let s := porting 0x10 7 { st := .waitClk, periods := 255, window := List.replicate 255 320 }
     let w := ((320 : Nat) :: (s.port 0x10 7).window).take 256
     s.portOk ⟨.pdmi, 7⟩ = true ∧ s.portSlave 0x10 7 = true ∧ (s.port 0x10 7).st = .waitClk ∧ w.length = 256 ∧
     10240 * 256 ≤ sumOf id w * nth 64 [32, 40, 64, 80, 128] (s.cfg 0x10 7 3) ∧ sumOf id w * nth 64 [32, 40, 64, 80, 128] (s.cfg 0x10 7 3) ≤ 122880 * 256 ∧
     255 ≤ (s.port 0x10 7).periods) ∧
    (let s := porting 0x12 3 { st := .waitClk, periods := 254, frames := 16 }
     s.portOk ⟨.tdm, 3⟩ = true ∧ s.portSlave 0x12 3 = true ∧ (s.port 0x12 3).st = .waitClk ∧ ¬ 255 ≤ (s.port 0x12 3).periods) ∧
    ¬ (152 ≤ 151 ∧ 151 ≤ 1966 ∧ 60 ≤ 75 ∧ 75 + 60 ≤ 151) ∧ (152 ≤ 152 ∧ 152 ≤ 1966 ∧ 60 ≤ 60 ∧ 60 + 60 ≤ 152) ∧
    (39 ≤ 39 ∧ 39 ≤ 3900 ∧ 16 ≤ 23 ∧ 23 + 16 ≤ 39) := by decide +kernel

theorem witness_PortStates :
    (∀ n ∈ [2, 3], let s := porting 0x12 3 { st := .run, errRun := n }
     s.portOk ⟨.tdm, 3⟩ = true ∧ s.portSlave 0x12 3 = true ∧ (s.port 0x12 3).st = .run ∧ (s.port 0x12 3).errRun = n) ∧
    (let s := porting 0x11 0 { st := .settle }
     s.portOk ⟨.pdmo, 0⟩ = true ∧ (s.port 0x11 0).st = .settle ∧ s.portSlave 0x11 0 = false ∧ s.startup 0x11 0 = 0 ∧
     ∀ e ∈ s.liveEps 0x11 0, (s.conv e).st = .track ∨ (s.conv e).st = .sync) ∧
    (let s := porting 0x10 0 { st := .rampUp, g := 31, stuckDue := [15] }
     s.portOk ⟨.pdmi, 0⟩ = true ∧ (s.port 0x10 0).st = .rampUp ∧ (s.port 0x10 0).g = 31 ∧ pdmChannel 7 true ∈ (s.port 0x10 0).stuckDue) ∧
    (∀ n ∈ [255, 256], let s := porting 0x10 0 { st := .rampDown, g := 1, periods := n }
     s.portOk ⟨.pdmi, 0⟩ = true ∧ s.portSlave 0x10 0 = true ∧ (s.port 0x10 0).st = .rampDown ∧ (s.port 0x10 0).g = 1 ∧ (s.port 0x10 0).periods = n) := by
  decide +kernel

/-- TDM port 1 in RUN with its input endpoint 9 or its output endpoint 0x11 in SYNC. -/
def framing (e : Nat) (r : ConvSt) : State :=
  (porting 0x12 1 { st := .run } [(if e = 9 then 1 else 2, 1)]).putConv e { r with st := .sync }
/-- A frame of two slots of 32 BCLK in the default format, I2S: FS low in the first half. -/
def aFrame : PinFrame := { rise := [0x5555], fall := [0], fsRise := 2 ^ 64 - 2 ^ 32, fsFall := 2 ^ 64 - 2 ^ 32, len := 64, cy := 20480 }

theorem witness_PortFrameReceived :
    (let s := framing 9 {}
     s.portOk ⟨.tdm, 1⟩ = true ∧ s.portSlave 0x12 1 = true ∧ (s.port 0x12 1).st = .run ∧ s.framed 1 aFrame = true ∧ s.liveEps 0x12 1 = [9] ∧
     (s.conv 9).st = .sync ∧ isInEp 9 = true ∧ (s.port 0x12 1).rxFifo = []) ∧
    (let s := framing 0x11 { primed := true, fifo := [[1], [2]] }
     s.portOk ⟨.tdm, 1⟩ = true ∧ s.framed 1 aFrame = true ∧ s.liveEps 0x12 1 = [0x11] ∧ (s.conv 0x11).st = .sync ∧ isInEp 0x11 = false ∧
     (s.conv 0x11).primed = true ∧ (s.conv 0x11).fifo = [1] :: [[2]] ∧ (s.port 0x12 1).txFifo = []) := by decide +kernel

theorem witness_Converters :
    (let s := (alone.setTime { alone.time with tick := 144 }).putConv 0x13 { st := .acquire, marks := [3413334, 3413333, 3413333] }
     isConvEp 0x13 = true ∧ (s.conv 0x13).st = .acquire ∧ (s.conv 0x13).since.toNat + 144 ≤ s.time.tick.toNat ∧
     (s.conv 0x13).marks = 3413334 :: 3413333 :: 3413333 :: [] ∧ ((3413334 : Int) - 3413333).natAbs * 500000 < 3413333) ∧
    (let s := (alone.setTime { alone.time with tick := 960 }).putConv 0x2F { st := .acquire, factor := 16777216 }
     isConvEp 0x2F = true ∧ (s.conv 0x2F).st = .acquire ∧ (s.conv 0x2F).since.toNat + 960 ≤ s.time.tick.toNat ∧ s.convValid 0x2F = true) ∧
    (let s := alone.putConv 0 { st := .track, primed := true, factor := 16777216 }
     isConvEp 0 = true ∧ (s.conv 0).st = .track ∧ (s.conv 0).primed = true ∧ s.fillU 0 < 2 * s.ratio 0) ∧
    (let s := alone.putConv 0 { st := .track, primed := true, factor := 16777216, fifo := List.replicate 8 [] }
     6 * s.ratio 0 < s.fillU 0) ∧
    (let s := (alone.setTime { alone.time with phase := 4 }).putConv 0x13 { st := .track }
     isConvEp 0x13 = true ∧ s.ticking = true ∧ s.time.phase < 5 ∧ s.portLocked (portOfEp 0x13).1 (portOfEp 0x13).2 = true ∧ (s.conv 0x13).st = .track) ∧
    (let s := (porting 0x12 3 {}).putConv 0x13 { st := .sync }
     s.ticking = true ∧ s.portLocked (portOfEp 0x13).1 (portOfEp 0x13).2 = false ∧ (s.conv 0x13).st = .sync) := by decide +kernel

/-- The last channel of a TDM port's input with a step pending from tick 0, with LINK or not, another channel having crossed or not. -/
def gaining (tick : Nat) (link : Word) (other : Bool) : State :=
  withCfg (((alone.setTime { alone.time with tick := BitVec.ofNat 64 tick }).putGain (64 * 0x0B + 15) { zc := true }).putGain (64 * 0x0B) { zc := true, crossed := other })
    [(sid 0x16 0x0B 0xFF01, link), (sid 0x16 0x0B (15 * 256 + 4), 480)]

theorem witness_Gains : unitOk 0x16 0x0B = true ∧ 15 < fixedCh 0x0B ∧
    (let s := gaining 479 0 false
     (s.gainOf (64 * 0x0B + 15)).zc = true ∧ (s.gainOf (64 * 0x0B + 15)).start.toNat ≤ s.time.tick.toNat ∧ s.cfg 0x16 0x0B 0xFF01 = 0 ∧
     ¬ (s.gainOf (64 * 0x0B + 15)).start.toNat + s.cfg 0x16 0x0B (15 * 256 + 4) ≤ s.time.tick.toNat) ∧
    (let s := gaining 480 1 true
     (s.gainOf (64 * 0x0B + 15)).zc = true ∧ s.cfg 0x16 0x0B 0xFF01 = 1 ∧
     (s.gainOf (64 * 0x0B + 15)).start.toNat + s.cfg 0x16 0x0B (15 * 256 + 4) ≤ s.time.tick.toNat) := by decide +kernel

theorem witness_Gains_others :
    (∀ k, k < 16 → k ≠ 15 → ((gaining 479 1 true).gainOf (64 * 0x0B + k)).zc = true → ((gaining 479 1 true).gainOf (64 * 0x0B + k)).crossed = true) ∧
    (((gaining 479 1 false).gainOf (64 * 0x0B)).zc = true ∧ ((gaining 479 1 false).gainOf (64 * 0x0B)).crossed = false) := by decide +kernel

theorem witness_Meters : let s := alone.putMeter 511 { hold := true }
    (s.meter 511).hold = true ∧ (s.meter 511).holdEnd.toNat ≤ s.time.tick.toNat := by decide +kernel

/-! Rings and commits. -/

/-- What holds of the value for an unlisted key and of every listed one holds of every key. -/
theorem tget_of {α : Type} (P : α → Prop) (d : α) (hd : P d) : ∀ (l : Map α), (∀ e ∈ l, P e.2) → ∀ k, P (tget d l k)
  | [], _, _ => hd
  | e :: r, h, k => by
    unfold tget
    split
    · exact h e (List.mem_cons_self ..)
    · exact tget_of P d hd r (fun x hx => h x (List.mem_cons_of_mem _ hx)) k

/-- The completion ring in its last slot; a head within what was written and one beyond it. -/
theorem witness_CompletionsAndIndexes :
    (let q := req 1
     let s0 := asks hosted q
     let s := s0.putRing 1 { s0.ring 1 with idx := 15 }
     let r := s.ring (s.cqOf 0)
     (s.ring 0).reqs = [q] ∧ q.ended = none ∧ bit q.desc.flags.toNat 0 = false ∧ s.standalone = false ∧ s.pcieUp = true ∧ s.cqOf 0 ≠ 0 ∧
     r.live = true ∧ r.isCq = true ∧ r.irqEn = false ∧ s.inWindow (s.cqOf 0 / 8) (r.start + 16 * r.idx) 16 true = true ∧ (r.idx + 1) % r.size = 0) ∧
    (let s := (asks alone (req 1)).putRing 1 { (asks alone (req 1)).ring 1 with idx := 2 }
     (s.ring 1).live = true ∧ (s.ring 1).isCq = true ∧ (s.ring 1).size ≤ 16 ∧ 15 < (s.ring 1).size ∧
     (2 + (s.ring 1).size - (s.ring 1).head) % (s.ring 1).size ≤ (s.ring 1).used ∧
     (s.ring 1).used < (3 + (s.ring 1).size - (s.ring 1).head) % (s.ring 1).size ∧ s.fetchCount 0 1 = 1 ∧ (s.ring 0).role = 0) := by decide +kernel

/-- Function 0 with its record at 0x2000: the tail of ring 0 is 3. -/
def swept : State :=
  let s := (asks hosted (req 1)).setHostMem [(0x2000, 3)]
  s.setHost { s.host with fns := [(0, { enable := true, db := 0x2000 })] }

theorem witness_Sweep : swept.sweepDue = true ∧ (∀ k, k < 16 → ((swept.fnOf k).enable = true ↔ k = 0)) ∧ swept.fnExists 0 = true ∧ (swept.fnOf 0).lost = 0 ∧
    (∀ k, k < 8 → ((swept.ring (8 * 0 + k)).live = true ↔ k = 0 ∨ k = 1)) ∧ (swept.ring 0).isCq = false ∧ (swept.ring 1).isCq = true ∧
    (swept.ring 0).cq = 1 ∧ (swept.ring 0).role = 0 ∧ MayRead swept 0 0x2000 64 ∧ leNat (sub (swept.dmaBytes 0x2000 64) 0 2) = 3 ∧
    3 < (swept.ring 0).size ∧ leNat (sub (swept.dmaBytes 0x2000 64) 4 2) = 0 ∧ (0 + (swept.ring 1).size - (swept.ring 1).head) % (swept.ring 1).size ≤ (swept.ring 1).used ∧
    swept.cqOf 0 ≠ 0 ∧ MayRead swept 0 ((swept.ring 0).start + 32 * (swept.ring 0).idx) (32 * 2) := by
  unfold MayRead
  decide +kernel

theorem witness_Sweep_rings : ∀ g, (swept.ring g).want = false :=
  tget_of (fun r => r.want = false) {} rfl swept.host.rings (by decide +kernel)

theorem witness_Fences : (∀ f, f < 16 → f ∈ ({ unread := List.range 16 } : SweepEnv).unread) ∧
    (let q := { req 0x20 with live := false }
     let s := asks alone q
     (s.ring 0).reqs = [q] ∧ q.live = false ∧ q.ended = none ∧ target (0 / 8) q.desc = some (0x40, 0) ∧ s.offline 0x40 0 = false ∧ q.desc.opcode ≠ 2 ∧
     q.desc.opcode ≠ 0x30) ∧
    (let q := { req 1 with live := false }
     ((asks alone q).ring 0).reqs = [q] ∧ target (0 / 8) q.desc = none) ∧
    (let p := req 2
     let q : Req := { id := 2, desc := { opcode := 2, flags := 2 }, live := false }
     let s := alone.setHost { alone.host with rings := [(0, { cfg := 0x50, on := true, reqs := [p, q] })] }
     (s.ring 0).reqs = [p, q] ∧ p.live = true ∧ p.ended = none ∧ p.id ≠ q.id ∧ q.live = false ∧ q.desc.fence = true ∧ q.ended = none) := by
  decide +kernel

/-- Vector 15 of function 15, its threshold met or its message held; masked and unmasked; MSI-X enabled. -/
def vectored (s : State) (ctl : BitVec 32) (n : Nat) : State :=
  withCfg ((s.putVec 255 { n := n, pba := n == 0, ctl := ctl, addr := 0x2000, data := 7 }).setPcie { s.pcie with cfg := [(4096 * 15 + 0x50, 0x80000000), (4, 6)] })
    [(sid 0x50 15 0x2F, 1)]

theorem witness_VectorMessages : ((vectored alone 1 1).engineOn = true ∧ (vectored alone 1 1).vecReady 15 15 = true ∧ (vectored alone 1 1).standalone = true) ∧
    ((vectored hosted 1 1).engineOn = true ∧ (vectored hosted 1 1).vecReady 15 15 = true ∧ (vectored hosted 1 1).standalone = false ∧
     ((vectored hosted 1 1).vec 255).ctl.toNat % 2 = 1) ∧
    (∀ n ∈ [0, 1], let s := vectored hosted 0 n
     (s.vecReady 15 15 = true ∨ (s.vec 255).pba = true) ∧ ¬ ((s.vec 255).ctl.toNat % 2 = 1 ∨
       bit (tget 0 s.pcie.cfg (4096 * 15 + 0x50)).toNat 30 = true ∨ bit (tget 0 s.pcie.cfg (4096 * 15 + 0x50)).toNat 31 = false) ∧ s.pcieMem = true) := by
  decide +kernel

/-- A PLAY ring of 2 channels that stages in bank 63. -/
def playing (q : Req) : State := withCfg (asks hosted q) [(sid 0x30 0x41 0, 63), (sid 0x50 0 0x100, 2), (sid 0x50 0 0x110, 2)]

theorem witness_RingDescriptors_audio :
    ((asks alone (req 1)).ring 0).oldest 1 = some (req 1) ∧ ((asks alone (req 0x10)).ring 0).oldest 0x10 = some (req 0x10) ∧
    (let q := req 0x11 384
     let s := playing q
     (s.ring 0).oldest 0x11 = some q ∧ MayRead s 0 q.desc.addrN q.desc.argN ∧ 0x40000000 ≤ (s.freeBuf 0).addr ∧
     (s.freeBuf 0).addr + q.desc.argN ≤ 0x41000000 ∧ s.refusal 4 (s.freeBuf 0).addr true = none) ∧
    (let b : AudioBuf := { id := 1, addr := 0x40FFFE80, ch := 2, n := 47, gap := 1 }
     let s := (asks hosted (req 0x10)).putHaudio 0 { written := [b] }
     (s.haudio 0).written = b :: [] ∧ (s.ring 0).reqs.find? (fun q => q.id = 1 && q.ended.isNone) = some (req 0x10) ∧ s.refusal 4 b.addr false = none ∧
     ∀ w ∈ vatWords b.addr b.len, s.vatDecode w = .ok) := by
  unfold MayRead
  decide +kernel

theorem witness_RingDescriptors_snaps :
    (let q := req 0x41 0x4003
     let s := asks hosted q
     (s.ring 0).oldest 0x41 = some q ∧ statLen (q.desc.argN % 256) (fld q.desc.argN 8 8) = some 12 ∧ MayWrite s 0 q.desc.addrN (4 * (12 / 4))) ∧
    (let q := req 0x40 0x0001021F
     let s := asks hosted q
     (s.ring 0).oldest 0x40 = some q ∧ MayWrite s 0 q.desc.addrN (8 * (q.desc.argN / 65536))) := by
  unfold MayWrite
  decide +kernel

/-- Reads that may time out: a descriptor's own, a SEP_STEP's, a frame's in its queue, a pending COMMIT's. -/
theorem witness_RingDescriptors_timeout :
    (∀ q ∈ [req 4, req 0x50], (asks hosted q).hostMode = true ∧ bit (tget 0 (asks hosted q).pcie.cfg 0x88).toNat 4 = false ∧
     ((asks hosted q).ring 0).reqs.find? (fun x => x.id = q.id && (asks hosted q).reading 0 x) = some q ∧ (asks hosted q).txPlace 0 q.id = none ∧
     q.taken = false ∧ q.desc.op ≠ 0x30) ∧
    (let q := req 0x30 0
     let s := (asks hosted q).setSep { hosted.sep with models := [(0, { nxt := [{ fed := some (0, 1) }] })] }
     (s.ring 0).reqs.find? (fun x => x.id = q.id && s.reading 0 x) = some q ∧ s.txPlace 0 q.id = none ∧ q.taken = false ∧ q.desc.op = 0x30) ∧
    (let q : Req := { req 2 with taken := true }
     let s := (asks hosted q).setCmt { hosted.cmt with queue := [{ fn := some 0, ring := 0, id := 1, fetching := true }] }
     (s.ring 0).reqs.find? (fun x => x.id = q.id && s.reading 0 x) = some q ∧ s.txPlace 0 q.id = none ∧ q.taken = true) ∧
    (let q : Req := { req 0x20 with taken := true }
     let s := (asks hosted q).putNet 1 { queues := [(7, [{ ring := 0, id := 1 }])] }
     (s.ring 0).reqs.find? (fun x => x.id = q.id && s.reading 0 x) = some q ∧ s.txPlace 0 q.id = some (0x40, 1, false)) ∧
    (let q : Req := { req 0x20 with taken := true }
     let s := (asks hosted q).putNet 1 { thresh := 128, cur := some (7, { ring := 0, id := 1 }) }
     (s.ring 0).reqs.find? (fun x => x.id = q.id && s.reading 0 x) = some q ∧ s.txPlace 0 q.id = some (0x40, 1, true)) := by decide +kernel

theorem witness_TickPhases :
    (let s := alone.setTime { alone.time with tick := 47, phase := 1 }
     s.ticking = true ∧ s.time.tick.toNat % 48 = 47 ∧ s.time.phase < 2) ∧
    (let s := (alone.setTime { alone.time with tick := 1 }).setTests [{ kind := 5, inst := 7 }]
     s.ticking = true ∧ s.time.phase = 0 ∧ s.running 5 (7 : BitVec 3).toNat = some { kind := 5, inst := 7 } ∧ (0 : BitVec 64).toNat < s.time.tick.toNat) ∧
    (let s := (alone.setTime { alone.time with phase := 3 }).setCmt { alone.cmt with queue := [{ fn := some 0, checked := some 0, applyAt := 1 }] }
     s.ticking = true ∧ s.time.phase < 4 ∧ s.cmt.queue = { fn := some 0, checked := some 0, applyAt := 1 } :: [] ∧
     (1 : BitVec 64).toNat ≤ s.time.tick.toNat + 1) := by decide +kernel

/-- In phase 5 of the last tick of a hop, or of the tick in which CK_E stops: domains 0 to 5 are off and the offset is 0. -/
def phase5 (tick : BitVec 64) (entry : Bool) : State :=
  (alone.setTime { alone.time with tick := tick, phase := 5 }).setPwr { alone.pwr with entry := entry, profile := if entry then 2 else 0, dom := [(19, .on)] }

theorem witness_TickPhases_hop : (phase5 95 false).ticking = true ∧ (phase5 95 false).time.phase = 5 ∧
    ((phase5 95 false).time.tick.toNat + 1) % (phase5 95 false).hop = 0 := by decide +kernel

theorem witness_TickPhases_stop : (phase5 0 true).ticking = true ∧ (phase5 0 true).time.phase = 5 ∧ (phase5 0 true).pwr.entry = true ∧
    (phase5 0 true).clk.offset48 = 0 ∧ ∀ d, d < 6 → (phase5 0 true).domOn d = false := by decide +kernel

/-- A COMMIT of a length under token 9, waiting to be dispatched. -/
def arriving (arg : BitVec 32) : Req := { req 2 arg 9 with live := false }

/-- Its length right and too long, its token new, pending and applied, four commits pending, the commit unit on and off. -/
theorem witness_CommitArrives :
    (let q := arriving 32
     let s := asks alone q
     (s.ring 0).reqs = [q] ∧ q.desc.opcode = 2 ∧ q.live = false ∧ q.ended = none ∧ s.offline 1 0 = false ∧ s.domOn 19 = true ∧
     (s.fnOf 0).tokens.find? (fun x => x.1 = q.desc.arg2) = none ∧ s.cmt.queue.any (fun c => c.fn == some 0 && c.token == q.desc.arg2) = false ∧
     ¬ 4 ≤ (s.cmt.queue.filter fun c => c.fn.isSome).length ∧ 32 ≤ q.desc.argN ∧ q.desc.argN ≤ 66336) ∧
    ((dom' (asks alone (arriving 32)) 19 .off).domOn 19 = false ∧ (dom' (asks alone (arriving 32)) 19 .off).offline 1 0 = false) ∧
    (let q := arriving 66337
     let s := asks alone q
     let one : Commit := { fn := some 0, token := 8 }
     66336 < q.desc.argN ∧ (s.setCmt { s.cmt with queue := [{ one with token := 9 }] }).cmt.queue.any
       (fun c => c.fn == some 0 && c.token == q.desc.arg2) = true ∧ q.desc.arg2 ≠ 0 ∧
     4 ≤ ((s.setCmt { s.cmt with queue := [one, one, one, one] }).cmt.queue.filter fun c => c.fn.isSome).length ∧
     ((s.putFn 0 { tokens := [(9, 70)] }).fnOf 0).tokens.find? (fun x => x.1 = q.desc.arg2) = some (9, 70)) := by decide +kernel

/-- An empty commit block: MAGIC, VERSION 1, no blobs, no tuples. -/
def emptyBlock : List Byte := [0x60, 0x71, 0xA1, 0xC0, 1, 0] ++ List.replicate 26 0
/-- Bytes of a block at 0x1000 of host memory. -/
def blockMem (l : List (Nat × Byte)) : Mem := [(0x1000, 0x60), (0x1001, 0x71), (0x1002, 0xA1), (0x1003, 0xC0), (0x1004, 1)] ++ l
/-- A COMMIT being fetched; the store is the lowest page of the Vats. -/
def fetching (len : Nat) (m : Mem) : State :=
  let s := (asks hosted (req 2 (BitVec.ofNat 32 len))).setHostMem m
  s.setCmt { s.cmt with queue := [{ fn := some 0, ring := 0, id := 1, len := len, fetching := true }], storeBase := 0x40000000, storePages := 1 }

theorem witness_CommitArrives_block :
    (let s := fetching 32 (blockMem [])
     let c : Commit := { fn := some 0, ring := 0, id := 1, len := 32, fetching := true }
     let b := s.dmaBytes 0x1000 32
     s.domOn 19 = true ∧ s.cmt.queue = c :: [] ∧ (s.ring 0).reqs.find? (fun q => q.id = c.id) = some (req 2 32) ∧ (req 2 32).desc.addrN = 0x1000 ∧
     MayRead s 0 0x1000 32 ∧ leNat (sub b 0 4) = 0xC0A17160 ∧ leNat (sub b 4 1) = 1 ∧ leNat (sub b 6 2) = 0 ∧ leNat (sub b 8 4) = 0) ∧
    (let s := fetching 56 (blockMem [(0x1006, 1), (0x1024, 16), (0x1029, 0x20)])
     let b := s.dmaBytes 0x1000 56
     s.standalone = false ∧ MayRead s 0 0x1000 56 ∧ leNat (sub b 6 2) = 1 ∧ leNat (sub b 8 4) = 0 ∧ leNat (sub b 36 4) = 16 ∧ leNat (sub b 40 8) = 0x2000 ∧
     s.allocPages (pagesOf 16) = some [0] ∧ MayRead s 0 0x2000 16) := by
  unfold MayRead
  decide +kernel

/-- The commit unit may reach the first page of a store in the Vats. -/
theorem pageOpen_of (s : State) (w : Bool) (ha : s.pageAddr 0 = 0x40000000) (h : s.bankOn 0 = true) (hc : s.time.ckeOff = false)
    (ht : s.underTest 0 = false) (hr : roleAdmits (s.cfg 0x30 0 1) 5 = true) : PageOpen s w 0 := by
  intro x h1 h2
  rw [ha] at h1 h2
  have e : s.region x = .vat 0 := by
    unfold State.region
    rw [if_neg (by omega), if_neg (by simp; omega), if_neg (by simp; omega), if_pos (by simp; omega)]
    congr
    omega
  simp [State.refusal, e, h, hc, ht, hr]

theorem witness_PageOpen : PageOpen (fetching 56 []) true 0 :=
  pageOpen_of _ _ (by decide +kernel) (by decide +kernel) (by decide +kernel) (by decide +kernel) (by decide +kernel)

/-- A commit at the head of the queue. -/
def headed (c : Commit) : State := alone.setCmt { alone.cmt with queue := [c] }
/-- A commit of the empty block. -/
def plain : Commit := { fn := some 0, raw := emptyBlock, len := 32 }

/-- A commit with tuples. -/
def tupled (l : List (Nat × Word)) : Commit := { plain with tuples := l }

/-- Commits that pass, that fail C3, C4, C5, C6 and C7, that are late, and whose fetch had failed. -/
theorem witness_CommitChecks :
    ((headed plain).domOn 19 = true ∧ (headed plain).time.ckeOff = false ∧ (headed plain).cmt.queue = [] ++ plain :: [] ∧ plain.checked = none ∧
      plain.fetching = false ∧ plain.fetchErr = none ∧ blockFail plain.raw plain.len = none ∧ (headed plain).c4 plain = true ∧
      (headed plain).c5 ((headed plain).projAt 0).m 0 plain.tuples = none ∧ ((headed plain).c6 plain).toOption = some plain ∧
      (headed plain).c78 ((headed plain).projAt 0) (((headed plain).projAt 0).after (headed plain).cowActive plain) plain = none ∧ plain.notAfter = 0) ∧
    (headed plain).applyTick ((headed plain).projAt 0) (((headed plain).projAt 0).after (headed plain).cowActive plain) 0 0 0 plain = 2 ∧
    blockFail [] 32 = some 3 ∧ (headed plain).c4 { plain with target := 2, notAfter := 1 } = false ∧
    (headed plain).c5 ((headed plain).projAt 0).m 0 [(0xFFFFFFFF, 1)] = some (0, 16) ∧ ((headed plain).c6 (tupled [(sid 0x20 0 1, 5)])).toOption = none ∧
    (headed plain).c78 ((headed plain).projAt 0) (((headed plain).projAt 0).after (headed plain).cowActive (tupled [(sid 3 6 1, 0)])) (tupled [(sid 3 6 1, 0)]) =
      some { status := 2, reason := 0x30, result := 0 } := by decide +kernel

theorem witness_CommitChecks_recheck : let c : Commit := { plain with checked := some 0, recheck := true }
    (headed c).stopComing = false ∧ (headed c).cmt.queue = [] ++ c :: [] ∧ c.recheck = true ∧ (headed c).c5 ((headed c).projAt 0).m 0 c.tuples = none ∧
    (headed c).c78 ((headed c).projAt 0) (((headed c).projAt 0).after (headed c).cowActive c) c = none := by decide +kernel

/-- A commit that loads one blob from the first page of a store in LPDDR5, the page poisoned or not. -/
def loading (c : Commit) (poison : Bool) : State :=
  let s := alone.setCmt { alone.cmt with queue := [c], storeBase := 0x80000000, storePages := 1 }
  s.setCc { s.cc with ready := true, lines := [(0x2000000, { poison := poison })] }
def blobbed (l : Bool) : Commit := { plain with checked := some 0, loading := l, resolved := [(7, List.replicate 16 0)], refs := [(7, [0])] }

theorem witness_CommitChecks_load :
    ((loading (blobbed false) false).domOn 19 = true ∧ (loading (blobbed false) false).time.ckeOff = false ∧ (blobbed false).loading = false ∧
      (blobbed false).checked.isSome = true ∧ (blobbed false).recheck = false ∧ (blobbed false).resolved ≠ [] ∧ (loading (blobbed false) false).storeDdr = true ∧
      (loading (blobbed false) false).vat.march.busy = false) ∧
    ((loading (blobbed true) false).cmt.queue = blobbed true :: [] ∧ (blobbed true).loading = true ∧ (blobbed true).loadedAt = none ∧
      tget [] (blobbed true).refs 7 = [0] ∧ (loading (blobbed true) false).poisonedIn ((loading (blobbed true) false).pageAddr 0) 4096 = false) ∧
    (loading (blobbed true) true).poisonedIn ((loading (blobbed true) true).pageAddr 0) (min 4096 16) = true ∧ (blobbed true).cells = true ∧
    (let c := { blobbed true with cells := false }
     (loading c false).cmt.queue = c :: [] ∧ (loading c false).storeDdr = true ∧ c.loading = true ∧ c.loadedAt = none) := by decide +kernel

theorem witness_CommitChecks_page (p : Bool) : PageOpen (loading (blobbed true) p) false 0 := by
  intro x h1 h2
  have a : (loading (blobbed true) p).pageAddr 0 = 0x80000000 := by cases p <;> decide +kernel
  have u : (loading (blobbed true) p).usable = 0x80000000 := by cases p <;> decide +kernel
  have r : (loading (blobbed true) p).cc.ready = true ∧ (loading (blobbed true) p).domOn 7 = true ∧ (loading (blobbed true) p).domOn 8 = true := by
    cases p <;> decide +kernel
  rw [a] at h1 h2
  have e : (loading (blobbed true) p).region x = .lpddr := by
    unfold State.region
    rw [if_neg (by omega), if_neg (by simp; omega), if_neg (by simp; omega), if_neg (by simp; omega), if_neg (by simp; omega), if_neg (by simp; omega),
      if_neg (by simp; omega), if_pos (by rw [u]; simp; omega)]
  simp [State.refusal, e, r]

theorem witness_QuiesceAndDisagreement :
    (let c : Commit := { plain with checked := some 0, applyAt := 5, tuples := [(sid 0x28 0 1, 0)] }
     let s := headed c
     s.domOn 19 = true ∧ s.time.ckeOff = false ∧ s.time.started = true ∧ s.time.phase ≤ 3 ∧ s.cmt.queue = [c] ∧ c.checked.isSome = true ∧
     c.recheck = false ∧ c.quiesce = none ∧ c.applyAt.toNat = s.time.tick.toNat + 5 ∧
     s.quiesceUnits (s.projAt 0) ((s.projAt 0).after s.cowActive c) c ≠ [] ∧ (∀ c ∈ (headed plain).cmt.queue, c.applyAt.toNat ≠ 5)) ∧
    (let s := withCfg (alone.putUnit 0x10 7 { downT := 8 }) [(sid 0x10 7 1, 1)]
     unitOk 0x10 7 = true ∧ s.disagrees 0x10 7 = true ∧ 8 ≤ (s.unitOf 0x10 7).downT ∧ (s.unitOf 0x10 7).div = false) ∧
    (let s := alone.putUnit 0x10 0 { div := true }
     (s.unitOf 0x10 0).div = true ∧ s.intent 0x10 0 = false ∧ s.time.phase < 4) ∧
    (let s := withCfg ((alone.putUnit 0x10 0 { div := true, upT := 8 }).putPort 0x10 0 { st := .run }) [(sid 0x10 0 1, 1)]
     (s.unitOf 0x10 0).div = true ∧ s.intent 0x10 0 = true ∧ s.cond 0x10 0 = true ∧ 8 ≤ (s.unitOf 0x10 0).upT) ∧
    (let s := (alone.setTime { alone.time with tick := 4 }).putUnit 0x28 15 { offline := some 0 }
     (s.unitOf 0x28 15).offline = some 0 ∧ (0 : BitVec 64).toNat + 4 ≤ s.time.tick.toNat) ∧
    (let s := (alone.setTime { alone.time with tick := 3 }).putUnit 0x28 15 { offline := some 0 }
     (s.unitOf 0x28 15).offline = some 0 ∧ s.time.tick.toNat < (0 : BitVec 64).toNat + 4) ∧
    (unitOk 0x28 15 = true ∧ (alone.unitOf 0x28 15).epoch ≠ 1) := by decide +kernel

/-- A descriptor blob of 16 bytes: KIND 0x11, VERSION 1, LENGTH 16, and the CRC of no bytes. -/
def smallBlob : List Byte := [0x11, 1, 0, 0, 16, 0, 0, 0] ++ List.replicate 8 0
/-- A host asking for a load of `arg` bytes under an identifier, a store of a page in the Vats. -/
def loads (arg : BitVec 32) (id : BitVec 64 := 7) : State :=
  let s := asks hosted (req 4 arg id)
  s.setCmt { s.cmt with storeBase := 0x40000000, storePages := 1 }

/-- It begins: lengths that fit, that free, that need two pages, that no blob has; pinned; the commit unit off; and it ends. -/
theorem witness_BlobLoad :
    ((loads 16).cmt.loads.find? (fun l => l.ring = 0) = none ∧ ((loads 16).ring 0).oldest 4 = some (req 4 16 7) ∧ (loads 16).domOn 19 = true ∧
     (dom' (loads 16) 19 .off).domOn 19 = false ∧ (req 4 16 7).desc.arg2N % 2 ^ 32 = 7 ∧ (loads 16).pinned 0 7 = false ∧
     (loads 16).allocPages (pagesOf 16) = some [0] ∧ MayRead (loads 16) 0 (req 4 16 7).desc.addrN 16 ∧
     ¬ (((loads 16).heldBlob 0 7).isNone = true ∧ 64 ≤ (loads 16).cmt.held.length + (loads 16).cmt.loads.length) ∧
     ((loads 16).setCmt { (loads 16).cmt with queue := [{ fn := some 0, pins := [7] }] }).pinned 0 7 = true) ∧
    (req 4 0 7).desc.argN = 0 ∧ (loads 4097).allocPages (pagesOf 4097) = none ∧ (req 4 15 7).desc.argN < 16 ∧ (loads 15).allocPages (pagesOf 15) = some [0] ∧
    (let l : BlobLoad := { ring := 0, id := 1, blob := 7, len := 16, bytes := smallBlob, pages := [0] }
     ((loads 16).setCmt { (loads 16).cmt with loads := [l] }).cmt.loads.find? (fun l => l.ring = 0) = some l ∧ blobCheck l.bytes l.len = none ∧
     blobCheck [] 16 ≠ none) := by
  unfold MayRead
  decide +kernel

theorem witness_BlobLoad_page : PageOpen (loads 16) true 0 :=
  pageOpen_of _ _ (by decide +kernel) (by decide +kernel) (by decide +kernel) (by decide +kernel) (by decide +kernel)

/-- QUERY of one setting, there or not. -/
theorem witness_Query : let q := req 3 1
    let s := asks hosted q
    (s.ring 0).oldest 3 = some q ∧ s.domOn 19 = true ∧ q.desc.len16 = 1 ∧ MayRead s 0 q.desc.addrN (8 * 1) ∧
    s.queryValue 0 (leNat (sub (s.dmaBytes q.desc.addrN 8) 0 4)) = none ∧ (s.queryValue 0 (sid 2 0 0)).isSome = true ∧
    (dom' s 19 .off).domOn 19 = false := by
  unfold MayRead
  decide +kernel

/-- Net port 1 enabled and served, with settings of class 0x40. -/
def netting (s : State) (r : NetPort) (l : List (Nat × Nat) := []) : State :=
  withCfg (s.putNet 1 r) ([(sid 0x40 1 1, (1 : Word)), (sid 0x40 1 0x13, 0)] ++ l.map fun e => (sid 0x40 1 e.1, BitVec.ofNat 32 e.2))

theorem witness_NetLink :
    commonMode 0x1F 0x11 = some 5 ∧ commonMode 1 1 = some 1 ∧
    ((netting alone { adv := 0x1F } [(4, 1)]).netManaged 1 = true ∧ (netting alone { adv := 0x1F } [(4, 1)]).cfg 0x40 1 2 = 0 ∧
     (netting alone { adv := 0x1F } [(4, 1)]).cfg 0x40 1 4 = 1 ∧ (0x24 : BitVec 16) ≠ 0xFFFF ∧ bit (0x24 : BitVec 16).toNat 5 = true ∧
     bit (0x24 : BitVec 16).toNat 2 = true ∧ bit (0x20 : BitVec 16).toNat 2 = false ∧ ((netting alone { adv := 0x1F } [(4, 1)]).net0 1).link = false ∧
     commonMode ((netting alone { adv := 0x1F } [(4, 1)]).net0 1).adv.toNat (partnerAdv 0x1E1 0x800) = some 5) ∧
    ((netting alone { link := true }).net0 1).link = true ∧
    ((netting alone {} [(2, 1)]).netManaged 1 = true ∧ (netting alone {} [(2, 1)]).cfg 0x40 1 2 = 1 ∧ ((netting alone {} [(2, 1)]).net0 1).link = false) ∧
    (let s := netting alone { adv := 0x1F, fails := 3 } [(6, 3)]
     s.netManaged 1 = true ∧ 1 ≤ s.cfg 0x40 1 6 ∧ s.cfg 0x40 1 6 ≤ (s.net0 1).fails ∧ lowerAdv (s.net0 1).adv.toNat ≠ 0) ∧
    (alone.domOn 63 = true ∧ alone.net.mdio.busy = false ∧ mdioRuns 0x400 = true) ∧
    (let s := alone.setNet { alone.net with mdio := { busy := true } }
     s.net.mdio.busy = true) := by decide +kernel

/-- A frame of 64 bytes from its destination, type and first payload bytes. -/
def frame64 (dst ty pay : List Byte) : List Byte := dst ++ [2, 0, 0, 0, 0, 9] ++ ty ++ pay ++ List.replicate (50 - pay.length) 0
/-- A link that is up, at 1000 full duplex, its Vat buffer on. -/
def up (r : NetPort) (l : List (Nat × Nat) := []) : State := netting alone { r with link := true, speed := 5, pauseRx := true } l

/-- PAUSE received and sent again; a frame that a buffer waits for, one that none waits for, one that no filter takes; a waiting frame delivered. -/
theorem witness_NetReception :
    (let s := up {}
     let fr := frame64 [1, 0x80, 0xC2, 0, 0, 1] [0x88, 8] [0, 1, 0xFF, 0xFF]
     s.portUp 0x40 1 = true ∧ typeOf fr = 0x8808 ∧ s.isPause 1 fr (s.judge 0x40 1 fr true) = true ∧ (s.net0 1).pauseRx = true ∧
     fullDuplex (s.net0 1).speed = true) ∧
    (let s := up { pauseTx := true, pauseOut := true, rxHeld := [{ len := 40000 }] } [(0x10, 40000), (0xE, 0xFFFF)]
     s.portUp 0x40 1 = true ∧ (s.net0 1).pauseTx = true ∧ (s.net0 1).pauseOut = true ∧ s.cfg 0x40 1 0x10 ≤ (s.net0 1).rxFill ∧ s.cfg 0x40 1 0xE ≠ 0) ∧
    (let s := up { posted := [{ fn := 2 }] } [(0x40, 7), (0x50, 0x10000), (0x60, 2)]
     let fr := frame64 [7, 0, 0, 0, 0, 0] [8, 0] []
     s.portUp 0x40 1 = true ∧ typeOf fr ≠ 0x8808 ∧ (s.judge 0x40 1 fr true).clean = true ∧ s.filterOf 0x40 1 (destOf fr) = some (2, 0) ∧
     s.cfg 0x40 1 0x14 = 0 ∧ (s.net0 1).listening = false ∧ (s.net0 1).pauseTx = false ∧ (s.net0 1).rxFill + fr.length ≤ 65536 ∧
     ((s.net0 1).rxHeld.filter fun h => h.fn = 2).length < ((s.net0 1).posted.filter fun b => b.fn = 2).length ∧
     (((up {}).net0 1).posted.filter fun b => b.fn = 2).length ≤ (((up {}).net0 1).rxHeld.filter fun h => h.fn = 2).length ∧
     s.refusal (macMaster 0x40 1) (s.macBase 0x40 1 + 0x10000) true = none ∧ s.filterOf 0x40 1 [9, 0, 0, 0, 0, 0] = none) ∧
    ((asks alone (req 0x21 0x10040)).ring 0).oldest 0x21 = some (req 0x21 0x10040) := by decide +kernel

theorem witness_NetReception_held :
    let h : RxHeld := { fn := 0, at_ := 65472, len := 64 }
    let s := netting (asks hosted (req 0x21 0x10040)) { posted := [{ fn := 0, addr := 0x1000, len := 64 }] }
    takeBuf h.fn (s.net0 1).posted = some ({ fn := 0, addr := 0x1000, len := 64 }, []) ∧ h.stamp = [] ∧ h.at_ + h.len ≤ 65536 ∧ s.cfg 0x40 1 0x13 < 64 ∧
    s.refusal (macMaster 0x40 1) (s.macBase 0x40 1 + 0x10000) false = none ∧ Sound s (s.macBase 0x40 1 + 0x10000 + h.at_) h.len ∧
    MayWrite s h.fn (0x1000 : BitVec 64).toNat h.len := by
  unfold Sound MayWrite
  decide +kernel

/-- One frame of queue 7 being sent by Net port 1. -/
def sending (r : NetPort) : State := up { r with cur := some (7, { len := 60 }) }
/-- A frame waits in a queue of Net port 1. -/
def queued (k : Nat) : State := netting (asks hosted (req 0x20 0x1F0040)) { link := true, speed := 5, queues := [(k, [{ ring := 0, id := 1 }])] }

theorem witness_NetTransmission :
    (let s := asks alone (req 0x20 0x1F0040)
     (s.ring 0).oldest 0x20 = some (req 0x20 0x1F0040) ∧ s.cfg 0x40 (req 0x20 0x1F0040).desc.port (0x20 + (req 0x20 0x1F0040).desc.queue) = 0 / 8 ∧
     (withCfg s [(sid 0x40 1 0x27, 3)]).cfg 0x40 (req 0x20 0x1F0040).desc.port (0x20 + (req 0x20 0x1F0040).desc.queue) ≠ 0 / 8) ∧
    (∀ k ∈ [7, 8], let s := queued k
     s.portUp 0x40 1 = true ∧ (s.net0 1).listening = false ∧ (s.net0 1).cur = none ∧ (s.net0 1).backoff = none ∧ (s.net0 1).pauseLeft = 0 ∧
     netQ s 1 k = { ring := 0, id := 1 } :: [] ∧ (∀ j, j < 9 → k < j → netQ s 1 j = []) ∧
     (s.ring 0).reqs.find? (fun q => q.id = 1) = some (req 0x20 0x1F0040) ∧
     MayRead s 0 (req 0x20 0x1F0040).desc.addrN (req 0x20 0x1F0040).desc.len16 ∧ s.cfg 0x40 1 0x13 < 64 ∧
     s.refusal (macMaster 0x40 1) (s.macBase 0x40 1) true = none) ∧
    (((sending {}).net0 1).cur = some (7, { len := 60 }) ∧ (sending {}).cfg 0x40 1 0x13 < 64 ∧
     (sending {}).refusal (macMaster 0x40 1) ((sending {}).macBase 0x40 1) false = none ∧ Sound (sending {}) ((sending {}).macBase 0x40 1) 60 ∧
     ((sending { thresh := 128 }).net0 1).thresh ≠ 0 ∧ ((sending { thresh := 128 }).net0 1).cur = some (7, { len := 60 })) ∧
    (let s := (sending {}).putNet 1 { (sending {}).net0 1 with speed := 1, colls := 14 }
     let t := (sending {}).putNet 1 { (sending {}).net0 1 with speed := 3, colls := 15 }
     s.halfDuplex 0x40 1 = true ∧ (s.net0 1).cur = some (7, { len := 60 }) ∧ (s.net0 1).colls < 15 ∧
     t.halfDuplex 0x40 1 = true ∧ (t.net0 1).cur = some (7, { len := 60 }) ∧ (t.net0 1).colls = 15) ∧
    ((alone.putNet 0 { wake := some 7 }).net0 0).wake = some 7 ∧ alone.engineOn = true := by
  unfold Sound MayRead
  decide +kernel

/-- Herdline port 1 enabled and started, with settings of classes 0x41 and 0x42. -/
def herding (s : State) (r : HerdPort) (l : List (Nat × Nat) := []) (cw : List (Nat × Nat) := []) : State :=
  withCfg (s.putHerd 1 { r with started := some 0 })
    ([(sid 0x41 1 1, (1 : Word)), (sid 0x41 1 0xD, 0)] ++ l.map (fun e => (sid 0x41 1 e.1, BitVec.ofNat 32 e.2)) ++ cw.map fun e => (sid 0x42 1 e.1, BitVec.ofNat 32 e.2))
/-- A service frame to all. -/
def serve (ty pay : List Byte) : List Byte := frame64 (List.replicate 6 0xFF) ty pay
/-- Late enough for three HELLO periods. -/
def late (s : State) : State := s.setTime { s.time with tick := 4800000 }

theorem witness_HerdModes :
    (let s := late (herding alone {})
     s.portUp 0x41 1 = true ∧ (s.herd0 1).started.isSome = true ∧ (s.herd0 1).helloAt.toNat + 48 * s.hd 1 0xE ≤ s.time.tick.toNat ∧
     s.settled 1 = true ∧ s.time.tick.toNat % 48 = 0 ∧ s.resolve 1 ≠ (s.herd0 1).modes) ∧
    (let s := herding alone {} [(3, 5)]
     let fr := serve [0x88, 0xB6] [3, 1, 5, 0, 0x7F, 0, 0, 0, 4]
     Serves s 1 fr 3 ∧ (s.livePeers 1).length < 31 ∧ leAt (payOf fr) 2 1 = s.hd 1 3) ∧
    (let s := late (herding alone { peers := [(9, { live := true })] })
     (tget {} (s.herd0 1).peers 9).live = true ∧ (s.cow 1).active = false ∧ (tget {} (s.herd0 1).peers 9).heard.toNat + 144 * s.hd 1 0xE ≤ s.time.tick.toNat) ∧
    (let s := herding alone { medium := 1, plcaOk := true }
     s.portUp 0x41 1 = true ∧ (s.herd0 1).medium = 1 ∧ (s.herd0 1).plcaOk = true) := by
  unfold Serves
  decide +kernel

/-- A follower (role 0) and a coordinator (role 1), active in a state. -/
def cowing (role : Nat) (c : CowSt) : State := herding alone { cow := { c with active := true } } [] [(1, 1), (2, role)]

theorem witness_Cowbell :
    (let s := cowing 0 { st := 2 }
     let fr := serve [0x88, 0xB5] [1, 1, 0, 0, 0x80, 0xBB, 0, 0, 0xE0, 1]
     s.hears 1 = true ∧ s.herdAccepts 1 fr true = true ∧ isService fr 0x88B5 1 = true ∧ (s.herd0 1).listening = false ∧ s.cowFollower 1 = true ∧
     2 ≤ (s.cow 1).st ∧ (cowing 0 { st := 3, rxOn := true }).hears 1 = true) ∧
    (let s := cowing 0 { st := 5 }
     s.cowSleeps 1 = true ∧ (s.cow 1).rxOn = false ∧ (s.cow 1).next.toNat ≤ s.time.tick.toNat + (s.cow 1).half + 1) ∧
    (let s := late (cowing 0 { st := 3, k := 1 })
     let t := late (cowing 0 { st := 5, k := 2 })
     s.cowFollower 1 = true ∧ 3 ≤ (s.cow 1).st ∧ (s.cow 1).st ≤ 5 ∧ (s.cow 1).next.toNat + (s.cow 1).half + 6 ≤ s.time.tick.toNat ∧ (s.cow 1).k < 2 ∧
     t.cowFollower 1 = true ∧ (t.cow 1).next.toNat + (t.cow 1).half + 6 ≤ t.time.tick.toNat ∧ (t.cow 1).k = 2 ∧ (t.herd0 1).listening = false) ∧
    (let s := cowing 0 { st := 3, awake := true }
     (s.cow 1).awake = true ∧ (s.cow 1).awakeEnd.toNat ≤ s.time.tick.toNat ∧ s.cowSleeps 1 = true) ∧
    (let s := cowing 1 { st := 7 }
     s.herdFree 1 = true ∧ s.cowCoord 1 = true ∧ (s.cow 1).st = 7 ∧ (s.cow 1).next.toNat ≤ s.time.tick.toNat) ∧
    ((alone.putHerd 1 { wake := some 15 }).herd0 1).wake = some 15 := by decide +kernel

/-- A DATA frame of a session with a message number. -/
def dataFrame (seq : Byte) : List Byte := serve [0x88, 0xB6] [1, 1, seq, 0, 0, 0, 0x34, 0x12]

theorem witness_ReliableChannel :
    (let s := herding alone { rcRx := [(0x20000000009, { known := true, session := 0x1234, last := 70, map := 1 <<< 63 })] }
     let r := tget {} (s.herd0 1).rcRx (beNat (srcOf (dataFrame 7)))
     Serves s 1 (dataFrame 7) 1 ∧ r.known = true ∧ r.session = BitVec.ofNat 16 (leAt (payOf (dataFrame 7)) 6 2) ∧ s.cowCoord 1 = false ∧
     32767 < seqDist 7 r.last.toNat ∧ seqDist r.last.toNat 7 ≤ 63 ∧ bit r.map.toNat (seqDist r.last.toNat 7) = true) ∧
    (let s := herding alone { rcRx := [(0x20000000009, { known := true, session := 0x1234, last := 70 })], rcBufs := [{}] }
     let r := tget {} (s.herd0 1).rcRx (beNat (srcOf (dataFrame 71)))
     Serves s 1 (dataFrame 71) 1 ∧ r.known = true ∧ r.session = BitVec.ofNat 16 (leAt (payOf (dataFrame 71)) 6 2) ∧ seqDist 71 r.last.toNat = 1 ∧
     takeBuf (s.hd 1 0xF) (s.herd0 1).rcBufs = some ({}, [])) ∧
    (let m : RcMsg := { dst := 0x20000000009, sent := true, seq := 1 }
     let s := herding alone { rcTx := [m] }
     let fr := serve [0x88, 0xB6] [2, 1, 1]
     Serves s 1 fr 2 ∧ s.cowCoord 1 = false ∧ (s.herd0 1).rcTx = [m] ∧ m.dst = beNat (srcOf fr) ∧ ackedBy (leAt (payOf fr) 2 2) (leAt (payOf fr) 8 8) m.seq.toNat = true) ∧
    (let m : RcMsg := { dst := 9, sent := true, seq := 0xFFFF, tries := 8 }
     let s := late (herding alone { rcTx := [m] } [(0x12, 9)])
     let t := late (herding alone { rcTx := [m] } [(0x12, 8)])
     (s.herd0 1).rcTx = [m] ∧ s.cowAsleep 1 = false ∧ m.last.toNat + s.hd 1 0x11 ≤ s.time.tick.toNat ∧ m.tries < s.hd 1 0x12 ∧ t.hd 1 0x12 ≤ m.tries ∧
     m.last.toNat + t.hd 1 0x11 ≤ t.time.tick.toNat) := by
  unfold Serves
  decide +kernel

/-- A stream of number 5 at endpoint 0x20 of Herdline port 1, of 8 channels. -/
def streamed : State := withCfg (herding alone {}) [(sid 0x41 1 1, 1), (sid 0x41 1 0xD, 0), (sid 0x43 0x20 1, 1), (sid 0x43 0x20 2, 1), (sid 0x43 0x20 3, 8), (sid 0x43 0x20 4, 5)]

/-- Packets with the wrong and the right channel count, the second one of a block; silence; services accepted or not. -/
theorem witness_HerdFrames_streams :
    (∀ ch ∈ [7, 8], let fr := serve [0x88, 0xB6] [0x10, 1, 5, 0x28, ch]
     Serves streamed 1 fr 0x10 ∧ streamed.cowCoord 1 = false ∧
     ((streamed.portStreams 1).filter fun e => e < 0x30 && streamed.cfg 0x43 e 4 == leAt (payOf fr) 2 1) = [0x20] ∧
     (leAt (payOf fr) 4 1 = streamed.streamCh 0x20 ↔ ch = 8)) ∧
    (let fmt := leAt (payOf (serve [0x88, 0xB6] [0x10, 1, 5, 0x28, 8])) 3 1
     let b : Blk := { fmt := BitVec.ofNat 8 (fmt % 32), ch := streamed.streamCh 0x20 }
     b.code ≤ 3 ∧ fld fmt 3 2 ≠ 3 ∧ fld fmt 5 2 < b.packets ∧ 1 < b.packets ∧ streamed.streamAddr 0x20 = 0 ∧ (streamed.stream 0x20).bound = none ∧
     (streamed.stream 0x20).playing = false ∧ (streamed.stream 0x20).blocks = []) ∧
    (let s := late (alone.setHerd { alone.herd with streams := [(0x2F, { lastPkt := some 99984 })] })
     (s.stream 0x2F).lastPkt = some 99984 ∧ (99984 : BitVec 64).toNat + 16 ≤ blockOf s.time.tick) ∧
    (let s := herding alone {}
     s.hears 1 = true ∧ typeOf (serve [0x88, 0xB6] []) = 0x88B6 ∧ s.herdAccepts 1 (serve [0x88, 0xB6] []) true = true ∧
     s.herdAccepts 1 (serve [0x88, 0xB6] []) false = false ∧ typeOf (serve [0x88, 0xB5] []) = 0x88B5) := by
  unfold Serves
  decide +kernel

theorem witness_HerdFrames_received : let s := herding alone { raw := [{ fn := 2 }] } [(0x40, 7), (0x50, 0x10000), (0x60, 2)]
    let fr := frame64 [7, 0, 0, 0, 0, 0] [8, 0] []
    s.hears 1 = true ∧ s.cowCoord 1 = false ∧ typeOf fr ≠ 0x88B5 ∧ typeOf fr ≠ 0x88B6 ∧ typeOf fr ≠ 0x8808 ∧ (s.judge 0x41 1 fr true).clean = true ∧
    s.filterOf 0x41 1 (destOf fr) = some (2, 0) ∧ s.cfg 0x41 1 0x14 = 0 ∧ (s.herd0 1).listening = false ∧ rxFillOf (s.herd0 1).rxHeld + fr.length ≤ 65536 ∧
    ((s.herd0 1).rxHeld.filter fun h => h.fn = 2).length < ((s.herd0 1).raw.filter fun b => b.fn = 2).length ∧
    s.refusal (macMaster 0x41 1) (s.macBase 0x41 1 + 0x10000) true = none := by decide +kernel

/-- HERD_RX_POST and HERD_TX of both kinds, by the owner and by another function; a message to node 2. -/
theorem witness_HerdFrames_asked :
    (let q := req 0x29 0x210040
     let s := asks alone q
     (s.ring 0).oldest 0x29 = some q ∧ q.desc.reliable = true ∧ s.hd q.desc.port 0xF = 0 / 8 ∧ (withCfg s [(sid 0x41 1 0xF, 3)]).hd q.desc.port 0xF ≠ 0 / 8 ∧
     ((asks alone (req 0x29 0x10040)).ring 0).oldest 0x29 = some (req 0x29 0x10040) ∧ (req 0x29 0x10040).desc.reliable = false) ∧
    (let q := req 0x28 0xF0040
     let s := asks alone q
     (s.ring 0).oldest 0x28 = some q ∧ s.hd q.desc.port (0x20 + q.desc.queue) = 0 / 8 ∧ q.desc.reliable = false ∧ s.sleepers q.desc.port = [] ∧
     (withCfg s [(sid 0x41 1 0x27, 3)]).hd q.desc.port (0x20 + q.desc.queue) ≠ 0 / 8) ∧
    (let q := req 0x28 0x2F0040
     let s := (asks hosted q).setHostMem [(0x1000, 2)]
     (s.ring 0).oldest 0x28 = some q ∧ s.hd q.desc.port (0x20 + q.desc.queue) = 0 / 8 ∧ q.desc.reliable = true ∧ s.hd q.desc.port 0xF = 0 / 8 ∧
     s.sleepers q.desc.port = [] ∧ MayRead s (0 / 8) q.desc.addrN q.desc.len16 ∧ isGroup ((s.dmaBytes q.desc.addrN q.desc.len16).take 6) = false) := by
  unfold MayRead
  decide +kernel

/-- A frame in a queue of Herdline port 1, or on its line. -/
def herdQueued (r : HerdPort) : State := herding (asks hosted (req 0x28 0xF0040)) r

theorem witness_HerdFrames_sent :
    (let s := herding alone { helloDue := true }
     s.herdFree 1 = true ∧ s.cfg 0x41 1 0xD < 64 ∧ s.refusal (macMaster 0x41 1) (s.macBase 0x41 1) true = none ∧ tget [] (s.herd0 1).queues 8 = [] ∧
     (s.herd0 1).helloDue = true ∧ s.quiet 1 64 = false) ∧
    (let e : TxEnt := { ring := 0, id := 1 }
     let s := herdQueued { queues := [(7, [e])] }
     s.herdFree 1 = true ∧ s.candidate 1 = some (.raw 7 e) ∧ tget [] (s.herd0 1).queues 7 = e :: [] ∧ s.quiet 1 (s.candLen 1 (.raw 7 e)) = false ∧
     (s.ring e.ring).reqs.find? (fun q => q.id = e.id) = some (req 0x28 0xF0040) ∧
     MayRead s e.fn (req 0x28 0xF0040).desc.addrN (req 0x28 0xF0040).desc.len16 ∧ s.refusal (macMaster 0x41 1) (s.macBase 0x41 1) true = none) ∧
    (∀ own ∈ [false, true], let e : TxEnt := { ring := 0, id := 1, len := 60, own := own, started := true }
     let s := herdQueued { cur := some (8, e) }
     (s.herd0 1).cur = some (8, e) ∧ s.cfg 0x41 1 0xD < 64 ∧ s.refusal (macMaster 0x41 1) (s.macBase 0x41 1) false = none ∧ Sound s (s.macBase 0x41 1) 60) := by
  unfold MayRead Sound
  decide +kernel


/-! Cores, memory, NV store, power. -/

/-- The four cores run, and the first line of the AON SRAM is as given. -/
def cored (l : LineC) (r : CoreSt := {}) : State :=
  alone.setCc { alone.cc with cores := (List.range 4).map fun c => (c, { r with run := .running }), lines := [(0x40000, l)], ready := true, memCfg := 9 }

/-- A load, a load-reserved at the line's last byte, a store that owns the line, and the writeback entries of a core. -/
theorem witness_Coherence :
    (let s := cored { l1 := [(1, .m)] }
     Asks s 0 0x40000 ∧ (s.line 0x40000).at 0 = .i ∧ s.readBar (64 * 0x40000 + 63) .lr = false ∧ s.readBar (64 * 0x40000) .load = false ∧
     s.cacheable (64 * 0x40000 + 63) = true ∧ s.refusal 0 (64 * 0x40000 + 63) false = none ∧ s.refusal 0 (64 * 0x40000) true = none ∧
     0 + (List.replicate 64 (0 : Byte)).length ≤ 64 ∧ (∀ k ∈ [StoreKind.store, .amo], s.ownBar (64 * 0x40000) k = false ∧ s.scFails 0 0x40000 k = false)) ∧
    (let s := cored { l1 := [(0, .s), (3, .s)] }
     let q : Rival := ⟨3, 0, 56, [1, 2, 3, 4, 5, 6, 7, 8], .store⟩
     Asks s 0 0x40000 ∧ (s.line 0x40000).at 0 = .s ∧ s.rivalsOk 0 56 [9] [q] = true ∧ s.refusal 0 (64 * 0x40000) true = none ∧
     tget 0 s.cc.top (0x40000 % 2) = 0 ∧ s.ownBar (64 * 0x40000) .sc = false ∧ (s.putCore 0 { s.core 0 with resv := some 0x40000 }).scFails 0 0x40000 .sc = false) ∧
    (∀ st ∈ [Mesi.e, .m], let s := cored { l1 := [(0, st)] }
     s.coreReq 0 = true ∧ s.cacheable (64 * 0x40000) = true ∧ 60 + [(1 : Byte), 2, 3, 4].length ≤ 64 ∧ (s.line 0x40000).at 0 = st) ∧
    (let w : Rival := ⟨3, 0, 63, [1], .store⟩
     let s := cored { losers := [w] }
     (s.line 0x40000).losers = w :: [] ∧ w.master.toNat < 4 ∧ (s.l2Lines 0x40000).length < 16) ∧
    ((cored { l1 := [(3, .e)] }).line 0x40000).at 3 = .e ∧ ((cored { l1 := [(3, .s)] }).line 0x40000).at 3 = .s ∧
    (let s := cored {} { wb := [(7, { line := 0x40000 }), (8, { absorbed := true })] }
     s.domOn 3 = true ∧ (s.core 3).wb.find? (fun x => x.1 = 7) = some (7, { line := 0x40000 }) ∧
     (s.core 3).wb.find? (fun x => x.1 = 8) = some (8, { absorbed := true })) := by
  unfold Asks
  decide +kernel

/-- A line of one owner, read by another core. -/
theorem witness_OneOwner : (∀ j, j < 4 → ∀ k, k < 4 → j ≠ k →
      (((cored { l1 := [(1, .m)] }).line 0x40000).at j = .m ∨ ((cored { l1 := [(1, .m)] }).line 0x40000).at j = .e) →
      ((cored { l1 := [(1, .m)] }).line 0x40000).at k = .i) ∧
    (∃ t, exec (.readShared 0 ⟨0x40000, 0⟩ .load .ok none) (cored { l1 := [(1, .m)] }) = .next t) ∧
    (∃ t, exec (.readUnique 0 ⟨0x40000, 0⟩ [] .store .ok none []) (cored { l1 := [(1, .m)] }) = .next t) ∧
    (∃ t, exec (.upgrade 0 ⟨0x40000, 0⟩ [] .store .ok []) (cored { l1 := [(1, .m)] }) = .next t) ∧
    (∃ t, exec (.replay 0x40000) (cored { l1 := [(1, .m)] }) = .next t) ∧ ∃ t, exec (.cleanEvict 1 0x40000) (cored { l1 := [(1, .m)] }) = .next t := by
  refine ⟨by decide +kernel, ⟨_, rfl⟩, ⟨_, rfl⟩, ⟨_, rfl⟩, ⟨_, rfl⟩, ⟨_, rfl⟩⟩

theorem witness_PortAndMemory : (cored {}).masterUp 11 0 = true ∧ (cored {}).cacheable (64 * 0x40000) = true ∧ (cored {}).refusal 11 (64 * 0x40000) false = none ∧
    (cored {}).wbHit 0x40000 = none ∧ (cored {}).refusal 11 (64 * 0x40000) true = none ∧ ((cored {}).line 0x40000).losers = [] ∧
    (cored {}).ddrUp = true ∧ bit (cored {}).cc.memCfg.toNat 0 = true ∧ fld (cored {}).cc.memCfg.toNat 3 2 ≠ 0 := by decide +kernel

/-- Sources 128 and 143 are pending and enabled in context 7. -/
def plics : State :=
  alone.setCc { alone.cc with plic := { prio := [(128, 3), (143, 7)], en := [(7 * 1024 + 128, true), (7 * 1024 + 143, true)], pend := [(128, true), (143, true)] } }

theorem witness_ControlComplex : (plics.plicBest 7 = 143 ∧ plics.domOn 6 = true ∧ plics.plicPending 128 = true ∧
      tget false plics.cc.plic.en (7 * 1024 + 128) = true ∧ 0 < (tget 0 plics.cc.plic.prio 128).toNat) ∧
    (alone.domOn 3 = true ∧ alone.domOn 4 = true ∧ (alone.core 3).tickOk 3 = true ∧ (alone.core 3).tickOk 0 = false) ∧
    (let s := withCfg (cored {} { park := true }) [(sid 3 3 1, 0)]
     s.domOn 3 = true ∧ s.effOn 3 = false ∧ (s.core 3).park = true ∧ s.coreEmpty 3 = true ∧ s.pwr.entry = false ∧ s.ticking = true ∧
     s.parkable 3 = true ∧ (s.setTime { s.time with phase := 5 }).coreEmpty 3 = true ∧
     (s.setTime { s.time with phase := 5 }).time.phase = 5) ∧
    (let s := (alone.setPwr { alone.pwr with entry := true, dom := [(4, .on), (5, .on)] }).setTime { alone.time with phase := 5 }
     s.domOn 4 = true ∧ s.pwr.entry = true ∧ [0, 1, 2, 3].all (fun c => !s.domOn c) = true ∧ s.time.phase = 5) ∧
    (let l : LineC := { inL2 := true, dirty := true, l2d := 7 }
     let s := (cored l).setCmt { (cored l).cmt with queue := [{ loading := true, tuples := [(sid 3 4 1, 0)] }] }
     s.domOn 4 = true ∧ s.pwr.entry = false ∧ s.slicesLeaving = true ∧ s.cc.lines = [(0x40000, l)]) := by decide +kernel

/-- The phase H5 leaves that core clean and its domain on. -/
theorem witness_ControlComplex_parks : let s := withCfg (cored {} { park := true }) [(sid 3 3 1, 0)]
    ((s.setTime { s.time with phase := 4 }).advance {} 5).parkable 3 = true := by decide +kernel

/-- The NV store at work. -/
def nved (s : State) (n : NvSt) : State := s.setNv { n with ok := true }

/-- Slot A after a write of `n` bytes as record 1. -/
def slotted (n : Nat) : NvSt :=
  { mib := 16, state := 0, flash := ((({ mib := 16, active := 1 } : NvSt).planOf (payloadOf [(1, List.replicate n 0)]) 1).foldl (fun f o => o.apply f) []) }

/-- A write too long, out of range, waiting behind another, starting with and without data; a read waiting, answered and too short. -/
theorem witness_NvStore_requests :
    (∀ n ∈ [0, 4, 65536], let q := req 0x50 (BitVec.ofNat 32 n) 0x00000001
     let s := nved (asks hosted q) { state := 0 }
     (s.ring 0).oldest 0x50 = some q ∧ s.nv.state ≠ 4 ∧ recordOk (0 / 8) (q.desc.arg2N % 2 ^ 32) = true ∧ q.desc.argN = n ∧
     q.desc.arg2N % 2 ^ 32 ≠ 0xFF000001 ∧ s.nv.writing = none ∧ s.nv.queue = [] ∧ (nved s { state := 2, writing := some {} }).nv.writing.isSome = true) ∧
    (let q := req 0x50 65537 0x00000001
     ((asks hosted q).ring 0).oldest 0x50 = some q ∧ recordOk (0 / 8) (q.desc.arg2N % 2 ^ 32) = true ∧ 65536 < q.desc.argN) ∧
    (let q := req 0x51 4 0x01000001
     ((asks hosted q).ring 0).oldest 0x51 = some q ∧ recordOk (0 / 8) (q.desc.arg2N % 2 ^ 32) = false) ∧
    (let q := req 0x51 4 1
     let s (n : Nat) : State := nved (asks hosted q) (slotted n)
     ((s 4).ring 0).oldest 0x51 = some q ∧ (s 4).nv.state ≠ 4 ∧ recordOk (0 / 8) (q.desc.arg2N % 2 ^ 32) = true ∧
     (readSlot (s 5).nv.flash (slotBase (s 5).nv.mib (s 5).nv.active)).isSome = true ∧ (readSlot (s 4).nv.flash (slotBase 16 0)).isSome = true ∧
     (s 4).nv.writing = none ∧ (s 4).nv.queue = [] ∧ (tget [] (s 4).nv.recs 1).length ≤ q.desc.argN ∧ q.desc.argN < (tget [] (s 5).nv.recs 1).length) := by
  decide +kernel

theorem witness_NvStore_data : (payloadOf (putRecord [] 1 (List.replicate 4 0))).length ≤ 2096640 ∧
    MayRead (asks hosted (req 0x50 4 1)) (0 / 8) (req 0x50 4 1).desc.addrN 4 := by
  unfold MayRead
  decide +kernel

theorem witness_NvStore_flash :
    (let o : FlashOp := { erase := true, step := 2 }
     let s := nved alone { plan := [o], writing := some {}, gateSince := some 0 }
     s.domOn 61 = true ∧ s.nv.ok = true ∧ s.nv.busy = none ∧ s.nv.plan = o :: [] ∧ o.step ≠ 1 ∧ s.gateOpen o.erase = false ∧
     (s.setPsu { s.psu with holdup := 402000, mainsLost := false }).gateOpen o.erase = true ∧ (nved alone { plan := [o] }).nv.gateSince = none ∧
     s.nv.gateSince = some 0 ∧ s.nv.writing = some {} ∧ o.step ≤ 4 ∧ (late s).nv.gateSince = some 0 ∧
     (0 : BitVec 64).toNat + (late s).cfg 0x60 0 3 ≤ (late s).time.tick.toNat ∧ (late s).nv.queue = [] ∧
     (nved alone { busy := some o }).nv.busy = some o ∧ (nved alone { busy := some o }).nv.writing = none ∧ o.step ≠ 4 ∧
     (late (nved alone { busy := some o })).flashLate o = true) ∧
    (let p : FlashOp := { erase := false, step := 3, addr := 4, data := [1, 2] }
     p.step ≠ 4 ∧ flashBytes (flashProgram (nved alone { busy := some p }).nv.flash p.addr p.data) p.addr p.data.length = p.data) := by decide +kernel

/-- Channel 7 supplies domain 20 (or is addressed), driven. -/
def pol (pg : BitVec 8) (v : DomState) : State :=
  withCfg ((dom' alone 20 v).setPwr { (dom' alone 20 v).pwr with polEn := 0x80, polPg := pg }) [(sid 3 0x87 1, 0x40), (sid 3 0x87 2, 0x100000)]

theorem witness_PowerDomains : ((dom' alone 63 .poweringUp).domSt 63 = .poweringUp ∧ (dom' alone 63 .poweringUp).pwr.upQ = []) ∧
    (bit (pol 0 .poweringUp).pwr.polEn.toNat 7 = true ∧ bit (pol 0 .poweringUp).pwr.polPg.toNat 7 = false ∧ (late (pol 0 .poweringUp)).pgLate 7 = true ∧
     bit ((pol 0 .poweringUp).polMask 7) 20 = true ∧ (pol 0 .poweringUp).domSt 20 = .poweringUp ∧ bit ((pol 0 .poweringUp).polMask 7) 21 = false) ∧
    (bit (pol 0x80 .on).pwr.polEn.toNat 7 = true ∧ (pol 0x80 .on).domOn 20 = true ∧ (pol 0x80 .on).polMask 7 = 0x100000 ∧
     ∀ x, x < 64 → bit 0x100000 x = true → x = 20) ∧
    (alone.domOn 63 = true ∧ alone.domOn 6 = true ∧ tget false alone.cc.plic.claimed 5 = false) ∧
    ((pol 0 .on).addressed 7 = true ∧ (nth 0 [0, 0, 0, 0, 0, 0, 0, (0x10 : BitVec 16)] 7).toNat &&& faultBits ≠ 0) := by decide +kernel

theorem witness_PowerDomains_quiet : ∀ w ∈ List.replicate 8 (0 : BitVec 16), w = 0 := fun _ h => List.eq_of_mem_replicate h

/-- Profile 2 in force, with CK_E stopped or not, settings of the supply. -/
def asleep (off : Bool) (l : Map Word) : State :=
  withCfg ((alone.setTime { alone.time with ckeOff := off }).setPwr { alone.pwr with profile := 2, dom := if off then [] else alone.pwr.dom }) l

theorem witness_WakeAndVoltage :
    (let s := asleep true [(sid 3 0x40 2, 0), (sid 3 0x40 3, 0x88)]
     bit (s.cfg 3 0x40 3) 3 = true ∧ bit (s.cfg 3 0x40 3) (4 + 3) = true ∧ 2 ≤ s.pwr.profile ∧ s.pwr.phase ≠ 2 ∧
     s.mainsProfile (s.cfg 3 0x40 2) ≠ s.pwr.profile ∧ s.pwr.wakeCause = 0 ∧ devCount s.cmt.queue < 4 ∧ s.time.ckeOff = true) ∧
    (let s := late (asleep true [(sid 3 0x40 4, 4800000)])
     s.cfg 3 0x40 4 + 2 ^ 32 * s.cfg 3 0x40 5 ≠ 0 ∧ s.time.tick.toNat = s.cfg 3 0x40 4 + 2 ^ 32 * s.cfg 3 0x40 5 ∧ 2 ≤ s.pwr.profile ∧ s.pwr.wakeCause = 0 ∧
     s.pwr.wakeAt ≠ s.time.tick) ∧
    (let s := dom' ((asleep true []).setPwr { (asleep true []).pwr with phase := 2 }) 19 .on
     s.time.ckeOff = true ∧ s.time.started = true ∧ s.pwr.phase = 2 ∧ 2 ≤ s.pwr.profile ∧ s.domOn 19 = true) ∧
    (let s := withCfg (alone.setPwr { alone.pwr with trim := -45 }) [(sid 3 0x40 0x10, 1), (sid 3 0x40 0x11, 0)]
     s.vddPol = true ∧ s.cfg 3 0x40 0x10 = 1 ∧ (-50 : Int) - s.pwr.trim = -5 ∧ (-40 : Int) - s.pwr.trim = 5 ∧
     s.pwr.trimAt ≠ some (BitVec.ofNat 64 (blockOf s.time.tick))) ∧
    (let s := late (alone.setPwr { alone.pwr with vWait := some (3, 850) })
     s.pwr.vWait = some (3, 850) ∧ ((839 : Nat) : Int) < 850 - 10 ∧ (850 : Int) - 10 ≤ ((840 : Nat) : Int) ∧ s.clk.oppNext = none ∧
     s.pwr.vAt.toNat + 48 ≤ s.time.tick.toNat) := by decide +kernel

/-- Model 15 with one Churn step and two host steps on tile 0, one layer, function 2; two inputs a row. -/
def desc15 : ModelDesc :=
  { churnSteps := 1, hostSteps := 2, hostFn := 2, rows := 2, layers := [{ tile := 0, inW := 2, stW := 2, outW := 1, stFirst := 510 }] }
/-- It is loaded; ring 16 of function 2 asks. -/
def modelling (q : Req) (m : ModelSt) : State :=
  let s := withCfg (hosted.setSep { hosted.sep with models := [(15, { m with desc := some desc15 })] }) [(sid 0x28 15 1, 1), (sid 0x28 15 2, 1)]
  s.setHost { s.host with rings := [(16, { cfg := 0x50, on := true, reqs := [q] })], wins := [(16, { limit := 0xFFFFFFFF, valid := true, read := true, write := true })] }
/-- A SEP_STEP of model 15, dispatched or not. -/
def stepReq (live : Bool) : Req := { req 0x30 15 with live := live }
/-- The host steps of the hop being staged: taken or free. -/
def steps (one two : Bool) : List StepRec :=
  [{}, { used := one, fed := if one then some (16, 1) else none }, { used := two, fed := if two then some (16, 2) else none }]

/-- A step waits, takes step 2 and is copied to step 1; a model that is absent; another function. -/
theorem witness_SeparatorRequests :
    (let s := modelling (stepReq false) { nxt := steps true false }
     (s.ring 16).reqs = [stepReq false] ∧ (stepReq false).desc.model = 15 ∧ s.offline 0x28 15 = false ∧ (s.model 15).desc = some desc15 ∧
     desc15.hostFn = 16 / 8 ∧ desc15.hostSteps ≠ 0 ∧ desc15.churnSteps ≤ 2 ∧ 2 < desc15.steps ∧ (nth {} (s.model 15).nxt 2).used = false ∧
     (nth {} (s.model 15).nxt 1).used = true ∧ ((asks alone (stepReq false)).ring 0).reqs = [stepReq false] ∧
     ((asks alone (stepReq false)).model 15).desc = none ∧ (asks alone (stepReq false)).offline 0x28 15 = false ∧ desc15.hostFn ≠ 0 / 8) ∧
    (∀ k, k < desc15.steps → desc15.churnSteps ≤ k → (nth {} ((modelling (stepReq false) { nxt := steps true true }).model 15).nxt k).used = true) ∧
    (let s := modelling (stepReq true) { nxt := steps true true }
     (s.ring 16).reqs = [stepReq true] ∧ 1 < (s.model 15).nxt.length ∧ (nth {} (s.model 15).nxt 1).fed = some (16, (stepReq true).id) ∧
     (nth {} (s.model 15).nxt 1).copied = false ∧ (nth {} (s.model 15).nxt 0).fed ≠ some (16, (stepReq true).id)) ∧
    ((modelling (req 0x31 15) {}).ring 16).oldest 0x31 = some (req 0x31 15) ∧ ((modelling (req 0x31 15) { filling := [{}] }).model 15).filling = {} :: [] ∧
    desc15.hostSteps ≤ 8 ∧ desc15.hostRows[0]? = some 1 ∧ (0 : Nat) < desc15.outW ∧ ((0 : Nat) < 2 ^ 64) := by decide +kernel

theorem witness_SeparatorRequests_rows : let s := modelling (stepReq true) { nxt := steps true true }
    MayRead s (16 / 8) (stepReq true).desc.addrN (desc15.hostP * desc15.inW * 2) ∧ desc15.hostP = 1 := by
  unfold MayRead
  decide +kernel

/-- A word decodes without error where no cell has lost what was written. -/
theorem decode_of (s : State) (h : s.vat.cells = []) (a : Nat) : s.vatDecode a = .ok := by
  unfold State.vatDecode
  split
  · rfl
  · rw [h]
    exact if_pos (show popcount (0 : BitVec 72).toNat 72 = 0 by decide)

theorem witness_Staged : Staged (modelling (req 0x31 15) {}) desc15 ∧ StageSound (modelling (req 0x31 15) {}) desc15 := by
  have h : stageFrom desc15 = 0x40000000 ∧ stageTo desc15 = 0x40000900 := by decide +kernel
  refine ⟨⟨by rw [h.2]; decide, fun a _ hb => ?_⟩, fun w _ _ => decode_of _ (by decide +kernel) _⟩
  rw [h.2] at hb
  rw [show (a - 0x40000000) / 0x40000 = 0 by omega]
  decide +kernel

theorem witness_SeparatorBeats :
    (let s := modelling (req 0x31 15) { cur := [{ active := 3 }, {}, {}] }
     (s.model 15).desc = some desc15 ∧ s.beatDue 0 = true ∧ (15, desc15, 0) ∈ s.spans 0 ∧ s.groupBeats 0 = 0 ∧ 0 < 0 + desc15.span ∧
     s.beatsRun 15 desc15 = true ∧ (s.model 15).miss = false ∧ (s.model 15).beat < (s.model 15).cur.length ∧ (s.model 15).beat < desc15.steps ∧
     bit (nth {} (s.model 15).cur (s.model 15).beat).active.toNat 1 = true ∧ bit (nth {} (s.model 15).cur (s.model 15).beat).active.toNat 63 = false ∧
     ((modelling (req 0x31 15) { miss := true }).model 15).miss = true) ∧
    State.reset.beatDue 0 = false ∧ ((∀ l ∈ desc15.layers, l.stFirst + l.stW ≤ 512) ∧
      bit (2 : BitVec 64).toNat 0 = false ∧ bit (2 : BitVec 64).toNat 1 = true) := by decide +kernel

theorem witness_SeparatorArithmetic : (-32768 ≤ (-32768 : Int) ∧ (-32768 : Int) ≤ 32767) ∧ (-32768 ≤ (32767 : Int) ∧ (32767 : Int) ≤ 32767) := by
  decide +kernel

/-- A test of a tile: it starts, the tile is off, one runs, one is used; the other kinds; the peek before and after its hop. -/
theorem witness_SelfTests :
    (let s := asks alone (req 0x60 0x702)
     (s.ring 0).oldestTest 2 = some (req 0x60 0x702) ∧ (req 0x60 0x702).desc.unit = 7 ∧ s.domOn (40 + 7) = true ∧ s.tileUsed 7 = false ∧ s.running 2 7 = none ∧
     (dom' s 47 .off).domOn (40 + 7) = false ∧ (s.setTests [{ kind := 2, inst := 7 }]).running 2 7 = some { kind := 2, inst := 7 }) ∧
    ((asks alone (req 0x60 0x3)).ring 0).oldestTest 3 = some (req 0x60 0x3) ∧ ((asks alone (req 0x60 0x105)).ring 0).oldestTest 5 = some (req 0x60 0x105) ∧
    ((asks alone (req 0x60 0x104)).ring 0).oldestTest 4 = some (req 0x60 0x104) ∧ ((asks alone (req 0x60 0x706)).ring 0).oldestTest 6 = some (req 0x60 0x706) ∧
    ((asks alone (req 0x60 0x706)).running 6 7 = none ∧
     ((asks alone (req 0x60 0x706)).setTests [{ kind := 6, inst := 7 }]).running 6 7 = some { kind := 6, inst := 7 }) ∧
    (let s := late (herding alone {})
     let since := max (s.herd0 1).calAt.toNat ((s.herd0 1).started.getD 0).toNat
     s.herdFree 1 = true ∧ s.candidate 1 = none ∧ s.running 4 1 = none ∧ since + 48000 ≤ s.time.tick.toNat ∧
     (herding alone {}).herdFree 1 = true ∧ (herding alone {}).candidate 1 = none ∧ (herding alone {}).time.tick.toNat < 0 + 48000 ∧
     (s.setTests [{ kind := 4, inst := 1 }]).running 4 1 = some { kind := 4, inst := 1 }) ∧
    (let r : TestRun := { kind := 6, inst := 7, start := 47 }
     let s := alone.setTests [r]
     s.time.ckeOff = false ∧ s.running 6 7 = some r ∧ s.sep.hopStart.toNat ≤ r.start.toNat ∧
     r.start.toNat < (s.setSep { s.sep with hopStart := 48 }).sep.hopStart.toNat ∧ (s.setSep { s.sep with hopStart := 48 }).spansEnded 7 = true) := by
  decide +kernel

theorem witness_ChipAndSupplyResets : alone.boot.aonOn = true ∧ (State.reset.boot.aonOn = true ∧ State.reset.boot.inReset = true) ∧
    (alone.pathUp (.core 3) = true ∧ (0x15EED : BitVec 32).toNat % 2 ^ 16 = 0x5EED ∧ (0x15EED : BitVec 32).toNat.testBit 16 = true ∧
     (0x5EED : BitVec 32).toNat.testBit 16 = false) ∧ alone.domOn 60 = true ∧ alone.boot.debugClosed = false ∧ alone.boot.inReset = false ∧
    ((alone.setNv { alone.nv with busy := some {} }).nv.busy = some {} ∧ alone.nv.busy = none) ∧ flashFits 15 = false := by decide +kernel

theorem witness_ResetBy : ResetBy alone .chipReset 1 ∧ ResetBy alone (.sysResetCtlChip (.core 3) 0x15EED) 2 ∧ ResetBy alone .ndmreset 3 := by
  refine ⟨.inl ⟨rfl, rfl, ?_⟩, .inr (.inl ⟨_, _, rfl, rfl, ?_, nofun, ?_, ?_⟩), .inr (.inr ⟨rfl, rfl, ?_, ?_⟩)⟩ <;> decide +kernel

/-- A host-attached start waits for its image; a header of 16 bytes lies in the window, or zeros do. -/
def window (m : Mem) : State := ((hosted.setBoot { hosted.boot with mode := 1, phase := 1 })).setMem m
/-- MAGIC, VERSION, LENGTH 16, LOAD and ENTRY 0x01000100. -/
def header16 : Mem :=
  [(0x01000000, 7), (0x01000001, 0xB0), (0x01000002, 0x46), (0x01000003, 0x4B), (0x01000004, 1), (0x01000008, 16), (0x01000011, 1), (0x01000013, 1),
   (0x01000019, 1), (0x0100001B, 1)]

theorem witness_BootAndLink :
    (let s := window []
     (1 : BitVec 32).toNat.testBit 0 = true ∧ s.domOn 59 = true ∧ s.boot.phase = 1 ∧ s.boot.mode = 1 ∧ headerOk (s.busBytes 0x01000000 256) = false) ∧
    (let h := (window header16).busBytes 0x01000000 256
     headerOk h = true ∧ leAt h 8 4 ≤ 245504 ∧ (window header16).boot.fuses.accepts h = true ∧ leAt h 0x10 8 < 0x80000000) ∧
    (alone.pathUp .debug = true ∧ alone.domOn 6 = true ∧ (0xE : BitVec 32).toNat.testBit 3 = true ∧ alone.cc.coreRun.toNat.testBit 3 = false ∧
     alone.domOn 3 = true ∧ (alone.core 3).run = .inReset) ∧ alone.hostMode = false ∧
    (hosted.hostMode = true ∧ hosted.boot.inReset = false ∧ hosted.domOn 9 = true ∧ hosted.pcie.perst = false ∧ hosted.pcie.linkUp = true ∧
     hosted.pcieUp = true ∧ hosted.fnExists 4 = true ∧ hosted.fnExists 5 = false ∧ (hosted.setPcie { hosted.pcie with training := true }).pcie.training = true ∧
     tget 0 hosted.pcie.cfg 0 = 0 ∧ tget 0 hosted.pcie.cfg (4 * 4096 + 0x2C) = 0 ∧ ({ hosted.pcie with vfEnable := false } : PcieSt).vfEnable = false) := by
  decide +kernel

/-- A good uplink frame: SYNC 0xA, LINK_STATE, MAINS_OK. -/
def uplink (st mains : Nat) : BitVec 64 := sealed (0xA + 256 * st + 2048 * mains)

theorem witness_BarrierLink_up : (frameGood 0xA 0 = false ∧ frameGood 0xA (uplink 2 1) = true ∧ frameGood 0xA (uplink 3 0) = true ∧
      frameGood 0xA (uplink 1 1) = true ∧ fld (uplink 2 1).toNat 8 3 = 2 ∧ fld (uplink 3 0).toNat 8 3 = 3 ∧ fld (uplink 1 1).toNat 8 3 = 1) ∧
    ((uplink 2 1).toNat.testBit 11 = true ∧ (uplink 3 0).toNat.testBit 11 = false) := by decide +kernel

theorem witness_BarrierLink_device :
    (∀ n ∈ [62, 63], let s := alone.setPsu { alone.psu with link := 3, goodRun := n, vbus := 11400, up := uplink 3 1 }
     s.psu.link = 3 ∧ s.psu.ctrl = false ∧ (63 ≤ s.psu.goodRun ↔ n = 63) ∧ 11400 ≤ s.psu.vbus ∧ s.psu.vbus ≤ 12600 ∧ s.psu.pidx < 6) ∧
    (∀ n ∈ [2, 3], (alone.setPsu { alone.psu with badRun := n, link := 2 }).psu.link ≠ 0 ∧ ((alone.setPsu { alone.psu with badRun := n }).psu.badRun < 3 ↔ n = 2)) ∧
    (let s := late (alone.setPsu { alone.psu with link := 2, up := uplink 2 1, mainsLost := true, okSince := some 0 })
     s.psu.mainsLost = true ∧ s.psu.link = 2 ∧ bit s.psu.up.toNat 11 = true ∧ s.mainsHeld = true) ∧
    (∀ b, (alone.setPsu { alone.psu with link := 2, burst := b }).psu.burst = b) ∧
    (let s := withCfg alone [(sid 3 0x40 0x2F, 1)]
     s.boot.aonOn = true ∧ s.psuCfg 0x2F = 1 ∧ s.psu.rsvEn = false ∧ (withCfg alone [(sid 3 0x40 0x2F, 0)]).psuCfg 0x2F = 0) := by decide +kernel

/-- The hold-up estimate with and without a bus voltage above the level where it ends. -/
theorem witness_BarrierLink_holdup :
    let s := withCfg (alone.setPsu { alone.psu with link := 2, up := sealed (0xA + 256 * 2 + 2 ^ 16 * 780) }) [(sid 3 0x40 0x2D, 470)]
    s.psu.link ≠ 0 ∧ s.psuCfg 0x2D ≠ 0 ∧ s.psuCfg 0x29 < fld s.psu.up.toNat 16 10 ∧ (withCfg alone [(sid 3 0x40 0x2D, 0)]).psuCfg 0x2D = 0 := by decide +kernel

/-- A KF-7110 that runs. -/
def kfed (k : KfSt) : State := alone.setKf { k with on := true }

theorem witness_MainsOk : (kfed {}).kf.on = true ∧ (kfed {}).kf.mainsOk = false ∧ (kfed {}).kf.st ≠ 4 ∧ (∀ d ∈ [7500, 11000, 7500, 11000], 7500 ≤ d ∧ d ≤ 11000) ∧
    ∃ t1 t2 t3 t4 t5, exec (.zeroCrossing 11001 101) (kfed {}) = .next t1 ∧ exec (.zeroCrossing 7500 101) t1 = .next t2 ∧
      exec (.zeroCrossing 11000 101) t2 = .next t3 ∧ exec (.zeroCrossing 7500 101) t3 = .next t4 ∧ exec (.zeroCrossing 11000 101) t4 = .next t5 :=
  ⟨by decide +kernel, by decide +kernel, by decide +kernel, by decide, _, _, _, _, _, rfl, rfl, rfl, rfl, rfl⟩

theorem witness_PrimaryCompanion : alone.kf.on = false ∧ ((kfed { mainsOk := true }).kf.st = 0 ∧ (kfed { mainsOk := true }).kf.soft = false ∧
      (kfed { mainsOk := true }).kf.mainsOk = true) ∧ ((kfed { soft := true }).kf.soft = true ∧ (kfed { soft := true }).kf.st = 0) ∧
    (kfed { st := 3 }).kf.st = 3 ∧ ((kfed { st := 4, hot := true }).kf.st = 4 ∧ (kfed { st := 4, hot := true }).kf.hot = true ∧
      (kfed { st := 4 }).kf.hot = false) ∧
    ((kfed { st := 2, run := true, limRun := 63, capRun := 255 }).kf.switching = true ∧ (kfed {}).kf.switching = false) ∧
    (kfed { st := 2, bad := 3 }).kf.st = 2 ∧ 0 < (kfed { st := 2, run := true }).kf.par 5 ∧ (kfed { st := 1 }).kf.st ≤ 4 := by decide +kernel

theorem witness_Registers : (State.reset.pathUp .pf = false) ∧ (hosted.pathUp (.vf 4) = true ∧ hosted.pathUp .pf = true ∧ hosted.domOn 10 = true ∧ hosted.standalone = false) ∧
    (alone.pathUp (.core 0) = true ∧ alone.standalone = true ∧ alone.domOn 7 = true ∧ alone.domOn 6 = true ∧ alone.boot.aonOn = true ∧ alone.domOn 10 = true) ∧
    ((headed plain).cmt.queue ≠ [] ∧ alone.cmt.queue = [] ∧ alone.cmt.waiting = [] ∧ alone.cmt.held = []) ∧
    ((hosted.ring 127).busy = false ∧ ((asks hosted (req 1)).ring 0).busy = true ∧ ((asks hosted (req 1)).ring 0).on = true) ∧
    ((0x100 : BitVec 32).toNat.testBit 8 = true ∧ (1 : BitVec 32).toNat.testBit 0 = true ∧ (0x80000000 : BitVec 32).toNat.testBit 31 = true) ∧
    ((alone.setTime { alone.time with slotSeen := 20479 }).time.slotSeen < 20480 ∧ 7 < (alone.setTime { alone.time with slotSeen := 20479 }).time.slotSeen ∧
     alone.time.slotSeen ≤ 20479) := by
  decide +kernel

/-- A write of a word and a read of four bytes by a master. -/
def writes (m : BitVec 4) (a : BitVec 40) (p : Collision) (k : Nat := 0) : Access :=
  { master := m, func := 0, addr := a, write := true, len := 8, bytes := List.replicate 8 1, portA := p, ecc := .ok, portAt := k }
def reads (m : BitVec 4) (a : BitVec 40) : Access := { master := m, func := 0, addr := a, write := false, len := 4, bytes := [], portA := .none, ecc := .ok }

/-- Bank 63 read and written; a block whose WLOST was posted; accesses that are refused, by a core, the host and the commit unit; a core's access that
its attributes bar; a write of part of a register. -/
theorem witness_BusAccesses : State.reset.masterOn (reads 0xB 0x01000000) = false ∧
    (alone.masterOn (reads 0xB 0x0103FFFC) = true ∧ alone.poisonedIn 0x0103FFFC 4 = false) ∧
    (alone.masterOn (writes 5 0x40FFFFF8 .none) = true ∧ alone.region 0x40FFFFF8 = .vat 63 ∧ alone.refusalOf 5 0x40FFFFF8 8 true = none ∧
     alone.masterOn (writes 5 0x40FFFFF8 .write) = true ∧ alone.masterOn (reads 5 0x40FFFFF8) = true ∧ alone.refusalOf 5 0x40FFFFF8 4 false = none ∧
     (writes 5 0x40FFFFF8 .write).portAt = 0 ∧ 0 < (writes 5 0x40FFFFF8 .write 1).portAt ∧
     ((alone.putBank 63 { wlostBlk := some 0 }).bank 63).wlostBlk = some (BitVec.ofNat 64 (alone.time.tick.toNat / 48)) ∧ (alone.bank 63).wlostBlk = none) ∧
    ((cored {}).masterOn (writes 3 0x20000000 .none) = true ∧ (cored {}).coreBar (writes 3 0x20000000 .none) = none ∧
     (cored {}).refusalOf 3 0x20000000 8 true = some 0 ∧ hosted.masterOn (writes 6 0 .none) = true ∧ hosted.refusalOf 6 0 8 true = some 1 ∧
     hosted.refusalOf 5 0x20000000 8 true = some 0 ∧ hosted.masterOn (writes 5 0x20000000 .none) = true ∧ hosted.bus.err.valid = false ∧
     (hosted.setBus { hosted.bus with err := { hosted.bus.err with valid := true } }).bus.err.valid = true) ∧
    ((cored {}).masterOn (writes 3 0x40FFFFFC .none) = true ∧ (cored {}).coreBar (writes 3 0x40FFFFFC .none) = some 7) ∧
    (let x : Access := { writes 6 0x10000000 .none with len := 2, bytes := [1, 2] }
     hosted.masterOn x = true ∧ hosted.region x.addr.toNat = .setup) := by decide +kernel

theorem witness_BusAccesses_sound : Sound alone 0x40FFFFF8 4 := fun _ _ => decode_of _ (by decide +kernel) _

/-- Core 3 in a run state and M mode, its last trigger set for executing address 8, with an action. -/
def debugging (r : CoreRun) (action : Nat := 1) : State := alone.putCore 3 { run := r, trigs := [(3, { ctl := BitVec.ofNat 64 (0x44 + 4096 * action), val := 8 })] }

theorem witness_DebugPort : (alone.domOn 60 = true ∧ alone.boot.debugClosed = false ∧ alone.domOn 6 = true ∧ alone.poisonedIn 0x0103FFFC 4 = false) ∧
    ((debugging .running).domOn 3 = true ∧ ((debugging .running).core 3).run = .running ∧ ((debugging .halted).core 3).run = .halted ∧
     (debugging .halted).dbg.cmdErr = 0 ∧ ((debugging .running).cc.lines.map (·.1)).Nodup) ∧
    (∀ n ∈ [0, 1], let g := tget {} ((debugging .running n).core 3).trigs 3
     g.val = 8 ∧ g.ctl.toNat.testBit 2 = true ∧ g.ctl.toNat.testBit 19 = false ∧ g.ctl.toNat.testBit 6 = true ∧ ((debugging .running n).core 3).mode = 3 ∧
     (g.ctl.toNat / 4096 % 16 = 1 ↔ n = 1) ∧ (∀ j, j < 3 → (tget {} ((debugging .running n).core 3).trigs j).ctl.toNat / 4096 % 16 ≠ 1) ∧
     (∀ k, k < 4 → (tget {} ((debugging .running n).core 3).trigs k).matchesOp 3 .execute 9 0 = false)) ∧
    ((alone.setBoot { alone.boot with debugClosed := true }).boot.debugClosed = true) ∧
    ((0x80030001 : BitVec 32).toNat.testBit 0 = true ∧ (0x80030001 : BitVec 32).toNat.testBit 1 = false ∧ (0x80030001 : BitVec 32).toNat.testBit 29 = false ∧
     (0x80030001 : BitVec 32).toNat.testBit 31 = true ∧ (0x80030001 : BitVec 32).toNat / 65536 % 1024 = 3) := by decide +kernel

theorem witness_ChurnWordsRoundTrip : encodeChurn (.macc 7 { inv := true, sel := 3 } 1 7 100) = some 0x32B0470000000064 := by decide +kernel

end Sys2Proof.Tests
end

namespace Sys2Proof.ChurnSlot
open Sys2Proof.Machine Sys2Proof.Said

/-! What a slot that writes one predicate does (08 R183, R186 to R189). -/

/-- `Ready` is what the model asks of a PU that takes a slot. -/
theorem puRuns_of_ready {s : State} {pu : BitVec 3} (h : Ready s pu) : s.puRuns pu.toNat = true := by
  obtain ⟨hdom, hcke, hslot⟩ := h
  simp [State.puRuns, progSlots, hdom, hcke, hslot]

/-- `Executes` is the model's own test of an instruction's predicate (08 R186). -/
theorem executes_now {s : State} {pu : BitVec 3} {p : Pred} (h : Executes s pu p) : (now s pu).executes p = true := by
  simpa [Executes, PuSt.executes] using h

/-- The argument CMP, CMPI and PLOG share: a slot that executes sends its predicate to the next slot, and nothing else changes (08 R188). -/
theorem wroteP_opPred {s : State} {pu : BitVec 3} {p : Pred} (hr : Ready s pu) (he : Executes s pu p) (d : BitVec 3) (f : PuSt → Bool) :
    WroteP s (s.opPred pu p d f) pu d (f (now s pu)) := by
  rw [opPred_runs (puRuns_of_ready hr) (executes_now he)]
  refine ⟨((now s pu).sendP 1 d (f (now s pu))).flight, rfl, fun hd => ?seen, fun k n hn => ?other, fun k => preg_zero _, fun k r => ?data⟩
  case seen =>
    rw [pu_putPu_same, pAt, settle_preg_slot]
    exact sendP_seen _ 1 d _ hd
  case other =>
    rw [pu_putPu_same, pAt, settle_preg_slot]
    exact sendP_other _ 1 k d n _ hn
  case data =>
    rw [pu_putPu_same, dAt, settle_dreg_slot]
    exact sendP_dreg _ 1 k d r _

theorem exec_cmp_wroteP {s : State} {pu : BitVec 3} {p : Pred} (hr : Ready s pu) (he : Executes s pu p) (d : BitVec 3) (a b : BitVec 6) (c : BitVec 3) :
    ∃ t, exec (.cmp pu p d a b c) s = .next t ∧ WroteP s t pu d (condHolds c.toNat ((now s pu).dreg a) ((now s pu).dreg b)) :=
  ⟨_, rfl, wroteP_opPred hr he d _⟩

theorem exec_cmpi_wroteP {s : State} {pu : BitVec 3} {p : Pred} (hr : Ready s pu) (he : Executes s pu p) (d : BitVec 3) (a : BitVec 6) (c : BitVec 3)
    (imm : Word) : ∃ t, exec (.cmpi pu p d a c imm) s = .next t ∧ WroteP s t pu d (condHolds c.toNat ((now s pu).dreg a) imm) :=
  ⟨_, rfl, wroteP_opPred hr he d _⟩

theorem exec_plog_wroteP {s : State} {pu : BitVec 3} {p : Pred} (hr : Ready s pu) (he : Executes s pu p) (d m n : BitVec 3) (o : BitVec 2) :
    ∃ t, exec (.plog pu p d m n o) s = .next t ∧
      WroteP s t pu d (plogOf o.toNat ((now s pu).preg m.toNat) ((now s pu).preg n.toNat)) :=
  ⟨_, rfl, wroteP_opPred hr he d _⟩

/-- Settles O9: code for code the statement's tables agree with `condHolds` and `plogOf`, and each instruction sends that value by
`wroteP_opPred`. -/
theorem churnPredicates : Obligations.ChurnPredicates := by
  intro s pu p hr he u cond logic
  have cond_eq (c : BitVec 3) (a b : Word) : condHolds c.toNat a b = cond c a b := by
    simp only [cond]
    split
    case h_2 _ h =>
      rw [h]
      exact decide_not.symm
    case h_8 _ h0 h1 h2 h3 h4 h5 h6 =>
      simp only [condHolds, if_neg h0, if_neg h1, if_neg h2, if_neg h3, if_neg h4, if_neg h5, if_neg h6]
    all_goals
      rw [‹c.toNat = _›]
      rfl
  have logic_eq (o : BitVec 2) (a b : Bool) : plogOf o.toNat a b = logic o a b := by
    simp only [logic]
    split
    case h_4 _ h0 h1 h2 => simp only [plogOf, if_neg h0, if_neg h1, if_neg h2]
    all_goals
      rw [‹o.toNat = _›]
      rfl
  refine ⟨fun d a b c => ?_, fun d a c imm => ?_, fun d m n o => ?_⟩
  · rw [← cond_eq]
    exact exec_cmp_wroteP hr he d a b c
  · rw [← cond_eq]
    exact exec_cmpi_wroteP hr he d a c imm
  · rw [← logic_eq]
    exact exec_plog_wroteP hr he d m n o

end Sys2Proof.ChurnSlot

namespace Sys2Proof.Rounding
open Sys2Proof.Machine Sys2Proof.Said

/-! Rounding and clamping of the model against the words of the statements (08 R184, 09 R217). -/

/-- Ties away from zero treat both signs alike. -/
theorem nearest_neg {n v : Int} {k : Nat} (h : Nearest n k v) : Nearest (-n) k (-v) := by
  have hdist : (-(v * 2 ^ k) - -n).natAbs = (v * 2 ^ k - n).natAbs := by omega
  simpa only [Nearest, hdist, Int.neg_mul, Int.natAbs_neg] using h

/-- A magnitude with half a unit added and then cut is rounded to nearest, ties upwards. -/
theorem nearest_half_added (a k : Nat) : Nearest a k ((a + 2 ^ k / 2) / 2 ^ k : Nat) := by
  have hdiv : 2 ^ k * ((a + 2 ^ k / 2) / 2 ^ k) + (a + 2 ^ k / 2) % 2 ^ k = a + 2 ^ k / 2 := Nat.div_add_mod _ _
  have hmod : (a + 2 ^ k / 2) % 2 ^ k < 2 ^ k := Nat.mod_lt _ (Nat.two_pow_pos k)
  have hunit : 2 ^ k = 1 ∨ 2 ^ k % 2 = 0 := by
    cases k with
    | zero => exact .inl rfl
    | succ k => exact .inr (by rw [Nat.pow_succ, Nat.mul_mod_left])
  have hcast : (((a + 2 ^ k / 2) / 2 ^ k : Nat) : Int) * 2 ^ k = (2 ^ k * ((a + 2 ^ k / 2) / 2 ^ k) : Nat) := by
    rw [Int.mul_comm, Int.natCast_mul, Int.natCast_pow, Int.cast_ofNat_Int]
  unfold Nearest
  rw [hcast]
  omega

/-- `rndShr` is the rounding that the statements name (08 R184, 09 R217). -/
theorem nearest_rndShr (n : Int) (k : Nat) : Nearest n k (rndShr n k) := by
  have habs := nearest_half_added n.natAbs k
  unfold rndShr
  by_cases hn : n < 0
  · have hneg := nearest_neg habs
    rw [Int.ofNat_natAbs_of_nonpos (Int.le_of_lt hn), Int.neg_neg] at hneg
    simpa only [if_pos hn] using hneg
  · rw [Int.natAbs_of_nonneg (Int.not_lt.mp hn)] at habs
    simpa only [if_neg hn] using habs

theorem clampI_eq_max_min {lo hi : Int} (h : lo ≤ hi) (v : Int) : clampI lo hi v = max lo (min v hi) := by
  unfold clampI
  split
  · omega
  · split <;> omega

/-- The value that `clampN` passes on, and its count of 1 where that is another value. -/
theorem clampN_eq {lo hi : Int} (h : lo ≤ hi) (v : Int) :
    clampN lo hi v = (max lo (min v hi), if max lo (min v hi) = v then 0 else 1) := by
  rw [clampN, clampI_eq_max_min h]

end Sys2Proof.Rounding

namespace Sys2Proof.SeparatorRow
open Sys2Proof.Machine Sys2Proof.Said Sys2Proof.Rounding

/-! The arithmetic of a row of a layer (09 R217, R218). -/

theorem lutAt_eq (entry : Nat → Nat) (z : Int) :
    lutAt entry z = max 0 (min (((entry ((z + 32768).toNat / 64) % 65536 : Nat) : Int) +
      rndShr ((BitVec.ofNat 16 (entry ((z + 32768).toNat / 64) / 65536)).toInt * (((z + 32768).toNat % 64 : Nat) : Int)) 6) 65535) :=
  clampI_eq_max_min (by decide) _

theorem range_zip_eq_map_nth (x : List Int) : (List.range x.length).zip x = (List.range x.length).map fun i => (i, nth 0 x i) := by
  refine List.ext_getElem (by simp only [List.length_zip, List.length_range, Nat.min_self, List.length_map]) fun i hi _ => ?_
  have hx : i < x.length := by simpa only [List.length_zip, List.length_range, Nat.min_self] using hi
  simp only [List.getElem_zip, List.getElem_range, nth, List.getD_eq_getElem?_getD, List.getElem_map, hx, getElem?_pos, Option.getD_some]

/-- The dot product is the exact sum of the products, element by element. -/
theorem dot_eq_sum (n : LayerEnv) (o e : Nat) (x : List Int) :
    n.dot o e x = ((List.range x.length).map fun i => n.weight (o + i * e) e * nth 0 x i).sum := by
  rw [LayerEnv.dot, range_zip_eq_map_nth, List.foldl_map, List.sum_eq_foldl, List.foldl_map]

/-- A state channel: its two lookups take rounded and clamped pre-activations, its new state and the value passed on are the next two
roundings, and each of the four clamps counts for itself. -/
theorem channel_eq (n : LayerEnv) (x : List Int) (j : Nat) (h : Int) :
    let l := n.l
    let sat16 (v : Int) : Int := max (-32768) (min v 32767)
    let o2 := l.stW * l.inW * l.eIn
    let o3 := o2 + l.stW * l.inW * l.eD
    let p := n.bias j + n.dot (j * l.inW * l.eIn) l.eIn x
    let zd := rndShr (n.bias (l.stW + j) + n.dot (o2 + j * l.inW * l.eD) l.eD x) l.shD
    let zg := rndShr (n.bias (2 * l.stW + j) + n.dot (o3 + j * l.inW * l.eG) l.eG x) l.shG
    let t := p + rndShr ((h - p) * lutAt n.lutA (sat16 zd)) 16
    let h1 := max (-(2 ^ 47)) (min t (2 ^ 47 - 1))
    let v := rndShr (h1 * lutAt n.lutG (sat16 zg)) (16 + l.shH)
    n.channel x j h = (h1, sat16 v, (if sat16 zd = zd then 0 else 1) + (if sat16 zg = zg then 0 else 1)
      + (if h1 = t then 0 else 1) + (if sat16 v = v then 0 else 1)) := by
  have h16 : (-32768 : Int) ≤ 32767 := by decide
  have h48 : (-(2 ^ 47) : Int) ≤ 2 ^ 47 - 1 := by decide
  simp only [LayerEnv.channel, clampN_eq h16, clampN_eq h48]

theorem output_eq (n : LayerEnv) (x v : List Int) (k : Nat) :
    let l := n.l
    let o4 := l.stW * l.inW * (l.eIn + l.eD + l.eG)
    let t := rndShr (n.bias (3 * l.stW + k) + n.dot (o4 + k * l.stW * l.eOut) l.eOut v) l.shO
    let y := if l.resid then t + nth 0 x k else t
    n.output x v k = (max (-32768) (min y 32767), if max (-32768) (min y 32767) = y then 0 else 1) :=
  clampN_eq (by decide) _

/-- Settles O49: every rounding is `rndShr`, which is to nearest, and every saturation is a `clampN`, which counts the value it changed; the
lookup's clamp counts nothing. -/
theorem separatorArithmetic : Obligations.SeparatorArithmetic := by
  refine ⟨fun entry z _ _ => ?lookup, dot_eq_sum, fun n x j h => ?channel, fun n x v k => ?output⟩
  case lookup => exact ⟨_, nearest_rndShr _ _, lutAt_eq entry z⟩
  case channel =>
    exact ⟨_, _, _, _, nearest_rndShr _ _, nearest_rndShr _ _, nearest_rndShr _ _, nearest_rndShr _ _, channel_eq n x j h⟩
  case output => exact ⟨_, nearest_rndShr _ _, congrArg Prod.fst (output_eq n x v k)⟩

end Sys2Proof.SeparatorRow

namespace Sys2Proof.LinkFrame
open Sys2Proof.Machine

/-! The CRC of a frame of the barrier link as a remainder over GF(2), and when a frame is good (15 R372, R373). -/

/-- The product over GF(2) of the polynomial of the low `n` bits of `a` and that of `b`. -/
def polyMul (a b n : Nat) : Nat := (List.range n).foldl (fun r k => if a.testBit k then r ^^^ (b * 2 ^ k) else r) 0

/-- The number that bytes make, the first one the most significant. -/
def msbValue (l : List Byte) : Nat := l.foldl (fun n v => 256 * n + v.toNat) 0

/-- `c` is a byte, and `m`, eight zeros appended, differs from a multiple of x^8 + x^2 + x + 1 by `c`. -/
def IsRemainder (m c : Nat) : Prop := c < 256 ∧ ∃ q n, m * 256 ^^^ c = polyMul q 0x107 n

theorem two_mul_xor (a b : Nat) : 2 * (a ^^^ b) = 2 * a ^^^ 2 * b := by
  simpa only [Nat.shiftLeft_eq, Nat.pow_one, Nat.mul_comm] using Nat.shiftLeft_xor_distrib (a := a) (b := b) (i := 1)

theorem polyMul_zero (a b : Nat) : polyMul a b 0 = 0 := rfl

theorem polyMul_succ (a b n : Nat) :
    polyMul a b (n + 1) = if a.testBit n then polyMul a b n ^^^ b * 2 ^ n else polyMul a b n := by
  simp only [polyMul, List.range_succ, List.foldl_append, List.foldl_cons, List.foldl_nil]

/-- One more coefficient at the low end: (x q + e) b = x (q b) + e b. -/
theorem polyMul_bit_succ (q b n : Nat) (e : Bool) :
    polyMul (2 * q + e.toNat) b (n + 1) = 2 * polyMul q b n ^^^ (if e then b else 0) := by
  induction n with
  | zero =>
    have hlow : (2 * q + e.toNat).testBit 0 = e := by
      cases e <;> simp only [Nat.testBit_zero, Bool.toNat_true, Bool.toNat_false, decide_eq_true_eq, decide_eq_false_iff_not] <;> omega
    simp only [polyMul_succ, hlow, polyMul_zero, Nat.pow_zero, Nat.mul_one, Nat.mul_zero, Nat.zero_xor]
  | succ n ih =>
    have hhalf : (2 * q + e.toNat) / 2 = q := by have := e.toNat_lt; omega
    have hpow : b * 2 ^ (n + 1) = 2 * (b * 2 ^ n) := by rw [Nat.pow_succ', Nat.mul_left_comm]
    rw [polyMul_succ, ih, polyMul_succ q, Nat.testBit_succ, hhalf, hpow]
    split
    · rw [two_mul_xor, Nat.xor_assoc, Nat.xor_comm (if e then b else 0), Nat.xor_assoc]
    · rfl

/-- Numbers without a common bit add without a carry. -/
theorem two_pow_mul_add_eq_xor (a : Nat) {r k : Nat} (hr : r < 2 ^ k) : 2 ^ k * a + r = 2 ^ k * a ^^^ r := by
  rw [← Nat.div_add_mod (2 ^ k * a ^^^ r) (2 ^ k), Nat.xor_div_two_pow, Nat.xor_mod_two_pow, Nat.mul_div_cancel_left _ (Nat.two_pow_pos k),
    Nat.mul_mod_right, Nat.div_eq_of_lt hr, Nat.mod_eq_of_lt hr, Nat.xor_zero, Nat.zero_xor]

theorem two_mul_eq_top_xor_mod {c : Nat} (hc : c < 256) : 2 * c = 256 * (bit c 7).toNat ^^^ 2 * c % 256 := by
  have hxor := two_pow_mul_add_eq_xor (bit c 7).toNat (Nat.mod_lt (2 * c) (Nat.two_pow_pos 8))
  refine Eq.trans ?_ hxor
  rw [bit, Nat.toNat_testBit]
  omega

theorem shift_append_bit_eq_xor (m : Nat) (b : Bool) : (2 * m + b.toNat) * 256 = 2 * (m * 256) ^^^ 256 * b.toNat := by
  have hb : 256 * b.toNat < 2 ^ 9 := by have := b.toNat_lt; omega
  have hm : 2 * (m * 256) = 2 ^ 9 * m := by omega
  rw [hm, ← two_pow_mul_add_eq_xor m hb]
  omega

/-- With `t` and `b` both at x^8, taking the polynomial off where exactly one of them is set leaves x^8 clear. -/
theorem reduce_eq (r : Nat) (t b : Bool) :
    (if t != b then r ^^^ 7 else r) = 256 * b.toNat ^^^ (256 * t.toNat ^^^ r ^^^ (if t != b then 0x107 else 0)) := by
  have hpoly : 256 ^^^ (r ^^^ 0x107) = r ^^^ 7 := (Nat.xor_comm _ _).trans (Nat.xor_assoc r 0x107 256)
  have htwice : 256 ^^^ (256 ^^^ r) = r := by rw [← Nat.xor_assoc, Nat.xor_self, Nat.zero_xor]
  match t, b with
  | false, false => exact (by rw [Nat.zero_xor, Nat.zero_xor, Nat.xor_zero] : r = 0 ^^^ (0 ^^^ r ^^^ 0))
  | true, true => exact (by rw [Nat.xor_zero, htwice] : r = 256 ^^^ (256 ^^^ r ^^^ 0))
  | false, true => exact (by rw [Nat.zero_xor, hpoly] : r ^^^ 7 = 256 ^^^ (0 ^^^ r ^^^ 0x107))
  | true, false => exact (by rw [Nat.zero_xor, Nat.xor_assoc, hpoly] : r ^^^ 7 = 0 ^^^ (256 ^^^ r ^^^ 0x107))

/-- A step of the CRC doubles the remainder, adds the message's bit at x^8 and, where that leaves x^8 set, takes the polynomial off. -/
theorem crc8Bit_eq {c : Nat} (hc : c < 256) (b : Bool) :
    crc8Bit c b = 256 * b.toNat ^^^ (2 * c ^^^ (if bit c 7 != b then 0x107 else 0)) := by
  rw [crc8Bit, reduce_eq, ← two_mul_eq_top_xor_mod hc]

theorem crc8Bit_lt (c : Nat) (b : Bool) : crc8Bit c b < 256 := by
  have hmod : 2 * c % 256 < 2 ^ 8 := Nat.mod_lt _ (by decide)
  rw [crc8Bit]
  split
  · exact Nat.xor_lt_two_pow hmod (by decide)
  · exact hmod

/-- A bit appended to the message: the message's bit at x^8 cancels the one the step adds, so only the polynomial's multiple grows. -/
theorem IsRemainder.append_bit {m c : Nat} (h : IsRemainder m c) (b : Bool) :
    IsRemainder (2 * m + b.toNat) (crc8Bit c b) := by
  obtain ⟨hc, q, n, hq⟩ := h
  refine ⟨crc8Bit_lt c b, 2 * q + (bit c 7 != b).toNat, n + 1, ?_⟩
  rw [polyMul_bit_succ, ← hq, two_mul_xor, crc8Bit_eq hc, shift_append_bit_eq_xor, Nat.xor_assoc,
    ← Nat.xor_assoc (256 * b.toNat), Nat.xor_self, Nat.zero_xor, Nat.xor_assoc]

theorem foldl_bits_eq (v : Byte) (m : Nat) :
    [7, 6, 5, 4, 3, 2, 1, 0].foldl (fun m k => 2 * m + (bit v.toNat k).toNat) m = 256 * m + v.toNat := by
  simp only [List.foldl_cons, List.foldl_nil, bit, Nat.toNat_testBit]
  omega

theorem isRemainder_crc8 (l : List Byte) : IsRemainder (msbValue l) (crc8 l) := by
  refine List.foldl_rel (r := IsRemainder) ⟨by decide, 0, 0, rfl⟩ fun v _ m c h => ?_
  rw [← foldl_bits_eq]
  exact List.foldl_rel (r := IsRemainder) h fun k _ m c h => h.append_bit (bit v.toNat k)

theorem leBytes_eq_map_range (n v : Nat) : leBytes n v = (List.range n).map fun k => BitVec.ofNat 8 (v / 256 ^ k) := by
  induction n generalizing v with
  | zero => rfl
  | succ n ih =>
    simp only [leBytes, ih, List.range_succ_eq_map, List.map_cons, List.map_map, Function.comp_def, Nat.succ_eq_add_one, Nat.pow_zero,
      Nat.div_one, Nat.div_div_eq_div_mul, Nat.pow_succ']

theorem sealed_toNat_eq_iff (w : BitVec 64) : sealed w.toNat = w ↔ w.toNat / 2 ^ 56 = crc8 (leBytes 7 w.toNat) := by
  obtain ⟨hcrc, -⟩ := isRemainder_crc8 (leBytes 7 w.toNat)
  rw [sealed, ← BitVec.toNat_inj, BitVec.toNat_ofNat]
  omega

theorem frameGood_iff (sync : Nat) (w : BitVec 64) :
    frameGood sync w = true ↔ w.toNat % 16 = sync ∧ w.toNat / 2 ^ 56 = crc8 (leBytes 7 w.toNat) := by
  rw [← sealed_toNat_eq_iff, frameGood, Bool.and_eq_true, beq_iff_eq, decide_eq_true_eq]
  rfl

/-- Settles O53: after each bit the register is the remainder of the bits so far (`IsRemainder.append_bit`), and a frame is the sealed form of
its own fields just when its last byte is their CRC. -/
theorem linkCrc : Obligations.LinkCrc := by
  refine ⟨isRemainder_crc8, ?check, fun sync w => ?good⟩
  case check => decide +kernel
  case good => rw [frameGood_iff, leBytes_eq_map_range]

end Sys2Proof.LinkFrame
